-- ==== Sys2Proof/Word.lean ====
section
/-! DEFINITION. The word types of the manual and their plainest arithmetic. -/

namespace Sys2Proof

/-- A byte of a memory-resident structure, sheet or mailbox page. -/
abbrev Byte := BitVec 8

/-- Every register is 32 bits wide (R8). -/
abbrev Word := BitVec 32

/-- A 64-bit context word, step number or seed. -/
abbrev DWord := BitVec 64

/-- The 88-bit payload of a mark (R49). -/
abbrev Payload := BitVec 88

/-- A sparse map: key and value pairs, keys strictly rising, no entry equal to the default. -/
abbrev NMap (α : Type) := List (Nat × α)

end Sys2Proof
end

