-- ==== Sys2Proof/Syntax.lean ====
section
/-! DEFINITION. The commands: one constructor of Instr per row of spec/opcode_table.json, in the table's order. -/

namespace Sys2Proof

/-- The part of the node pair at which a command that both parts have takes place: the DX-T or the DX-S48. -/
inductive Side where
  | dxt
  | dxs
deriving DecidableEq, Repr

/-- One measurement of a launch-tree calibration (R138): the two calibration codes, then the start edge and the stops, each with the
cycle of its sampling edge, counted from the start of the measurement, and its code. -/
abbrev TreeTry := Nat × Nat × List (Nat × Nat)

/-- A column that is missed: the first of the pair being received or its `second`; `los` says that the PMA loses signal. -/
structure Missed where
  second : Bool
  los : Bool
deriving DecidableEq, Repr

/-- A PTP message that leaves: its type (0 Sync, 1 Delay_Req, 9 Delay_Resp, 11 Announce), and the converter's code and the position of
its timestamp point as in a reception. -/
structure PtpOut where
  ty : Nat
  code : Nat
  pos : Int
deriving DecidableEq, Repr

/-- What root B hands to root A with the role (R114): fw48, i48, the selection and the biases. -/
abbrev RootHand := Int × Int × Option Nat × List Int

/-- The page of JOB_LOAD, and the logical indices whose dies are not READY. -/
structure LoadPage where
  mb : Nat
  unready : List Nat
deriving DecidableEq, Repr

/-- The page of JOB_SAVE, the logical indices at which egress is held, and the pairs of gathering and logical index at which a fold
result is lacking. -/
structure SavePage where
  mb : Nat
  held : List Nat
  lacking : List (Nat × Nat)
deriving DecidableEq, Repr

/-- The page of JOB_RESTORE, and the colophon GEOM that the binder has read of the dies named by logical index. -/
structure RestorePage where
  mb : Nat
  geoms : List (Nat × Nat)
deriving DecidableEq, Repr

/-- The page of JOB_RESTART, the colophon GEOM of the dies named by position, and the positions whose dies are not READY. -/
structure RestartPage where
  mb : Nat
  geoms : List (Nat × Nat)
  unready : List Nat
deriving DecidableEq, Repr

/-- HANDBACK: its page at root B; or, with `given`, its effect at root A at the column boundary. -/
structure RolePage where
  mb : Nat
  given : Option RootHand
deriving DecidableEq, Repr

/-- A place of a command that carries nothing: the parts compute what would stand there from what they hold. -/
abbrev Blank := Unit

/-- The commands. The first operand `dt` of each is the number of time-clock cycles since the command before it
(log entry 1, DESIGN CHOICE). Operands that carry physical observations (a converter code, an oscillator stretch, a received mark) come
from outside the parts; everything else is read from the state. `sd` names the part, `p` a spine port, `mb` a mailbox,
`job` a job index, `off` a byte offset in the part's register window and `w` a written word. -/
inductive Instr where
  | goReceive (dt : Nat)
  | launch (dt : Nat)
  | doneSend (dt : Nat)
  | doneAggregate (dt : Nat)
  | commitListReceive (dt : Nat)
  | oppointReceive (dt : Nat)
  | voltageAck (dt : Nat)
  | relockComplete (dt : Nat)
  | vreqTimeout (dt : Nat)
  | decisionHoldExpire (dt job : Nat)
  | markPairSend (dt : Nat) (sd : Side) (p : Nat)
  | markEnqueue (dt : Nat) (sd : Side) (p : Nat)
  /-- `bits` is the 112-bit mark as sampled, `code` the code with which the port's converter took the pair's boundary (R126). -/
  | markPairReceive (dt : Nat) (sd : Side) (p : Nat) (bits : BitVec 112) (code : Nat)
  | resyncRepeat (dt : Nat) (sd : Side) (p : Nat)
  | resyncReceive (dt : Nat) (sd : Side)
  | resyncAckReceive (dt : Nat) (sd : Side)
  | markUncorrWindow (dt : Nat) (sd : Side) (p : Nat)
  | sheetSlotSend (dt : Nat) (sd : Side) (p : Nat)
  /-- `bytes` are the 256 bytes of the slot; `fecBad` says that an uncorrectable codeword overlaps it (R63). -/
  | sheetReceive (dt : Nat) (sd : Side) (p : Nat) (bytes : List Byte) (fecBad : Bool)
  | retryRepeat (dt : Nat) (sd : Side) (p : Nat)
  | retryReceive (dt : Nat) (sd : Side)
  | goPass (dt : Nat)
  | linkTrained (dt : Nat) (sd : Side) (p : Nat)
  /-- `idx` is the partner's pair index of the first pair accepted in UP; `epoch`, `lock` and `rxDown` are the fields of
  the two consistent IDLEs. -/
  | linkUp (dt : Nat) (sd : Side) (p idx : Nat) (epoch : BitVec 16) (lock : Nat) (rxDown : Bool)
  | columnMissed (dt : Nat) (sd : Side) (p : Nat) (los : Missed)
  | dwellExpire (dt : Nat) (sd : Side) (p : Nat)
  | lockRegained (dt : Nat) (sd : Side) (p : Nat)
  | echoReqSend (dt : Nat) (sd : Side) (p : Nat)
  | echoReqReceive (dt : Nat) (sd : Side)
  | echoRspReceive (dt : Nat) (sd : Side)
  | echoLost (dt : Nat) (sd : Side) (p : Nat)
  | intervalClose (dt : Nat) (sd : Side) (p : Nat)
  /-- `phaseOk`: the clean-up phase error lay within 50 ps in this column. -/
  | domainSelect (dt : Nat) (sd : Side) (phaseOk : Bool)
  | seedWrite (dt : Nat) (sd : Side) (w : Word)
  | seedRepeat (dt : Nat)
  | seedExpire (dt : Nat) (sd : Side)
  | htSnapshot (dt : Nat) (sd : Side) (w : Word)
  | htLoad (dt off : Nat) (w : Word)
  /-- The measurement of spine port `p`, or of `ETH0` and `ETH1` as ports 48 and 49. `pad` and `code` are
  the pad-sense edge, if one came, `loop` the edges of the marks that came back: each the cycles from its launch to its sampling edge,
  and its code. `path` is the loopback
  path delay stated for the PMA, ps. -/
  | latencyMeasure (dt : Nat) (sd : Side) (p : Nat) (pad : Option Nat) (code : Nat) (loop : List (Nat × Nat)) (path : Nat)
  | qlSend (dt : Nat)
  | qlReceive (dt : Nat) (sd : Side)
  | qlHoldoverSend (dt : Nat)
  | qlStale (dt : Nat) (sd : Side) (p : Nat)
  | refSelect (dt : Nat)
  | ppsEdge (dt n code : Nat)
  | refinEdgeMissing (dt n : Nat) (tenMhz : Bool)
  /-- A PTP message for slot 0 or 1, or for the transmitter of `ETH0` or `ETH1` as 2 and 3: its octets from the common header on. `code`
  is the code with which the port's converter took the PCS word clock, `pos` the message timestamp point less that edge, 2^-16 ns. -/
  | ptpMessageReceive (dt slot : Nat) (msg : List Byte) (code : Nat) (pos : Int)
  | ptpTimeout (dt slot : Nat) (sync : Bool)
  /-- A message leaves for a slot or transmitter. -/
  | ptpSend (dt slot : Nat) (out : PtpOut)
  | esmcReceive (dt eth ssm : Nat) (ext : Bool)
  | esmcTimeout (dt eth : Nat)
  | esmcSend (dt : Nat)
  | rootSecondClose (dt : Nat)
  | rootServoUpdate (dt : Nat)
  | rootAcquireEnd (dt : Nat)
  | htSet (dt off : Nat) (w : Word)
  | htStep (dt off : Nat) (w : Word)
  | fwSwWrite (dt : Nat) (w : Word)
  | swWatchdogExpire (dt : Nat)
  | forceSet (dt off : Nat) (w : Word)
  | ocxoOfsGate (dt : Nat) (freq valid : Blank)
  | ageFit (dt : Nat) (c1 tau t0 hours rms : Blank)
  | ageExpire (dt : Nat)
  | outputEdge (dt : Nat) (sd : Side) (out : Nat)
  | tdcCalibrate (dt : Nat) (sd : Side) (cv d1 d2 : Nat)
  /-- `src` is the input the edge came on: 0 1PPS, 1 10 MHz, 2 output pad sense, 3 programmed HT. -/
  | tdcEdge (dt : Nat) (sd : Side) (cv code src : Nat)
  | tdcWindowExpire (dt : Nat) (sd : Side) (cv : Nat)
  /-- `delayed`: the burst would have delayed a higher user; `taps` the taps that its shots hit; `residual` the largest residual in
  fs, should the burst complete a table. -/
  | linearityBurst (dt : Nat) (sd : Side) (cv : Nat) (delayed : Bool) (taps : List Nat) (residual : Nat)
  | freqGateEnd (dt cv : Nat)
  | swGo (dt : Nat) (w : Word)
  | fqGo (dt : Nat) (w : Word)
  /-- The measurements in order: of the reference loop, and of regions 0 to 63. -/
  | launchTreeCal (dt : Nat) (ref : List TreeTry) (tries : List (List TreeTry))
  /-- `stretch` is how far the period exceeds target in 0.1 %, `drop` the frequency drop in percent, `sends` the words sent
  in the cycle that begins: direction code and word. -/
  | regionCycle (dt r stretch drop : Nat) (sends : List (Nat × Nat))
  | regionEnd (dt r : Nat)
  | colophonSample (dt : Nat) (bytes : List Byte)
  /-- The largest lambda measured per used crossing and seam ratio trial. -/
  | crossingCal (dt : Nat) (lams : List (Nat × Nat))
  | lOverride (dt off : Nat) (w : Word)
  | seamOverride (dt off : Nat) (w : Word)
  | marginMeasure (dt r : Nat) (c0 c1 c2 c3 : Nat)
  | syncArrive (dt obj inc : Nat)
  | syncWait (dt : Nat) (w : Word)
  | waitRelease (dt lr : Nat)
  | completeReceive (dt : Nat)
  | arriveReceive (dt : Nat)
  | countReceive (dt : Nat)
  | completeForward (dt : Nat)
  | gatherDecide (dt gid slot : Nat)
  | settleExpire (dt gid slot : Nat)
  | foldLeafReadDone (dt b : Nat)
  | foldMessageReceive (dt : Nat)
  | foldWaitExpire (dt gid slot p : Nat)
  | foldTaskComplete (dt e : Nat)
  | foldTaskSteal (dt e : Nat)
  | foldKat (dt e : Nat) (pass : Bool)
  | foldResultReady (dt gid slot : Nat)
  | foldOutReceive (dt : Nat)
  | foldResultAck (dt b slot : Nat)
  | blockRecallDone (dt n : Nat)
  | nop (dt job : Nat)
  | halt (dt job : Nat)
  | branch (dt job : Nat)
  | movi (dt job : Nat)
  | calc (dt job : Nat)
  | get (dt job : Nat)
  | stamp (dt job : Nat)
  | live (dt job : Nat)
  | note (dt job : Nat)
  | assert (dt job : Nat)
  | waitt (dt job : Nat)
  | waittRelease (dt job : Nat)
  | waitg (dt job : Nat)
  | waitgRelease (dt job : Nat)
  | testg (dt job : Nat)
  | cutoff (dt job : Nat)
  | cutoffComplete (dt job : Nat)
  | retire (dt job : Nat)
  | charge (dt job : Nat)
  | admitSeq (dt job : Nat)
  | form (dt job : Nat)
  | commit (dt job : Nat)
  | pause (dt job : Nat)
  | oppoint (dt job : Nat)
  | applyat (dt job : Nat)
  | seed (dt job : Nat)
  | ckpt (dt job : Nat)
  | decisionReceive (dt : Nat)
  | decisionAckReceive (dt : Nat)
  | logSpaceAvailable (dt job : Nat)
  | eventSpaceAvailable (dt job : Nat)
  | applyRecordStep (dt : Nat)
  | rootApplyatCommit (dt job : Nat)
  | openSess (dt mb : Nat)
  | admitCmd (dt mb : Nat)
  | cancel (dt mb : Nat)
  | park (dt mb : Nat)
  | resume (dt mb : Nat)
  | close (dt mb : Nat)
  | closeTicket (dt mb : Nat)
  | query (dt mb : Nat)
  | queryTenant (dt mb : Nat)
  | tenantSet (dt mb : Nat)
  | tenantRemove (dt mb : Nat)
  | killSend (dt : Nat)
  | killRelay (dt : Nat)
  | killReceive (dt : Nat)
  | reportSend (dt : Nat)
  | reportMerge (dt job tag : Nat)
  | evictTick (dt : Nat)
  | faultReceive (dt : Nat) (sd : Side)
  | selfReport (dt : Nat) (sd : Side) (w : Word)
  | hbMiss (dt : Nat) (sd : Side) (p : Nat)
  | voteReceive (dt : Nat)
  | nvoteWrite (dt : Nat) (w : Word)
  /-- A subject is a die's logical index or a node number: `isNode` tells which. -/
  | loneVoteExpire (dt : Nat) (isNode : Bool) (subj : Nat)
  | verdictRecord (dt : Nat) (isNode : Bool) (subj : Nat)
  | fenceReceive (dt : Nat)
  | jStoredWrite (dt : Nat) (w : Word)
  | mailboxPoll (dt : Nat)
  | topoLoad (dt mb : Nat)
  | jobLoad (dt : Nat) (pg : LoadPage)
  | jobStart (dt mb : Nat)
  | jobPause (dt mb : Nat)
  | jobResume (dt mb : Nat)
  | jobUnload (dt mb : Nat)
  | jobSave (dt : Nat) (pg : SavePage)
  | jobRestore (dt : Nat) (pg : RestorePage)
  | jobRestart (dt : Nat) (pg : RestartPage)
  | restoreDone (dt mb : Nat)
  | gatherDefine (dt mb : Nat)
  | foldDefine (dt mb : Nat)
  | reinstate (dt mb : Nat)
  | handback (dt : Nat) (pg : RolePage)
  | funcReinitPort (dt mb : Nat)
  | funcReinitSession (dt mb : Nat)
  | funcReinitFold (dt mb : Nat)
  | funcReinitDma (dt mb : Nat)
  | remote (dt mb : Nat)
  | ptpConfig (dt mb : Nat)
  | status (dt mb : Nat)
  | remoteRead (dt : Nat) (sd : Side)
  | remoteWrite (dt : Nat) (sd : Side)
  | remoteGuarded (dt : Nat) (sd : Side)
  | remoteResponse (dt : Nat)
  | remoteTimeout (dt tag : Nat)
  | logReceive (dt : Nat)
  | binderBoot (dt : Nat)
  /-- `slice` is the node slice, in the table's own layout. -/
  | nodeSliceReceive (dt : Nat) (slice : List Byte)
  | bringTimeout (dt p : Nat)
  /-- A sweep step of a lane: `delayed` abandons it, `done` completes the sweep with margins `v` (mV) and `h` (1/64 UI). -/
  | eyeSweep (dt : Nat) (sd : Side) (lane v h : Nat) (delayed done : Bool)
  /-- `drop` is how far the added delay lowered the code of monitor `m` of region `r`. -/
  | replicaCheck (dt r m drop : Nat) (delayed : Bool)
  | trendSample (dt die : Nat)
  /-- The binder's least-squares projection per operating-point entry (entry, projected margin, WARN, die, region) and the
  quantile `q` (ns) of R329. -/
  | replanEvaluate (dt job : Nat) (warns : List (Nat × Nat)) (q : Blank)
  | proposalCommit (dt off : Nat) (w : Word)
  | apply (dt : Nat) (sd : Side) (w : Word)
  | applyStepEnd (dt : Nat) (sd : Side)
  | lockSet (dt : Nat) (w : Word)
  | guardTimeout (dt : Nat) (sd : Side) (page : Nat)
  | fenceEpochSet (dt off : Nat) (w : Word)
  | quorumSet (dt off : Nat) (w : Word)
  | crcPass (dt : Nat) (sd : Side) (page : Nat)
  | crcRefWrite (dt : Nat) (sd : Side) (w : Word)
  /-- `be` is the byte enables of the access. -/
  | registerWrite (dt : Nat) (sd : Side) (off : Nat) (be : BitVec 4) (w : Word)
  | dmaRingHeadWrite (dt : Nat) (sd : Side) (ch : Nat) (w : Word)
  | dmaBurstIssue (dt : Nat) (sd : Side) (ch : Nat) (wr : Bool)
  | dmaTransferComplete (dt : Nat) (sd : Side) (ch : Nat)
  | dmaBusError (dt : Nat) (sd : Side) (ch cause addr : Nat)
  | dmaCompletionTimeout (dt ch : Nat)
  | nodeReset (dt : Nat)
  /-- `cals` are the launch-to-pad delays measured for outputs 0 to 8, ps (R121). -/
  | nodeResetRelease (dt : Nat) (cals : List Nat)
  | dxtReset (dt : Nat)
  | dxtResetRelease (dt : Nat)
  /-- `c16` is the junction temperature in 1/16 degree Celsius. -/
  | thermAssert (dt : Nat) (c16 : Int)
  | thermalPowerDown (dt : Nat)
  | ocxoRdyChange (dt : Nat) (rdy : Bool)
  | modulePowerUp (dt mv : Nat)
  | inputShutdown (dt mv : Nat)
  | operationOn (dt : Nat)
  | operationOff (dt : Nat)
  | clearFaults (dt : Nat)
  | statusWord (dt : Nat)
  | readVin (dt : Nat)
  | readIin (dt : Nat)
  | readTemperature1 (dt : Nat)
  | readPin (dt : Nat)
  | pmbusRevision (dt : Nat)
  | mfrId (dt : Nat)
  | mfrDxReset (dt ms : Nat)
  | mfrDxFlashWr (dt addr : Nat) (bytes : List Byte)
  | mfrDxFlashRd (dt addr len : Nat)
  | mfrDxHold (dt : Nat)
  | mfrDxRelease (dt : Nat)
  | mfrDxOcxo (dt : Nat)
  | mfrDxModrec (dt : Nat)
  | ethLinkChange (dt eth : Nat) (up : Bool)
  | mailboxHostWrite (dt mb off : Nat) (w : Word)
  | fwSwPairDue (dt : Nat)
  | logRecordTimeout (dt : Nat)
  /-- `wr`: a write burst completed, otherwise a read burst. -/
  | dmaBurstComplete (dt : Nat) (sd : Side) (ch : Nat) (wr : Bool)
  | rootLaunchTime (dt job : Nat)
  | ageSample (dt : Nat)
  | perstNChange (dt : Nat) (level : Bool)
deriving DecidableEq, Repr

end Sys2Proof
end

