-- ==== Sys2Proof/Config.lean ====
section
/-! DEFINITION. What the manual leaves open: constants without a body, so that nothing can be proved of a value. -/

namespace Sys2Proof

/-- Whether a quotient that is no whole number is taken up (true) or down (false), where the manual names a mean or a
unit conversion without its rounding (R84, R85, R90, R107, R108). The argument is the exact numerator and denominator.
Log entry 3. -/
opaque Config.roundUp : Int → Nat → Bool

/-- The PTP port identity of ETH0 and ETH1, 80 bits, which the manual does not give. Log entry 162. -/
opaque Config.ptpIdentity : Nat → Nat

/-- A fresh free value, numbered by the counter `Block.free` that a command reads and advances. Log entry 5. -/
opaque Config.freeValue : Nat → Nat

/-- What a supply or temperature monitor reads at an edge of its part's slow clock: a physical quantity that no command
carries. Arguments: the monitor (0 VDD_CORE and 1 VDD_SRAM of the DX-S48, 2 the die's supply, 3 the die's temperature) and the
number of the edge. Log entry 19. -/
opaque Config.monitor : Nat → Nat → Nat

/-- The word in which the module's controller gives a quantity over PMBus: the manual names the quantities and no number
format. Arguments: the command code and the quantity. Log entry 31. -/
opaque Config.pmbusWord : Nat → Int → Nat

/-- The bytes of MFR_ID, which the manual does not give. Log entry 31. -/
opaque Config.mfrId : List Byte

end Sys2Proof
end

