-- ==== Sys2Proof/Machine/Bits.lean ====
section
/-! DEFINITION. Sparse maps, bit fields, byte order, sign, rounding and CRC-32C: the plain operations everything else uses. -/

namespace Sys2Proof.Machine

/-! ### Sparse maps: keys strictly rising, no entry equal to the default `d` of its key. -/

/-- The value at key `k`; `d` gives what an unlisted key reads as. -/
def nget {α : Type} (d : Nat → α) : NMap α → Nat → α
  | [], k => d k
  | (j, v) :: m, k => if j = k then v else nget d m k

/-- Puts an entry where its key belongs. -/
def nins {α : Type} : NMap α → Nat → α → NMap α
  | [], k, v => [(k, v)]
  | (j, u) :: m, k, v => if j < k then (j, u) :: nins m k v else (k, v) :: (j, u) :: m

/-- The map without key `k`. -/
def ndel {α : Type} (m : NMap α) (k : Nat) : NMap α := m.filter fun e => e.1 != k

/-- Writes the value at key `k` and keeps the canonical form. -/
def nset {α : Type} [DecidableEq α] (d : Nat → α) (m : NMap α) (k : Nat) (v : α) : NMap α :=
  if v = d k then ndel m k else nins (ndel m k) k v

/-- Applies a function to the value at key `k`. -/
def nupd {α : Type} [DecidableEq α] (d : Nat → α) (m : NMap α) (k : Nat) (f : α → α) : NMap α :=
  nset d m k (f (nget d m k))

/-- The canonical form. -/
def NMapWf {α : Type} [DecidableEq α] (d : Nat → α) : NMap α → Bool
  | [] => true
  | [(k, v)] => decide (v ≠ d k)
  | (j, u) :: (k, v) :: m => decide (u ≠ d j) && decide (j < k) && NMapWf d ((k, v) :: m)

/-- The default of a map whose values may be absent. -/
def nnone {α : Type} (_ : Nat) : Option α := none

/-- The keys that hold a value, with it. -/
def nlist {α : Type} (m : NMap (Option α)) : List (Nat × α) :=
  m.filterMap fun p => p.2.map fun v => (p.1, v)

/-! ### Bit fields -/

/-- Bits [hi:lo] of a number. -/
def bits (v hi lo : Nat) : Nat := (v >>> lo) % 2 ^ (hi + 1 - lo)

/-- Bit `i` of a number. -/
def bit (v i : Nat) : Bool := v.testBit i

/-- Bits [hi:lo] of a word. -/
def fld (w : Word) (hi lo : Nat) : Nat := bits w.toNat hi lo

/-- Bit `i` of a word. -/
def wbit (w : Word) (i : Nat) : Bool := w.toNat.testBit i

/-- A number as a word, modulo 2^32. -/
def w32 (n : Nat) : Word := BitVec.ofNat 32 n

/-- An integer as a word in two's complement. -/
def i32 (n : Int) : Word := BitVec.ofInt 32 n

def b2n (b : Bool) : Nat := if b then 1 else 0

/-- The low `n` bits of `v` read as a signed number. -/
def sx (n v : Nat) : Int := if v % 2 ^ n < 2 ^ (n - 1) then (v % 2 ^ n : Nat) else (v % 2 ^ n : Nat) - (2 ^ n : Nat)

/-- An integer limited to the signed 32-bit range. -/
def sat32 (n : Int) : Int := max (-2147483648) (min 2147483647 n)

/-- An integer limited to plus or minus `lim`. -/
def clampI (lim n : Int) : Int := max (-lim) (min lim n)

/-- An unsigned number limited to `n` bits. -/
def satU (n v : Nat) : Nat := min v (2 ^ n - 1)

/-! ### Rounding (R4 and the rules that name one) -/

/-- Nearest whole number, ties away from zero. -/
def roundAway (n : Int) (d : Nat) : Int :=
  if 0 ≤ n then (2 * n + d) / (2 * d) else -((2 * (-n) + d) / (2 * d))

/-- Nearest whole number, ties to even. -/
def roundEven (n : Int) (d : Nat) : Int :=
  let q := n / d
  let r := n % d
  if 2 * r < d then q else if 2 * r > d then q + 1 else if q % 2 = 0 then q else q + 1

/-- A quotient whose rounding the manual does not give: exact where it divides, else one of its neighbours, left free. -/
def divR (n : Int) (d : Nat) : Int :=
  if n % d = 0 then n / d else n / d + (if Config.roundUp n d then 1 else 0)

/-- The smallest multiple of `m` at or above `v`. -/
def ceilMul (m v : Nat) : Nat := (v + m - 1) / m * m

/-! ### Bytes, little-endian (R7) -/

/-- The `n` low bytes of `v`, least significant first. -/
def leBytes : Nat → Nat → List Byte
  | 0, _ => []
  | n + 1, v => BitVec.ofNat 8 v :: leBytes n (v / 256)

/-- The number a list of bytes spells, least significant first. -/
def ofLe : List Byte → Nat
  | [] => 0
  | b :: bs => b.toNat + 256 * ofLe bs

/-- `n` bytes of a list from position `i`; positions beyond its end read 0. -/
def slice (bs : List Byte) (i n : Nat) : List Byte :=
  let t := (bs.drop i).take n
  t ++ List.replicate (n - t.length) 0

/-- The little-endian number in `n` bytes at position `i`. -/
def leAt (bs : List Byte) (i n : Nat) : Nat := ofLe (slice bs i n)

/-- A list of bytes padded with 0 or cut to `n`. -/
def padTo (n : Nat) (bs : List Byte) : List Byte := slice bs 0 n

/-- A list of bytes with some written over at position `i`. -/
def overwrite (bs : List Byte) (i : Nat) (ws : List Byte) : List Byte :=
  slice bs 0 i ++ ws ++ bs.drop (i + ws.length)

/-! ### CRC-32C (R10): reflected, initial value and final XOR all ones -/

def crcBit (c : Nat) : Nat := if c % 2 = 1 then (c / 2) ^^^ 0x82F63B78 else c / 2

def crcByte (c : Nat) (b : Byte) : Nat :=
  let c := c ^^^ b.toNat
  crcBit (crcBit (crcBit (crcBit (crcBit (crcBit (crcBit (crcBit c)))))))

def crc32c (bs : List Byte) : Nat := (bs.foldl crcByte 0xFFFFFFFF) ^^^ 0xFFFFFFFF

/-! ### Sparse byte memories: an unwritten byte reads 0 (log entry 6, DESIGN CHOICE) -/

def memZero (_ : Nat) : Byte := 0

def memRead (m : NMap Byte) (a : Nat) : Byte := nget memZero m a

def memReadN (m : NMap Byte) (a n : Nat) : List Byte := (List.range n).map fun i => memRead m (a + i)

def memWrite (m : NMap Byte) (a : Nat) (b : Byte) : NMap Byte := nset memZero m a b

/-- Writes bytes at rising addresses. -/
def memWriteN (m : NMap Byte) (a : Nat) : List Byte → NMap Byte
  | [] => m
  | b :: bs => memWriteN (memWrite m a b) (a + 1) bs

/-- Whether a memory holds its canonical form. -/
def Memory.wf (m : NMap Byte) : Bool := NMapWf memZero m

/-- Nearest whole number; a tie is left open (log entry 3, DESIGN CHOICE). -/
def roundOpen (n : Int) (d : Nat) : Int :=
  let q := n / d
  let r := n % d
  if 2 * r < d then q else if 2 * r > d then q + 1 else q + (if Config.roundUp n d then 1 else 0)

/-! ### Lists -/

/-- Removes the first element that satisfies `p`, and gives it. -/
def takeFirst {α : Type} (p : α → Bool) : List α → Option (α × List α)
  | [] => none
  | x :: xs => if p x then some (x, xs) else (takeFirst p xs).map fun r => (r.1, x :: r.2)

/-- Replaces position `i`. -/
def setAt {α : Type} (l : List α) (i : Nat) (v : α) : List α := l.set i v

/-- The last `n` elements. -/
def lastN {α : Type} (n : Nat) (l : List α) : List α := l.drop (l.length - n)

def sumN (l : List Nat) : Nat := l.foldl (· + ·) 0

def sumI (l : List Int) : Int := l.foldl (· + ·) 0

def maxN (l : List Nat) : Nat := l.foldl max 0

end Sys2Proof.Machine
end

