-- ==== Sys2Proof/Machine/RegMap.lean ====
section
/-! DEFINITION. The register maps (R334, R356, R357 and the map of each block): names, access, selector, reset, defined
fields. -/

namespace Sys2Proof.Machine

/-- How a register is accessed: read only, read only and refreshed on the slow clock, read and write, staged, guarded pair,
locked (R8, R344 to R347). -/
inductive Acc where
  | ro
  | roc
  | rw
  | rws
  | wg
  | lk
deriving DecidableEq, Repr

/-- A row of a block's register map: window offset, access, selector register, reset value, defined writable fields. -/
structure RegRow where
  off : Nat
  acc : Acc
  sel : Option Nat
  reset : Nat
  mask : Nat
deriving DecidableEq, Repr

/-! Offsets. A block that lies at the same page in both parts, or in one part only, has window offsets; the blocks TO, TM, IS
and DM lie at different pages in the two parts and have offsets within the block. -/

abbrev Reg.FT_JOBSEL : Nat := 0x1000
abbrev Reg.FT_PERIOD : Nat := 0x1004
abbrev Reg.FT_LEAD : Nat := 0x1008
abbrev Reg.FT_DELIVERY : Nat := 0x100C
abbrev Reg.FT_STATUS : Nat := 0x1010
abbrev Reg.FT_SN_LO : Nat := 0x1014
abbrev Reg.FT_SN_HI : Nat := 0x1018
abbrev Reg.FT_GO : Nat := 0x101C
abbrev Reg.FT_SEAL : Nat := 0x1028
abbrev Reg.FT_CUT : Nat := 0x1034
abbrev Reg.FT_SLACK : Nat := 0x1040
abbrev Reg.FT_LATE_CNT : Nat := 0x1044
abbrev Reg.FT_LATE_MAX : Nat := 0x1048
abbrev Reg.FT_EMIT_CNT : Nat := 0x104C
abbrev Reg.FT_TAG : Nat := 0x1050
abbrev Reg.STEP_STATUS : Nat := 0x1000
abbrev Reg.STEP_SN_LO : Nat := 0x1004
abbrev Reg.STEP_SN_HI : Nat := 0x1008
abbrev Reg.STEP_GO : Nat := 0x100C
abbrev Reg.STEP_DONE : Nat := 0x1018
abbrev Reg.STEP_JOB : Nat := 0x1024
abbrev Reg.STEP_ARM_MIN : Nat := 0x1028
abbrev Reg.STEP_LAUNCH_CNT : Nat := 0x102C
abbrev Reg.STEP_GO_LATE_CNT : Nat := 0x1030
abbrev Reg.STEP_GO_DUP_CNT : Nat := 0x1034
abbrev Reg.STEP_HOLD_CNT : Nat := 0x1038
abbrev Reg.STEP_TAG : Nat := 0x103C
abbrev Reg.SP_PORTSEL : Nat := 0x2000
abbrev Reg.SP_CTRL : Nat := 0x2004
abbrev Reg.SP_DWELL : Nat := 0x2008
abbrev Reg.SP_CRED_INIT : Nat := 0x200C
abbrev Reg.SP_RETRY_TO : Nat := 0x2010
abbrev Reg.SP_UNCORR_LIM : Nat := 0x2014
abbrev Reg.SP_EPOCH : Nat := 0x2018
abbrev Reg.SP_EPOCH_C : Nat := 0x201C
abbrev Reg.SP_STATUS : Nat := 0x2020
abbrev Reg.SP_PARTNER : Nat := 0x2024
abbrev Reg.SP_MQ_MAX : Nat := 0x2028
abbrev Reg.SP_MARK_CORR_CNT : Nat := 0x202C
abbrev Reg.SP_MARK_UNCORR_CNT : Nat := 0x2030
abbrev Reg.SP_MARK_COPY_CNT : Nat := 0x2034
abbrev Reg.SP_MALF_CNT : Nat := 0x2038
abbrev Reg.SP_MARK_RESENT_CNT : Nat := 0x203C
abbrev Reg.SP_EPOCH_DROP_CNT : Nat := 0x2040
abbrev Reg.SP_SHEET_CRC_CNT : Nat := 0x2044
abbrev Reg.SP_SHEET_REPLAY_CNT : Nat := 0x2048
abbrev Reg.SP_LINK_DOWN_CNT : Nat := 0x204C
abbrev Reg.SP_QFULL_CNT : Nat := 0x2050
abbrev Reg.SP_CRED_AVAIL : Nat := 0x2054
abbrev Reg.SP_REPLAY_OCC : Nat := 0x2058
abbrev Reg.SP_MQ_OCC : Nat := 0x205C
abbrev Reg.TT_PORTSEL : Nat := 0x3000
abbrev Reg.TT_CTRL : Nat := 0x3004
abbrev Reg.TT_REFS : Nat := 0x3008
abbrev Reg.TT_LOCK_CFG : Nat := 0x300C
abbrev Reg.TT_SERVO_CFG : Nat := 0x3010
abbrev Reg.TT_STEP_LIM : Nat := 0x3014
abbrev Reg.TT_WTR : Nat := 0x3018
abbrev Reg.TT_SPLIT_LIM : Nat := 0x301C
abbrev Reg.TT_FW_LIM : Nat := 0x3020
abbrev Reg.TT_FW_SW : Nat := 0x3024
abbrev Reg.TT_SNAP : Nat := 0x3028
abbrev Reg.TT_STATUS : Nat := 0x302C
abbrev Reg.TT_FW : Nat := 0x3030
abbrev Reg.TT_FW_AVG : Nat := 0x3034
abbrev Reg.TT_HT_SNAP : Nat := 0x3038
abbrev Reg.TT_SNAP_SEQ : Nat := 0x3044
abbrev Reg.TT_SEED : Nat := 0x3048
abbrev Reg.TT_DOM_OFS : Nat := 0x3054
abbrev Reg.TT_SWITCH_CNT : Nat := 0x3058
abbrev Reg.TT_OVERCAST_CNT : Nat := 0x305C
abbrev Reg.TT_HTLOAD_NS : Nat := 0x3060
abbrev Reg.TT_HTLOAD_NS_C : Nat := 0x3064
abbrev Reg.TT_HTLOAD_S : Nat := 0x3068
abbrev Reg.TT_HTLOAD_S_C : Nat := 0x306C
abbrev Reg.TT_HTLOAD_SH : Nat := 0x3070
abbrev Reg.TT_HTLOAD_SH_C : Nat := 0x3074
abbrev Reg.TT_RELOAD_CNT : Nat := 0x3078
abbrev Reg.TT_P_CABLE_ASYM : Nat := 0x3080
abbrev Reg.TT_P_LAT : Nat := 0x3084
abbrev Reg.TT_P_THETA : Nat := 0x3088
abbrev Reg.TT_P_MPD : Nat := 0x308C
abbrev Reg.TT_P_BIAS : Nat := 0x3090
abbrev Reg.TT_P_ECHO : Nat := 0x3094
abbrev Reg.TT_P_QL : Nat := 0x3098
abbrev Reg.TT_P_ECHO_LOST_CNT : Nat := 0x309C
abbrev Reg.TT_P_ECHO_GATE_CNT : Nat := 0x30A0
abbrev Reg.TT_P_ECHO_ANS_CNT : Nat := 0x30A4
abbrev Reg.RF_REFSEL : Nat := 0x4000
abbrev Reg.RF_CTRL : Nat := 0x4004
abbrev Reg.RF_PRIO : Nat := 0x4008
abbrev Reg.RF_LOCK : Nat := 0x400C
abbrev Reg.RF_GAIN : Nat := 0x4010
abbrev Reg.RF_ALIGN : Nat := 0x4014
abbrev Reg.RF_WTR : Nat := 0x4018
abbrev Reg.RF_QL_CFG : Nat := 0x401C
abbrev Reg.RF_HOLD_SPEC : Nat := 0x4020
abbrev Reg.RF_STATUS : Nat := 0x4024
abbrev Reg.RF_BIAS : Nat := 0x4028
abbrev Reg.RF_FW_EXT : Nat := 0x402C
abbrev Reg.RF_FW_SW_EXT : Nat := 0x4030
abbrev Reg.RF_SW_WDOG : Nat := 0x4034
abbrev Reg.RF_AGE_C1 : Nat := 0x4038
abbrev Reg.RF_AGE_TAU : Nat := 0x403C
abbrev Reg.RF_AGE_T0 : Nat := 0x4040
abbrev Reg.RF_OCXO_OFS : Nat := 0x4044
abbrev Reg.RF_SWITCH_CNT : Nat := 0x4048
abbrev Reg.RF_FORCE : Nat := 0x404C
abbrev Reg.RF_FORCE_C : Nat := 0x4050
abbrev Reg.RF_HTSET_NS : Nat := 0x4054
abbrev Reg.RF_HTSET_NS_C : Nat := 0x4058
abbrev Reg.RF_HTSET_S : Nat := 0x405C
abbrev Reg.RF_HTSET_S_C : Nat := 0x4060
abbrev Reg.RF_HTSET_SH : Nat := 0x4064
abbrev Reg.RF_HTSET_SH_C : Nat := 0x4068
abbrev Reg.RF_HTSTEP : Nat := 0x406C
abbrev Reg.RF_HTSTEP_C : Nat := 0x4070
abbrev Reg.RF_HTSET_ST : Nat := 0x4074
abbrev Reg.RF_P_CFG : Nat := 0x4080
abbrev Reg.RF_P_QUAL : Nat := 0x4084
abbrev Reg.RF_P_COMP : Nat := 0x4088
abbrev Reg.RF_P_STATUS : Nat := 0x408C
abbrev Reg.RF_P_THETA_NS : Nat := 0x4090
abbrev Reg.RF_P_THETA_FR : Nat := 0x4094
abbrev Reg.RF_P_SEQ : Nat := 0x4098
abbrev Reg.RF_P_FREQ : Nat := 0x409C
abbrev Reg.RF_P_BIAS : Nat := 0x40A0
abbrev Reg.RF_P_REJ_CNT : Nat := 0x40A4
abbrev Reg.RF_P_EDGE_CNT : Nat := 0x40A8
abbrev Reg.TO_OUTSEL : Nat := 0x0
abbrev Reg.TO_CTRL : Nat := 0x4
abbrev Reg.TO_OFFSET : Nat := 0x8
abbrev Reg.TO_OFFSET_FR : Nat := 0xC
abbrev Reg.TO_START : Nat := 0x10
abbrev Reg.TO_PERIOD : Nat := 0x1C
abbrev Reg.TO_WIDTH : Nat := 0x20
abbrev Reg.TO_STATUS : Nat := 0x24
abbrev Reg.TO_EDGE : Nat := 0x28
abbrev Reg.TO_EDGE_CNT : Nat := 0x34
abbrev Reg.TO_CAL : Nat := 0x38
abbrev Reg.TM_CVSEL : Nat := 0x0
abbrev Reg.TM_CV_STATUS : Nat := 0x4
abbrev Reg.TM_CV_SCALE : Nat := 0x8
abbrev Reg.TM_CV_OFFSET : Nat := 0xC
abbrev Reg.TM_CV_INL : Nat := 0x10
abbrev Reg.TM_CV_MEAS_CNT : Nat := 0x14
abbrev Reg.TM_CV_MERGED_CNT : Nat := 0x18
abbrev Reg.TM_CV_CALFAIL_CNT : Nat := 0x1C
abbrev Reg.TM_SW_CTRL : Nat := 0x20
abbrev Reg.TM_SW_WINDOW : Nat := 0x24
abbrev Reg.TM_SW_START : Nat := 0x28
abbrev Reg.TM_SW_GO : Nat := 0x34
abbrev Reg.TM_SW_STATUS : Nat := 0x38
abbrev Reg.TM_SW_RESSEL : Nat := 0x3C
abbrev Reg.TM_SW_RES : Nat := 0x40
abbrev Reg.TM_SW_RES_FLAGS : Nat := 0x4C
abbrev Reg.TM_FQ_CTRL : Nat := 0x50
abbrev Reg.TM_FQ_GO : Nat := 0x54
abbrev Reg.TM_FQ_STATUS : Nat := 0x58
abbrev Reg.TM_FQ_FREQ : Nat := 0x5C
abbrev Reg.TM_FQ_N : Nat := 0x60
abbrev Reg.TM_FQ_SEQ : Nat := 0x64
abbrev Reg.TM_SW_BUSY_CNT : Nat := 0x68
abbrev Reg.TM_LT_REGSEL : Nat := 0x80
abbrev Reg.TM_LT_RESULT : Nat := 0x84
abbrev Reg.TM_LT_STATUS : Nat := 0x88
abbrev Reg.DC_STATUS : Nat := 0x6000
abbrev Reg.DC_DESC_BASE : Nat := 0x6004
abbrev Reg.DC_DESC_CFG : Nat := 0x6008
abbrev Reg.DC_MARGIN_CFG : Nat := 0x600C
abbrev Reg.DC_OPP_SEL : Nat := 0x6010
abbrev Reg.DC_OPP_FREQ : Nat := 0x6014
abbrev Reg.DC_OPP_VREQ : Nat := 0x6018
abbrev Reg.DC_SEAM_OVR : Nat := 0x601C
abbrev Reg.DC_SEAM_OVR_C : Nat := 0x6020
abbrev Reg.DC_L_OVR : Nat := 0x6024
abbrev Reg.DC_L_OVR_C : Nat := 0x6028
abbrev Reg.DC_COL_SERIAL_LO : Nat := 0x602C
abbrev Reg.DC_COL_SERIAL_HI : Nat := 0x6030
abbrev Reg.DC_COL_MASK_LO : Nat := 0x6034
abbrev Reg.DC_COL_MASK_HI : Nat := 0x6038
abbrev Reg.DC_COL_INFO : Nat := 0x603C
abbrev Reg.DC_REFUSE : Nat := 0x6040
abbrev Reg.DC_WITHHOLD_CNT : Nat := 0x6044
abbrev Reg.DC_PARK_DROP_CNT : Nat := 0x6048
abbrev Reg.DC_SEAM_RATE_CNT : Nat := 0x604C
abbrev Reg.DC_RESIDUE_CNT : Nat := 0x6050
abbrev Reg.DC_MARGIN_WARN_CNT : Nat := 0x6054
abbrev Reg.DC_RELOCK_MAX : Nat := 0x6058
abbrev Reg.DC_REGSEL : Nat := 0x6060
abbrev Reg.DC_R_STATUS : Nat := 0x6064
abbrev Reg.DC_R_TRIM : Nat := 0x6068
abbrev Reg.DC_R_MARGIN : Nat := 0x606C
abbrev Reg.DC_R_CYCLE : Nat := 0x6070
abbrev Reg.DC_R_SQUALL_CNT : Nat := 0x6074
abbrev Reg.DC_R_STRETCH_CNT : Nat := 0x6078
abbrev Reg.DC_R_STALL_CNT : Nat := 0x607C
abbrev Reg.DC_R_HOLD_CNT : Nat := 0x6080
abbrev Reg.DC_R_DEPTH_MAX : Nat := 0x6084
abbrev Reg.DC_XSEL : Nat := 0x6090
abbrev Reg.DC_X_STATUS : Nat := 0x6094
abbrev Reg.DC_X_SLACK : Nat := 0x6098
abbrev Reg.DC_X_STALL_CNT : Nat := 0x609C
abbrev Reg.GA_IDSEL : Nat := 0x7000
abbrev Reg.GA_CFG : Nat := 0x7004
abbrev Reg.GA_EXPECT : Nat := 0x7008
abbrev Reg.GA_DEADLINE : Nat := 0x700C
abbrev Reg.GA_N : Nat := 0x7010
abbrev Reg.GA_K : Nat := 0x7014
abbrev Reg.GA_SETTLE : Nat := 0x7018
abbrev Reg.GA_SLOTSEL : Nat := 0x701C
abbrev Reg.GA_S_STATE : Nat := 0x7020
abbrev Reg.GA_S_RECV : Nat := 0x7024
abbrev Reg.GA_S_FWD : Nat := 0x7028
abbrev Reg.GA_S_PEND : Nat := 0x702C
abbrev Reg.GA_S_LATE : Nat := 0x7030
abbrev Reg.GA_S_STAMP : Nat := 0x7034
abbrev Reg.GA_S_RECV_B : Nat := 0x7040
abbrev Reg.GA_S_LATE_B : Nat := 0x7044
abbrev Reg.GA_JOBSEL : Nat := 0x7048
abbrev Reg.GA_RANGE : Nat := 0x704C
abbrev Reg.GA_STATUS : Nat := 0x7050
abbrev Reg.GA_IDS_USED : Nat := 0x7054
abbrev Reg.GA_AUDIT_CNT : Nat := 0x7058
abbrev Reg.GA_DECIDED_CNT : Nat := 0x705C
abbrev Reg.GA_EXPIRED_CNT : Nat := 0x7060
abbrev Reg.GA_LATE_ARR_CNT : Nat := 0x7064
abbrev Reg.GA_SETTLE_VIOL_CNT : Nat := 0x7068
abbrev Reg.GA_STALE_CNT : Nat := 0x706C
abbrev Reg.GA_SEQ_CNT : Nat := 0x7070
abbrev Reg.GA_KIND_CNT : Nat := 0x7074
abbrev Reg.GA_NOREC_CNT : Nat := 0x7078
abbrev Reg.SY_OBJSEL : Nat := 0x7000
abbrev Reg.SY_OBJ_CFG : Nat := 0x7004
abbrev Reg.SY_OBJ_GID : Nat := 0x7008
abbrev Reg.SY_OBJ_COUNT : Nat := 0x700C
abbrev Reg.SY_OBJ_STATE : Nat := 0x7010
abbrev Reg.SY_OBJ_STAMP : Nat := 0x7014
abbrev Reg.SY_OBJ_TAG : Nat := 0x7020
abbrev Reg.SY_ARRIVE : Nat := 0x7024
abbrev Reg.SY_WAIT : Nat := 0x7028
abbrev Reg.SY_STATUS : Nat := 0x702C
abbrev Reg.SY_ARRIVE_CNT : Nat := 0x7030
abbrev Reg.SY_SENT_CNT : Nat := 0x7034
abbrev Reg.SY_COMPLETE_CNT : Nat := 0x7038
abbrev Reg.SY_NOEP_CNT : Nat := 0x703C
abbrev Reg.SY_BAD_CNT : Nat := 0x7040
abbrev Reg.SY_OVERRUN_CNT : Nat := 0x7044
abbrev Reg.SY_WAIT_HOLD_CNT : Nat := 0x7048
abbrev Reg.SY_ENDPT_HOLD_CNT : Nat := 0x704C
abbrev Reg.SY_AUDIT_CNT : Nat := 0x7050
abbrev Reg.DXS_FD_DESCSEL : Nat := 0x8000
abbrev Reg.DXS_FD_D_OP : Nat := 0x8004
abbrev Reg.DXS_FD_D_D : Nat := 0x8008
abbrev Reg.DXS_FD_D_ROWS : Nat := 0x800C
abbrev Reg.DXS_FD_D_COLS : Nat := 0x8010
abbrev Reg.DXS_FD_CTRL : Nat := 0x8014
abbrev Reg.DXS_FD_ENG_EN : Nat := 0x8018
abbrev Reg.DXS_FD_WAIT : Nat := 0x801C
abbrev Reg.DXS_FD_STATUS : Nat := 0x8020
abbrev Reg.DXS_FD_BLK_FREE : Nat := 0x8024
abbrev Reg.DXS_FD_BLK_HELD : Nat := 0x8028
abbrev Reg.DXS_FD_BLK_RSVD : Nat := 0x802C
abbrev Reg.DXS_FD_BLK_LENT : Nat := 0x8030
abbrev Reg.DXS_FD_OPEN : Nat := 0x8034
abbrev Reg.DXS_FD_ENGSEL : Nat := 0x8038
abbrev Reg.DXS_FD_E_STATUS : Nat := 0x803C
abbrev Reg.DXS_FD_E_TASK_CNT : Nat := 0x8040
abbrev Reg.DXS_FD_E_STOLEN_CNT : Nat := 0x8044
abbrev Reg.DXS_FD_LANEOP_LO : Nat := 0x8048
abbrev Reg.DXS_FD_LANEOP_HI : Nat := 0x804C
abbrev Reg.DXS_FD_AUDIT_CNT : Nat := 0x8050
abbrev Reg.DXS_FD_LEN_CNT : Nat := 0x8054
abbrev Reg.DXS_FD_MISSING_CNT : Nat := 0x8058
abbrev Reg.DXS_FD_KAT_CNT : Nat := 0x805C
abbrev Reg.DXS_FD_KAT_FAIL_CNT : Nat := 0x8060
abbrev Reg.DXS_FD_RESULT_CNT : Nat := 0x8064
abbrev Reg.DXT_FD_FBSEL : Nat := 0x8000
abbrev Reg.DXT_FD_B_CFG : Nat := 0x8004
abbrev Reg.DXT_FD_B_SRC : Nat := 0x8008
abbrev Reg.DXT_FD_B_DST : Nat := 0x800C
abbrev Reg.DXT_FD_B_STRIDE : Nat := 0x8010
abbrev Reg.DXT_FD_B_LEN : Nat := 0x8014
abbrev Reg.DXT_FD_B_RLEN : Nat := 0x8018
abbrev Reg.DXT_FD_B_EVT : Nat := 0x801C
abbrev Reg.DXT_FD_B_STATUS : Nat := 0x8020
abbrev Reg.DXT_FD_B_RCVD : Nat := 0x8024
abbrev Reg.DXT_FD_STATUS : Nat := 0x8028
abbrev Reg.DXT_FD_SENT_CNT : Nat := 0x802C
abbrev Reg.DXT_FD_RES_CNT : Nat := 0x8030
abbrev Reg.DXT_FD_DUP_CNT : Nat := 0x8034
abbrev Reg.DXT_FD_NOBIND_CNT : Nat := 0x8038
abbrev Reg.DXT_FD_LEN_CNT : Nat := 0x803C
abbrev Reg.FS_CTXSEL : Nat := 0x9000
abbrev Reg.FS_C_STATE : Nat := 0x9004
abbrev Reg.FS_C_PROG : Nat := 0x9008
abbrev Reg.FS_C_IPF : Nat := 0x900C
abbrev Reg.FS_C_SEG_MAX : Nat := 0x9010
abbrev Reg.FS_C_WSEL : Nat := 0x9014
abbrev Reg.FS_C_W_LO : Nat := 0x9018
abbrev Reg.FS_C_W_HI : Nat := 0x901C
abbrev Reg.FS_C_LOG_BASE_LO : Nat := 0x9020
abbrev Reg.FS_C_LOG_BASE_HI : Nat := 0x9024
abbrev Reg.FS_C_LOG_SIZE : Nat := 0x9028
abbrev Reg.FS_C_LOG_HEAD : Nat := 0x902C
abbrev Reg.FS_C_LOG_TAIL : Nat := 0x9030
abbrev Reg.FS_C_VARIES_CNT : Nat := 0x9034
abbrev Reg.FS_C_LOGWAIT_CNT : Nat := 0x9038
abbrev Reg.FS_BUDGET : Nat := 0x903C
abbrev Reg.FS_MEM_FREE : Nat := 0x9040
abbrev Reg.FS_ISSUE_LO : Nat := 0x9044
abbrev Reg.FS_ISSUE_HI : Nat := 0x9048
abbrev Reg.FS_STATUS : Nat := 0x904C
abbrev Reg.FS_XACK_MAX : Nat := 0x9050
abbrev Reg.FS_SOLO_CNT : Nat := 0x9054
abbrev Reg.FS_HALT_CNT : Nat := 0x9058
abbrev Reg.FP_DIE : Nat := 0x9000
abbrev Reg.FP_SEED_LO : Nat := 0x9004
abbrev Reg.FP_SEED_HI : Nat := 0x9008
abbrev Reg.FP_STREAMS : Nat := 0x900C
abbrev Reg.FP_SSEL : Nat := 0x9010
abbrev Reg.FP_S_SALT : Nat := 0x9014
abbrev Reg.FP_S_VAL_LO : Nat := 0x9018
abbrev Reg.FP_S_VAL_HI : Nat := 0x901C
abbrev Reg.FP_S_TAG : Nat := 0x9020
abbrev Reg.FP_PEND : Nat := 0x9024
abbrev Reg.FP_REC_CNT : Nat := 0x9028
abbrev Reg.FP_REC_LATE_CNT : Nat := 0x902C
abbrev Reg.DXS_SS_CTRL : Nat := 0xA000
abbrev Reg.DXS_SS_KILL_GAP : Nat := 0xA004
abbrev Reg.DXS_SS_EV_BASE_LO : Nat := 0xA008
abbrev Reg.DXS_SS_EV_BASE_HI : Nat := 0xA00C
abbrev Reg.DXS_SS_EV_SIZE : Nat := 0xA010
abbrev Reg.DXS_SS_EV_HEAD : Nat := 0xA014
abbrev Reg.DXS_SS_EV_TAIL : Nat := 0xA018
abbrev Reg.DXS_SS_PARK_BASE_LO : Nat := 0xA01C
abbrev Reg.DXS_SS_PARK_BASE_HI : Nat := 0xA020
abbrev Reg.DXS_SS_PARK_CFG : Nat := 0xA024
abbrev Reg.DXS_SS_WHEEL_BASE_LO : Nat := 0xA028
abbrev Reg.DXS_SS_WHEEL_BASE_HI : Nat := 0xA02C
abbrev Reg.DXS_SS_JOBSEL : Nat := 0xA030
abbrev Reg.DXS_SS_J_LIVE : Nat := 0xA034
abbrev Reg.DXS_SS_J_QUEUED : Nat := 0xA038
abbrev Reg.DXS_SS_J_SRSV : Nat := 0xA03C
abbrev Reg.DXS_SS_J_TRSV : Nat := 0xA040
abbrev Reg.DXS_SS_J_THROTTLED : Nat := 0xA044
abbrev Reg.DXS_SS_STATUS : Nat := 0xA048
abbrev Reg.DXS_SS_FREE_SLOTS : Nat := 0xA04C
abbrev Reg.DXS_SS_PARKED : Nat := 0xA050
abbrev Reg.DXS_SS_CMD_CNT : Nat := 0xA054
abbrev Reg.DXS_SS_REFUSED_CNT : Nat := 0xA058
abbrev Reg.DXS_SS_KILL_CNT : Nat := 0xA05C
abbrev Reg.DXS_SS_ADMIT_CNT : Nat := 0xA060
abbrev Reg.DXS_SS_END_CNT : Nat := 0xA064
abbrev Reg.DXS_SS_EVICT_CNT : Nat := 0xA068
abbrev Reg.DXS_SS_REPORT_DUP_CNT : Nat := 0xA06C
abbrev Reg.DXS_SS_REPORT_OVER_CNT : Nat := 0xA070
abbrev Reg.DXS_SS_EVWAIT_CNT : Nat := 0xA074
abbrev Reg.DXS_SS_AUDIT_CNT : Nat := 0xA078
abbrev Reg.DXS_SS_EVICT_LAG_MAX : Nat := 0xA07C
abbrev Reg.DXT_SS_CTRL : Nat := 0xA000
abbrev Reg.DXT_SS_KILL_BASE : Nat := 0xA004
abbrev Reg.DXT_SS_KILL_EVT : Nat := 0xA008
abbrev Reg.DXT_SS_REPORT_BASE : Nat := 0xA00C
abbrev Reg.DXT_SS_REPORT_CFG : Nat := 0xA010
abbrev Reg.DXT_SS_COMMIT_BASE : Nat := 0xA014
abbrev Reg.DXT_SS_COMMIT_CFG : Nat := 0xA018
abbrev Reg.DXT_SS_COMMIT_EVT : Nat := 0xA01C
abbrev Reg.DXT_SS_STATUS : Nat := 0xA020
abbrev Reg.DXT_SS_KILL_CNT : Nat := 0xA024
abbrev Reg.DXT_SS_KILL_LAST : Nat := 0xA028
abbrev Reg.DXT_SS_REPORT_ENT_CNT : Nat := 0xA02C
abbrev Reg.DXT_SS_COMMIT_ENT_CNT : Nat := 0xA030
abbrev Reg.DXT_SS_COMMIT_LEN_CNT : Nat := 0xA034
abbrev Reg.DXT_SS_REPORT_LEN_CNT : Nat := 0xA038
abbrev Reg.DXT_SS_KILL_OLD_CNT : Nat := 0xA03C
abbrev Reg.DXS_FQ_CTRL : Nat := 0xB000
abbrev Reg.DXS_FQ_QUORUM : Nat := 0xB004
abbrev Reg.DXS_FQ_QUORUM_C : Nat := 0xB008
abbrev Reg.DXS_FQ_STATUS : Nat := 0xB00C
abbrev Reg.DXS_FQ_RAISE : Nat := 0xB010
abbrev Reg.DXS_FQ_FR_INFO : Nat := 0xB014
abbrev Reg.DXS_FQ_NVOTE : Nat := 0xB018
abbrev Reg.DXS_FQ_VSEL : Nat := 0xB01C
abbrev Reg.DXS_FQ_V_WORD : Nat := 0xB020
abbrev Reg.DXS_FQ_VLOG_SEQ : Nat := 0xB024
abbrev Reg.DXS_FQ_VLOG_BASE_LO : Nat := 0xB028
abbrev Reg.DXS_FQ_VLOG_BASE_HI : Nat := 0xB02C
abbrev Reg.DXS_FQ_VLOG_SIZE : Nat := 0xB030
abbrev Reg.DXS_FQ_VLOG_HEAD : Nat := 0xB034
abbrev Reg.DXS_FQ_VLOG_TAIL : Nat := 0xB038
abbrev Reg.DXS_FQ_JOBSEL : Nat := 0xB03C
abbrev Reg.DXS_FQ_J_RST : Nat := 0xB040
abbrev Reg.DXS_FQ_J_SEALED : Nat := 0xB044
abbrev Reg.DXS_FQ_J_TARGET : Nat := 0xB048
abbrev Reg.DXS_FQ_J_STORED : Nat := 0xB04C
abbrev Reg.DXS_FQ_J_CK_BASE_LO : Nat := 0xB050
abbrev Reg.DXS_FQ_J_CK_BASE_HI : Nat := 0xB054
abbrev Reg.DXS_FQ_J_CK_SLOT : Nat := 0xB058
abbrev Reg.DXS_FQ_FAULT_TX_CNT : Nat := 0xB05C
abbrev Reg.DXS_FQ_FAULT_RX_CNT : Nat := 0xB060
abbrev Reg.DXS_FQ_SUPPRESS_CNT : Nat := 0xB064
abbrev Reg.DXS_FQ_HB_MISS_CNT : Nat := 0xB068
abbrev Reg.DXS_FQ_VERDICT_CNT : Nat := 0xB06C
abbrev Reg.DXS_FQ_LONE_CNT : Nat := 0xB070
abbrev Reg.DXS_FQ_RESTART_CNT : Nat := 0xB074
abbrev Reg.DXS_FQ_FALLBACK_CNT : Nat := 0xB078
abbrev Reg.DXS_FQ_VLOG_OVF_CNT : Nat := 0xB07C
abbrev Reg.DXT_FQ_STATUS : Nat := 0xB000
abbrev Reg.DXT_FQ_RAISE : Nat := 0xB004
abbrev Reg.DXT_FQ_CK_EPOCH_LO : Nat := 0xB008
abbrev Reg.DXT_FQ_CK_EPOCH_HI : Nat := 0xB00C
abbrev Reg.DXT_FQ_CK_TAG : Nat := 0xB010
abbrev Reg.DXT_FQ_CK_EVT : Nat := 0xB014
abbrev Reg.DXT_FQ_FAULT_CNT : Nat := 0xB018
abbrev Reg.DXT_FQ_SUPPRESS_CNT : Nat := 0xB01C
abbrev Reg.DXT_FQ_FENCE_CNT : Nat := 0xB020
abbrev Reg.BN_STATUS : Nat := 0xC000
abbrev Reg.BN_NODE : Nat := 0xC004
abbrev Reg.BN_FW : Nat := 0xC008
abbrev Reg.BN_TOPO : Nat := 0xC00C
abbrev Reg.BN_BRINGUP : Nat := 0xC010
abbrev Reg.BN_CTRL : Nat := 0xC014
abbrev Reg.BN_TREND_CFG : Nat := 0xC018
abbrev Reg.BN_TREND_BASE_LO : Nat := 0xC01C
abbrev Reg.BN_TREND_BASE_HI : Nat := 0xC020
abbrev Reg.BN_TREND_SIZE : Nat := 0xC024
abbrev Reg.BN_TREND_HEAD : Nat := 0xC028
abbrev Reg.BN_TREND_TAIL : Nat := 0xC02C
abbrev Reg.BN_PROP_BASE_LO : Nat := 0xC030
abbrev Reg.BN_PROP_BASE_HI : Nat := 0xC034
abbrev Reg.BN_PROP_SIZE : Nat := 0xC038
abbrev Reg.BN_PROP_HEAD : Nat := 0xC03C
abbrev Reg.BN_PROP_TAIL : Nat := 0xC040
abbrev Reg.BN_PCOMMIT : Nat := 0xC044
abbrev Reg.BN_PCOMMIT_C : Nat := 0xC048
abbrev Reg.BN_PSTATUS : Nat := 0xC04C
abbrev Reg.BN_MB_OWN : Nat := 0xC050
abbrev Reg.BN_MB_CMD_CNT : Nat := 0xC054
abbrev Reg.BN_MB_WR_DROP_CNT : Nat := 0xC058
abbrev Reg.BN_REM_OUT : Nat := 0xC05C
abbrev Reg.BN_REM_TO_CNT : Nat := 0xC060
abbrev Reg.BN_REM_LATE_CNT : Nat := 0xC064
abbrev Reg.BN_LOG_DROP_CNT : Nat := 0xC068
abbrev Reg.BN_PORTSEL : Nat := 0xC06C
abbrev Reg.BN_P_BRING : Nat := 0xC070
abbrev Reg.IS_CTRL : Nat := 0x0
abbrev Reg.IS_INT : Nat := 0x4
abbrev Reg.IS_EYE_CFG : Nat := 0x8
abbrev Reg.IS_LANESEL : Nat := 0xC
abbrev Reg.IS_EYE : Nat := 0x10
abbrev Reg.IS_STATUS : Nat := 0x14
abbrev Reg.IS_REP_FAIL_LO : Nat := 0x18
abbrev Reg.IS_REP_FAIL_HI : Nat := 0x1C
abbrev Reg.IS_EYE_CNT : Nat := 0x20
abbrev Reg.IS_REP_CNT : Nat := 0x24
abbrev Reg.IS_REP_FAIL_CNT : Nat := 0x28
abbrev Reg.IS_ABANDON_CNT : Nat := 0x2C
abbrev Reg.CM_ID : Nat := 0x0
abbrev Reg.CM_CTRL : Nat := 0x4
abbrev Reg.CM_APPLY : Nat := 0x8
abbrev Reg.CM_APPLY_ST : Nat := 0xC
abbrev Reg.CM_APPLY_RES : Nat := 0x10
abbrev Reg.CM_APPLY_IDX : Nat := 0x14
abbrev Reg.CM_LOCK : Nat := 0x18
abbrev Reg.CM_GUARD_ST : Nat := 0x1C
abbrev Reg.CM_CRCSEL : Nat := 0x20
abbrev Reg.CM_CRC_EN : Nat := 0x24
abbrev Reg.CM_CFG_CRC_REF : Nat := 0x28
abbrev Reg.CM_CFG_CRC_NOW : Nat := 0x2C
abbrev Reg.CM_CRC_DRIFT : Nat := 0x30
abbrev Reg.CM_CRC_STALE : Nat := 0x34
abbrev Reg.CM_TEMP : Nat := 0x38
abbrev Reg.CM_VMON : Nat := 0x3C
abbrev Reg.CM_APPLY_CNT : Nat := 0x40
abbrev Reg.CM_REFUSE_CNT : Nat := 0x44
abbrev Reg.CM_APPLY_DROP_CNT : Nat := 0x48
abbrev Reg.CM_GUARD_FAIL_CNT : Nat := 0x4C
abbrev Reg.CM_DRIFT_CNT : Nat := 0x50
abbrev Reg.CM_BAD_ACC_CNT : Nat := 0x54
abbrev Reg.DM_STATUS : Nat := 0x0
abbrev Reg.DM_BUF : Nat := 0x4
abbrev Reg.DM_RD_BYTES_LO : Nat := 0x8
abbrev Reg.DM_RD_BYTES_HI : Nat := 0xC
abbrev Reg.DM_WR_BYTES_LO : Nat := 0x10
abbrev Reg.DM_WR_BYTES_HI : Nat := 0x14
abbrev Reg.DM_KILLW_CNT : Nat := 0x18
abbrev Reg.DM_LEND_CNT : Nat := 0x1C
abbrev Reg.DM_C_CFG : Nat := 0x0
abbrev Reg.DM_C_EVT : Nat := 0x4
abbrev Reg.DM_C_RING_LO : Nat := 0x8
abbrev Reg.DM_C_RING_HI : Nat := 0xC
abbrev Reg.DM_C_RING_SIZE : Nat := 0x10
abbrev Reg.DM_C_RING_HEAD : Nat := 0x14
abbrev Reg.DM_C_RING_TAIL : Nat := 0x18
abbrev Reg.DM_C_STATUS : Nat := 0x1C
abbrev Reg.DM_C_ERR_LO : Nat := 0x20
abbrev Reg.DM_C_ERR_HI : Nat := 0x24
abbrev Reg.DM_C_DONE_CNT : Nat := 0x28
abbrev Reg.DM_C_HALT_CNT : Nat := 0x2C

/-- The pages of the blocks that lie at different pages in the two parts (R356, R357). -/
def toBase : Side → Nat
  | .dxt => 0x4000
  | .dxs => 0x5000
def tmBase : Side → Nat
  | .dxt => 0x5000
  | .dxs => 0x6000
def isBase : Side → Nat
  | .dxt => 0xC000
  | .dxs => 0xD000
def dmBase : Side → Nat
  | .dxt => 0xD000
  | .dxs => 0xE000

/-- The STEP block of DX-T. -/
def regRowsDxtSTEP : List RegRow := [
  ⟨Reg.STEP_STATUS, .ro, none, 0x0, 0x0⟩,
  ⟨Reg.STEP_SN_LO, .ro, none, 0x0, 0x0⟩,
  ⟨Reg.STEP_SN_HI, .ro, none, 0x0, 0x0⟩,
  ⟨Reg.STEP_GO, .ro, none, 0x0, 0x0⟩,
  ⟨Reg.STEP_GO + 4, .ro, none, 0x0, 0x0⟩,
  ⟨Reg.STEP_GO + 8, .ro, none, 0x0, 0x0⟩,
  ⟨Reg.STEP_DONE, .ro, none, 0x0, 0x0⟩,
  ⟨Reg.STEP_DONE + 4, .ro, none, 0x0, 0x0⟩,
  ⟨Reg.STEP_DONE + 8, .ro, none, 0x0, 0x0⟩,
  ⟨Reg.STEP_JOB, .ro, none, 0x0, 0x0⟩,
  ⟨Reg.STEP_ARM_MIN, .ro, none, 0xFFFFFFFF, 0x0⟩,
  ⟨Reg.STEP_LAUNCH_CNT, .ro, none, 0x0, 0x0⟩,
  ⟨Reg.STEP_GO_LATE_CNT, .ro, none, 0x0, 0x0⟩,
  ⟨Reg.STEP_GO_DUP_CNT, .ro, none, 0x0, 0x0⟩,
  ⟨Reg.STEP_HOLD_CNT, .ro, none, 0x0, 0x0⟩,
  ⟨Reg.STEP_TAG, .ro, none, 0x0, 0x0⟩]

/-- The SP block of DX-T. -/
def regRowsDxtSP : List RegRow := [
  ⟨Reg.SP_PORTSEL, .rw, none, 0x0, 0x3F⟩,
  ⟨Reg.SP_CTRL, .rws, some Reg.SP_PORTSEL, 0x43, 0xFF43⟩,
  ⟨Reg.SP_DWELL, .rws, some Reg.SP_PORTSEL, 0xFA, 0x3FF⟩,
  ⟨Reg.SP_CRED_INIT, .rws, some Reg.SP_PORTSEL, 0x20204080, 0xFFFFFFFF⟩,
  ⟨Reg.SP_RETRY_TO, .rws, some Reg.SP_PORTSEL, 0x40, 0xFF⟩,
  ⟨Reg.SP_UNCORR_LIM, .rws, some Reg.SP_PORTSEL, 0x10, 0xFFFF⟩,
  ⟨Reg.SP_EPOCH, .lk, some Reg.SP_PORTSEL, 0x0, 0xFFFF⟩,
  ⟨Reg.SP_STATUS, .ro, some Reg.SP_PORTSEL, 0x0, 0x0⟩,
  ⟨Reg.SP_PARTNER, .ro, some Reg.SP_PORTSEL, 0x0, 0x0⟩,
  ⟨Reg.SP_MQ_MAX, .ro, some Reg.SP_PORTSEL, 0x0, 0x0⟩,
  ⟨Reg.SP_MARK_CORR_CNT, .ro, some Reg.SP_PORTSEL, 0x0, 0x0⟩,
  ⟨Reg.SP_MARK_UNCORR_CNT, .ro, some Reg.SP_PORTSEL, 0x0, 0x0⟩,
  ⟨Reg.SP_MARK_COPY_CNT, .ro, some Reg.SP_PORTSEL, 0x0, 0x0⟩,
  ⟨Reg.SP_MALF_CNT, .ro, some Reg.SP_PORTSEL, 0x0, 0x0⟩,
  ⟨Reg.SP_MARK_RESENT_CNT, .ro, some Reg.SP_PORTSEL, 0x0, 0x0⟩,
  ⟨Reg.SP_EPOCH_DROP_CNT, .ro, some Reg.SP_PORTSEL, 0x0, 0x0⟩,
  ⟨Reg.SP_SHEET_CRC_CNT, .ro, some Reg.SP_PORTSEL, 0x0, 0x0⟩,
  ⟨Reg.SP_SHEET_REPLAY_CNT, .ro, some Reg.SP_PORTSEL, 0x0, 0x0⟩,
  ⟨Reg.SP_LINK_DOWN_CNT, .ro, some Reg.SP_PORTSEL, 0x0, 0x0⟩,
  ⟨Reg.SP_QFULL_CNT, .ro, some Reg.SP_PORTSEL, 0x0, 0x0⟩,
  ⟨Reg.SP_CRED_AVAIL, .ro, some Reg.SP_PORTSEL, 0x0, 0x0⟩,
  ⟨Reg.SP_REPLAY_OCC, .ro, some Reg.SP_PORTSEL, 0x0, 0x0⟩,
  ⟨Reg.SP_MQ_OCC, .ro, some Reg.SP_PORTSEL, 0x0, 0x0⟩]

/-- The TT block of DX-T. -/
def regRowsDxtTT : List RegRow := [
  ⟨Reg.TT_PORTSEL, .rw, none, 0x0, 0x3F⟩,
  ⟨Reg.TT_CTRL, .rws, none, 0x20, 0x7F⟩,
  ⟨Reg.TT_REFS, .rws, none, 0x100, 0x3F3F⟩,
  ⟨Reg.TT_LOCK_CFG, .rws, none, 0x103E80FA, 0xFFFFFFFF⟩,
  ⟨Reg.TT_SERVO_CFG, .rws, none, 0xC80A04, 0xFFFF0F0F⟩,
  ⟨Reg.TT_STEP_LIM, .rws, none, 0x3E8, 0xFFFF⟩,
  ⟨Reg.TT_WTR, .rws, none, 0x3D09, 0xFFFF⟩,
  ⟨Reg.TT_SPLIT_LIM, .rws, none, 0x3E8, 0xFFFF⟩,
  ⟨Reg.TT_FW_LIM, .rws, none, 0xA7C6, 0xFFFFFFFF⟩,
  ⟨Reg.TT_FW_SW, .rw, none, 0x0, 0xFFFFFFFF⟩,
  ⟨Reg.TT_SNAP, .rw, none, 0x0, 0xFFFFFFFF⟩,
  ⟨Reg.TT_STATUS, .ro, none, 0x0, 0x0⟩,
  ⟨Reg.TT_FW, .ro, none, 0x0, 0x0⟩,
  ⟨Reg.TT_FW_AVG, .ro, none, 0x0, 0x0⟩,
  ⟨Reg.TT_HT_SNAP, .ro, none, 0x0, 0x0⟩,
  ⟨Reg.TT_HT_SNAP + 4, .ro, none, 0x0, 0x0⟩,
  ⟨Reg.TT_HT_SNAP + 8, .ro, none, 0x0, 0x0⟩,
  ⟨Reg.TT_SNAP_SEQ, .ro, none, 0x0, 0x0⟩,
  ⟨Reg.TT_SEED, .rw, none, 0x0, 0xFFFFFFFF⟩,
  ⟨Reg.TT_SEED + 4, .rw, none, 0x0, 0xFFFFFFFF⟩,
  ⟨Reg.TT_SEED + 8, .rw, none, 0x0, 0xFFFFFFFF⟩,
  ⟨Reg.TT_DOM_OFS, .ro, none, 0x0, 0x0⟩,
  ⟨Reg.TT_SWITCH_CNT, .ro, none, 0x0, 0x0⟩,
  ⟨Reg.TT_OVERCAST_CNT, .ro, none, 0x0, 0x0⟩,
  ⟨Reg.TT_HTLOAD_NS, .wg, none, 0x0, 0xFFFFFFFF⟩,
  ⟨Reg.TT_HTLOAD_NS_C, .wg, none, 0xFFFFFFFF, 0xFFFFFFFF⟩,
  ⟨Reg.TT_HTLOAD_S, .wg, none, 0x0, 0xFFFFFFFF⟩,
  ⟨Reg.TT_HTLOAD_S_C, .wg, none, 0xFFFFFFFF, 0xFFFFFFFF⟩,
  ⟨Reg.TT_HTLOAD_SH, .wg, none, 0x0, 0xFFFFFFFF⟩,
  ⟨Reg.TT_HTLOAD_SH_C, .wg, none, 0xFFFFFFFF, 0xFFFFFFFF⟩,
  ⟨Reg.TT_RELOAD_CNT, .ro, none, 0x0, 0x0⟩,
  ⟨Reg.TT_P_CABLE_ASYM, .rws, some Reg.TT_PORTSEL, 0x0, 0xFFFF⟩,
  ⟨Reg.TT_P_LAT, .ro, some Reg.TT_PORTSEL, 0x0, 0x0⟩,
  ⟨Reg.TT_P_THETA, .ro, some Reg.TT_PORTSEL, 0x0, 0x0⟩,
  ⟨Reg.TT_P_MPD, .ro, some Reg.TT_PORTSEL, 0x0, 0x0⟩,
  ⟨Reg.TT_P_BIAS, .ro, some Reg.TT_PORTSEL, 0x0, 0x0⟩,
  ⟨Reg.TT_P_ECHO, .ro, some Reg.TT_PORTSEL, 0x0, 0x0⟩,
  ⟨Reg.TT_P_QL, .ro, some Reg.TT_PORTSEL, 0x0, 0x0⟩,
  ⟨Reg.TT_P_ECHO_LOST_CNT, .ro, some Reg.TT_PORTSEL, 0x0, 0x0⟩,
  ⟨Reg.TT_P_ECHO_GATE_CNT, .ro, some Reg.TT_PORTSEL, 0x0, 0x0⟩,
  ⟨Reg.TT_P_ECHO_ANS_CNT, .ro, some Reg.TT_PORTSEL, 0x0, 0x0⟩]

/-- The TO block of DX-T. -/
def regRowsDxtTO : List RegRow := [
  ⟨toBase .dxt + Reg.TO_OUTSEL, .rw, none, 0x0, 0xF⟩,
  ⟨toBase .dxt + Reg.TO_CTRL, .rws, some (toBase .dxt + Reg.TO_OUTSEL), 0x0, 0xB⟩,
  ⟨toBase .dxt + Reg.TO_START, .rws, some (toBase .dxt + Reg.TO_OUTSEL), 0x0, 0xFFFFFFFF⟩,
  ⟨toBase .dxt + Reg.TO_START + 4, .rws, some (toBase .dxt + Reg.TO_OUTSEL), 0x0, 0xFFFFFFFF⟩,
  ⟨toBase .dxt + Reg.TO_START + 8, .rws, some (toBase .dxt + Reg.TO_OUTSEL), 0x0, 0xFFFFFFFF⟩,
  ⟨toBase .dxt + Reg.TO_PERIOD, .rws, some (toBase .dxt + Reg.TO_OUTSEL), 0x0, 0xFFFFFFFF⟩,
  ⟨toBase .dxt + Reg.TO_WIDTH, .rws, some (toBase .dxt + Reg.TO_OUTSEL), 0x5F5E100, 0xFFFFFFFF⟩,
  ⟨toBase .dxt + Reg.TO_STATUS, .ro, some (toBase .dxt + Reg.TO_OUTSEL), 0x0, 0x0⟩,
  ⟨toBase .dxt + Reg.TO_EDGE, .ro, some (toBase .dxt + Reg.TO_OUTSEL), 0x0, 0x0⟩,
  ⟨toBase .dxt + Reg.TO_EDGE + 4, .ro, some (toBase .dxt + Reg.TO_OUTSEL), 0x0, 0x0⟩,
  ⟨toBase .dxt + Reg.TO_EDGE + 8, .ro, some (toBase .dxt + Reg.TO_OUTSEL), 0x0, 0x0⟩,
  ⟨toBase .dxt + Reg.TO_EDGE_CNT, .ro, some (toBase .dxt + Reg.TO_OUTSEL), 0x0, 0x0⟩]

/-- The TM block of DX-T. -/
def regRowsDxtTM : List RegRow := [
  ⟨tmBase .dxt + Reg.TM_CVSEL, .rw, none, 0x0, 0x3F⟩,
  ⟨tmBase .dxt + Reg.TM_CV_STATUS, .ro, some (tmBase .dxt + Reg.TM_CVSEL), 0x0, 0x0⟩,
  ⟨tmBase .dxt + Reg.TM_CV_SCALE, .ro, some (tmBase .dxt + Reg.TM_CVSEL), 0x0, 0x0⟩,
  ⟨tmBase .dxt + Reg.TM_CV_OFFSET, .ro, some (tmBase .dxt + Reg.TM_CVSEL), 0x0, 0x0⟩,
  ⟨tmBase .dxt + Reg.TM_CV_INL, .ro, some (tmBase .dxt + Reg.TM_CVSEL), 0x0, 0x0⟩,
  ⟨tmBase .dxt + Reg.TM_CV_MEAS_CNT, .ro, some (tmBase .dxt + Reg.TM_CVSEL), 0x0, 0x0⟩,
  ⟨tmBase .dxt + Reg.TM_CV_MERGED_CNT, .ro, some (tmBase .dxt + Reg.TM_CVSEL), 0x0, 0x0⟩,
  ⟨tmBase .dxt + Reg.TM_CV_CALFAIL_CNT, .ro, some (tmBase .dxt + Reg.TM_CVSEL), 0x0, 0x0⟩,
  ⟨tmBase .dxt + Reg.TM_LT_REGSEL, .rw, none, 0x0, 0x3F⟩,
  ⟨tmBase .dxt + Reg.TM_LT_RESULT, .ro, some (tmBase .dxt + Reg.TM_LT_REGSEL), 0x0, 0x0⟩,
  ⟨tmBase .dxt + Reg.TM_LT_STATUS, .ro, some (tmBase .dxt + Reg.TM_LT_REGSEL), 0x0, 0x0⟩]

/-- The DC block of DX-T. -/
def regRowsDxtDC : List RegRow := [
  ⟨Reg.DC_STATUS, .ro, none, 0x0, 0x0⟩,
  ⟨Reg.DC_DESC_BASE, .rws, none, 0x0, 0xFFFFFFE0⟩,
  ⟨Reg.DC_DESC_CFG, .rws, none, 0x10, 0x1FF⟩,
  ⟨Reg.DC_MARGIN_CFG, .rws, none, 0x40308, 0xFF3F3F⟩,
  ⟨Reg.DC_OPP_SEL, .rw, none, 0x0, 0xF⟩,
  ⟨Reg.DC_OPP_FREQ, .rws, some Reg.DC_OPP_SEL, 0x0, 0x8007FFFF⟩,
  ⟨Reg.DC_OPP_VREQ, .rws, some Reg.DC_OPP_SEL, 0x0, 0xFFFFFFFF⟩,
  ⟨Reg.DC_SEAM_OVR, .wg, none, 0x0, 0xF⟩,
  ⟨Reg.DC_SEAM_OVR_C, .wg, none, 0xFFFFFFFF, 0xF⟩,
  ⟨Reg.DC_L_OVR, .wg, none, 0x9A6, 0x80000FFF⟩,
  ⟨Reg.DC_L_OVR_C, .wg, none, 0xFFFFF659, 0x80000FFF⟩,
  ⟨Reg.DC_COL_SERIAL_LO, .ro, none, 0x0, 0x0⟩,
  ⟨Reg.DC_COL_SERIAL_HI, .ro, none, 0x0, 0x0⟩,
  ⟨Reg.DC_COL_MASK_LO, .ro, none, 0x0, 0x0⟩,
  ⟨Reg.DC_COL_MASK_HI, .ro, none, 0x0, 0x0⟩,
  ⟨Reg.DC_COL_INFO, .ro, none, 0x0, 0x0⟩,
  ⟨Reg.DC_REFUSE, .ro, none, 0x0, 0x0⟩,
  ⟨Reg.DC_WITHHOLD_CNT, .ro, none, 0x0, 0x0⟩,
  ⟨Reg.DC_PARK_DROP_CNT, .ro, none, 0x0, 0x0⟩,
  ⟨Reg.DC_SEAM_RATE_CNT, .ro, none, 0x0, 0x0⟩,
  ⟨Reg.DC_RESIDUE_CNT, .ro, none, 0x0, 0x0⟩,
  ⟨Reg.DC_MARGIN_WARN_CNT, .ro, none, 0x0, 0x0⟩,
  ⟨Reg.DC_RELOCK_MAX, .ro, none, 0x0, 0x0⟩,
  ⟨Reg.DC_REGSEL, .rw, none, 0x0, 0x3F⟩,
  ⟨Reg.DC_R_STATUS, .ro, some Reg.DC_REGSEL, 0x0, 0x0⟩,
  ⟨Reg.DC_R_TRIM, .ro, some Reg.DC_REGSEL, 0x0, 0x0⟩,
  ⟨Reg.DC_R_MARGIN, .ro, some Reg.DC_REGSEL, 0x0, 0x0⟩,
  ⟨Reg.DC_R_CYCLE, .ro, some Reg.DC_REGSEL, 0x0, 0x0⟩,
  ⟨Reg.DC_R_SQUALL_CNT, .ro, some Reg.DC_REGSEL, 0x0, 0x0⟩,
  ⟨Reg.DC_R_STRETCH_CNT, .ro, some Reg.DC_REGSEL, 0x0, 0x0⟩,
  ⟨Reg.DC_R_STALL_CNT, .ro, some Reg.DC_REGSEL, 0x0, 0x0⟩,
  ⟨Reg.DC_R_HOLD_CNT, .ro, some Reg.DC_REGSEL, 0x0, 0x0⟩,
  ⟨Reg.DC_R_DEPTH_MAX, .ro, some Reg.DC_REGSEL, 0x0, 0x0⟩,
  ⟨Reg.DC_XSEL, .rw, none, 0x0, 0x3FF⟩,
  ⟨Reg.DC_X_STATUS, .ro, some Reg.DC_XSEL, 0x0, 0x0⟩,
  ⟨Reg.DC_X_SLACK, .ro, some Reg.DC_XSEL, 0x7FFFFFFF, 0x0⟩,
  ⟨Reg.DC_X_STALL_CNT, .ro, some Reg.DC_XSEL, 0x0, 0x0⟩]

/-- The SY block of DX-T. -/
def regRowsDxtSY : List RegRow := [
  ⟨Reg.SY_OBJSEL, .rw, none, 0x0, 0x3FFF⟩,
  ⟨Reg.SY_OBJ_CFG, .rws, some Reg.SY_OBJSEL, 0x0, 0xFFFF0017⟩,
  ⟨Reg.SY_OBJ_GID, .rws, some Reg.SY_OBJSEL, 0xFFFF, 0xFFFF⟩,
  ⟨Reg.SY_OBJ_COUNT, .ro, some Reg.SY_OBJSEL, 0x0, 0x0⟩,
  ⟨Reg.SY_OBJ_STATE, .ro, some Reg.SY_OBJSEL, 0x0, 0x0⟩,
  ⟨Reg.SY_OBJ_STAMP, .ro, some Reg.SY_OBJSEL, 0x0, 0x0⟩,
  ⟨Reg.SY_OBJ_STAMP + 4, .ro, some Reg.SY_OBJSEL, 0x0, 0x0⟩,
  ⟨Reg.SY_OBJ_STAMP + 8, .ro, some Reg.SY_OBJSEL, 0x0, 0x0⟩,
  ⟨Reg.SY_OBJ_TAG, .ro, some Reg.SY_OBJSEL, 0x0, 0x0⟩,
  ⟨Reg.SY_ARRIVE, .rw, none, 0x0, 0xFF3FFF⟩,
  ⟨Reg.SY_WAIT, .rw, none, 0x0, 0x7F3FFF⟩,
  ⟨Reg.SY_STATUS, .ro, none, 0x0, 0x0⟩,
  ⟨Reg.SY_ARRIVE_CNT, .ro, none, 0x0, 0x0⟩,
  ⟨Reg.SY_SENT_CNT, .ro, none, 0x0, 0x0⟩,
  ⟨Reg.SY_COMPLETE_CNT, .ro, none, 0x0, 0x0⟩,
  ⟨Reg.SY_NOEP_CNT, .ro, none, 0x0, 0x0⟩,
  ⟨Reg.SY_BAD_CNT, .ro, none, 0x0, 0x0⟩,
  ⟨Reg.SY_OVERRUN_CNT, .ro, none, 0x0, 0x0⟩,
  ⟨Reg.SY_WAIT_HOLD_CNT, .ro, none, 0x0, 0x0⟩,
  ⟨Reg.SY_ENDPT_HOLD_CNT, .ro, none, 0x0, 0x0⟩,
  ⟨Reg.SY_AUDIT_CNT, .ro, none, 0x0, 0x0⟩]

/-- The FD block of DX-T. -/
def regRowsDxtFD : List RegRow := [
  ⟨Reg.DXT_FD_FBSEL, .rw, none, 0x0, 0x3F⟩,
  ⟨Reg.DXT_FD_B_CFG, .rws, some Reg.DXT_FD_FBSEL, 0x0, 0x80073FFF⟩,
  ⟨Reg.DXT_FD_B_SRC, .rws, some Reg.DXT_FD_FBSEL, 0x0, 0xFFFFFFE0⟩,
  ⟨Reg.DXT_FD_B_DST, .rws, some Reg.DXT_FD_FBSEL, 0x0, 0xFFFFFFE0⟩,
  ⟨Reg.DXT_FD_B_STRIDE, .rws, some Reg.DXT_FD_FBSEL, 0x0, 0xFFFFFFE0⟩,
  ⟨Reg.DXT_FD_B_LEN, .rws, some Reg.DXT_FD_FBSEL, 0x0, 0x7FFFF⟩,
  ⟨Reg.DXT_FD_B_RLEN, .rws, some Reg.DXT_FD_FBSEL, 0x0, 0x1FFFFF⟩,
  ⟨Reg.DXT_FD_B_EVT, .rws, some Reg.DXT_FD_FBSEL, 0x0, 0x80003FFF⟩,
  ⟨Reg.DXT_FD_B_STATUS, .ro, some Reg.DXT_FD_FBSEL, 0x0, 0x0⟩,
  ⟨Reg.DXT_FD_B_RCVD, .ro, some Reg.DXT_FD_FBSEL, 0x0, 0x0⟩,
  ⟨Reg.DXT_FD_STATUS, .ro, none, 0x0, 0x0⟩,
  ⟨Reg.DXT_FD_SENT_CNT, .ro, none, 0x0, 0x0⟩,
  ⟨Reg.DXT_FD_RES_CNT, .ro, none, 0x0, 0x0⟩,
  ⟨Reg.DXT_FD_DUP_CNT, .ro, none, 0x0, 0x0⟩,
  ⟨Reg.DXT_FD_NOBIND_CNT, .ro, none, 0x0, 0x0⟩,
  ⟨Reg.DXT_FD_LEN_CNT, .ro, none, 0x0, 0x0⟩]

/-- The FP block of DX-T. -/
def regRowsDxtFP : List RegRow := [
  ⟨Reg.FP_DIE, .rw, none, 0x0, 0xFFFF⟩,
  ⟨Reg.FP_SEED_LO, .rw, none, 0x0, 0xFFFFFFFF⟩,
  ⟨Reg.FP_SEED_HI, .rw, none, 0x0, 0xFFFFFFFF⟩,
  ⟨Reg.FP_STREAMS, .rw, none, 0x0, 0xF⟩,
  ⟨Reg.FP_SSEL, .rw, none, 0x0, 0x3⟩,
  ⟨Reg.FP_S_SALT, .rw, some Reg.FP_SSEL, 0x0, 0xFFFFFFFF⟩,
  ⟨Reg.FP_S_VAL_LO, .ro, some Reg.FP_SSEL, 0x0, 0x0⟩,
  ⟨Reg.FP_S_VAL_HI, .ro, some Reg.FP_SSEL, 0x0, 0x0⟩,
  ⟨Reg.FP_S_TAG, .ro, some Reg.FP_SSEL, 0x0, 0x0⟩,
  ⟨Reg.FP_PEND, .ro, none, 0x0, 0x0⟩,
  ⟨Reg.FP_REC_CNT, .ro, none, 0x0, 0x0⟩,
  ⟨Reg.FP_REC_LATE_CNT, .ro, none, 0x0, 0x0⟩]

/-- The SS block of DX-T. -/
def regRowsDxtSS : List RegRow := [
  ⟨Reg.DXT_SS_CTRL, .rw, none, 0x0, 0x1⟩,
  ⟨Reg.DXT_SS_KILL_BASE, .rws, none, 0x0, 0xFFFFF000⟩,
  ⟨Reg.DXT_SS_KILL_EVT, .rws, none, 0x0, 0x80003FFF⟩,
  ⟨Reg.DXT_SS_REPORT_BASE, .rws, none, 0x0, 0xFFFFF000⟩,
  ⟨Reg.DXT_SS_REPORT_CFG, .rws, none, 0x1000, 0xFFFF⟩,
  ⟨Reg.DXT_SS_COMMIT_BASE, .rws, none, 0x0, 0xFFFFF000⟩,
  ⟨Reg.DXT_SS_COMMIT_CFG, .rws, none, 0x10000, 0x7FFFFF⟩,
  ⟨Reg.DXT_SS_COMMIT_EVT, .rws, none, 0x0, 0x80003FFF⟩,
  ⟨Reg.DXT_SS_STATUS, .ro, none, 0x0, 0x0⟩,
  ⟨Reg.DXT_SS_KILL_CNT, .ro, none, 0x0, 0x0⟩,
  ⟨Reg.DXT_SS_KILL_LAST, .ro, none, 0x0, 0x0⟩,
  ⟨Reg.DXT_SS_REPORT_ENT_CNT, .ro, none, 0x0, 0x0⟩,
  ⟨Reg.DXT_SS_COMMIT_ENT_CNT, .ro, none, 0x0, 0x0⟩,
  ⟨Reg.DXT_SS_COMMIT_LEN_CNT, .ro, none, 0x0, 0x0⟩,
  ⟨Reg.DXT_SS_REPORT_LEN_CNT, .ro, none, 0x0, 0x0⟩,
  ⟨Reg.DXT_SS_KILL_OLD_CNT, .ro, none, 0x0, 0x0⟩]

/-- The FQ block of DX-T. -/
def regRowsDxtFQ : List RegRow := [
  ⟨Reg.DXT_FQ_STATUS, .ro, none, 0x0, 0x0⟩,
  ⟨Reg.DXT_FQ_RAISE, .rw, none, 0x0, 0xFFFFFFFF⟩,
  ⟨Reg.DXT_FQ_CK_EPOCH_LO, .ro, none, 0x0, 0x0⟩,
  ⟨Reg.DXT_FQ_CK_EPOCH_HI, .ro, none, 0x0, 0x0⟩,
  ⟨Reg.DXT_FQ_CK_TAG, .ro, none, 0x0, 0x0⟩,
  ⟨Reg.DXT_FQ_CK_EVT, .rws, none, 0x0, 0x80003FFF⟩,
  ⟨Reg.DXT_FQ_FAULT_CNT, .ro, none, 0x0, 0x0⟩,
  ⟨Reg.DXT_FQ_SUPPRESS_CNT, .ro, none, 0x0, 0x0⟩,
  ⟨Reg.DXT_FQ_FENCE_CNT, .ro, none, 0x0, 0x0⟩]

/-- The IS block of DX-T. -/
def regRowsDxtIS : List RegRow := [
  ⟨isBase .dxt + Reg.IS_CTRL, .rws, none, 0xE, 0xE⟩,
  ⟨isBase .dxt + Reg.IS_INT, .rws, none, 0xA0A03E8, 0xFFFFFFFF⟩,
  ⟨isBase .dxt + Reg.IS_EYE_CFG, .rws, none, 0x1E08, 0xFFFF⟩,
  ⟨isBase .dxt + Reg.IS_LANESEL, .rw, none, 0x0, 0x7F⟩,
  ⟨isBase .dxt + Reg.IS_EYE, .ro, some (isBase .dxt + Reg.IS_LANESEL), 0x0, 0x0⟩,
  ⟨isBase .dxt + Reg.IS_STATUS, .ro, none, 0x0, 0x0⟩,
  ⟨isBase .dxt + Reg.IS_REP_FAIL_LO, .ro, none, 0x0, 0x0⟩,
  ⟨isBase .dxt + Reg.IS_REP_FAIL_HI, .ro, none, 0x0, 0x0⟩,
  ⟨isBase .dxt + Reg.IS_EYE_CNT, .ro, none, 0x0, 0x0⟩,
  ⟨isBase .dxt + Reg.IS_REP_CNT, .ro, none, 0x0, 0x0⟩,
  ⟨isBase .dxt + Reg.IS_REP_FAIL_CNT, .ro, none, 0x0, 0x0⟩,
  ⟨isBase .dxt + Reg.IS_ABANDON_CNT, .ro, none, 0x0, 0x0⟩]

/-- The CM block of DX-T. -/
def regRowsDxtCM : List RegRow := [
  ⟨Reg.CM_ID, .ro, none, 0xD070100, 0x0⟩,
  ⟨Reg.CM_CTRL, .rw, none, 0x0, 0x1⟩,
  ⟨Reg.CM_APPLY, .rw, none, 0x0, 0xFFFF⟩,
  ⟨Reg.CM_APPLY_ST, .ro, none, 0xF000000, 0x0⟩,
  ⟨Reg.CM_APPLY_RES, .ro, none, 0x0, 0x0⟩,
  ⟨Reg.CM_APPLY_IDX, .ro, none, 0xFFFFFFFF, 0x0⟩,
  ⟨Reg.CM_LOCK, .rw, none, 0x0, 0xFFFF⟩,
  ⟨Reg.CM_GUARD_ST, .ro, none, 0x0, 0x0⟩,
  ⟨Reg.CM_CRCSEL, .rw, none, 0x0, 0x1F⟩,
  ⟨Reg.CM_CRC_EN, .rw, none, 0x3F5C, 0xFFFFFFFF⟩,
  ⟨Reg.CM_CFG_CRC_REF, .rw, some Reg.CM_CRCSEL, 0x0, 0xFFFFFFFF⟩,
  ⟨Reg.CM_CFG_CRC_NOW, .ro, some Reg.CM_CRCSEL, 0x0, 0x0⟩,
  ⟨Reg.CM_CRC_DRIFT, .ro, none, 0x0, 0x0⟩,
  ⟨Reg.CM_CRC_STALE, .ro, none, 0x3F5C, 0x0⟩,
  ⟨Reg.CM_TEMP, .roc, none, 0x0, 0x0⟩,
  ⟨Reg.CM_VMON, .roc, none, 0x0, 0x0⟩,
  ⟨Reg.CM_APPLY_CNT, .ro, none, 0x0, 0x0⟩,
  ⟨Reg.CM_REFUSE_CNT, .ro, none, 0x0, 0x0⟩,
  ⟨Reg.CM_APPLY_DROP_CNT, .ro, none, 0x0, 0x0⟩,
  ⟨Reg.CM_GUARD_FAIL_CNT, .ro, none, 0x0, 0x0⟩,
  ⟨Reg.CM_DRIFT_CNT, .ro, none, 0x0, 0x0⟩,
  ⟨Reg.CM_BAD_ACC_CNT, .ro, none, 0x0, 0x0⟩]

/-- The DM block of DX-T. -/
def regRowsDxtDM : List RegRow := [
  ⟨dmBase .dxt + Reg.DM_STATUS, .ro, none, 0x0, 0x0⟩,
  ⟨dmBase .dxt + Reg.DM_BUF, .ro, none, 0x40, 0x0⟩,
  ⟨dmBase .dxt + Reg.DM_RD_BYTES_LO, .ro, none, 0x0, 0x0⟩,
  ⟨dmBase .dxt + Reg.DM_RD_BYTES_HI, .ro, none, 0x0, 0x0⟩,
  ⟨dmBase .dxt + Reg.DM_WR_BYTES_LO, .ro, none, 0x0, 0x0⟩,
  ⟨dmBase .dxt + Reg.DM_WR_BYTES_HI, .ro, none, 0x0, 0x0⟩,
  ⟨dmBase .dxt + Reg.DM_KILLW_CNT, .ro, none, 0x0, 0x0⟩]

/-- The FT block of DX-S48. -/
def regRowsDxsFT : List RegRow := [
  ⟨Reg.FT_JOBSEL, .rw, none, 0x0, 0xFF⟩,
  ⟨Reg.FT_PERIOD, .rws, some Reg.FT_JOBSEL, 0x0, 0xFFFFFF⟩,
  ⟨Reg.FT_LEAD, .rws, some Reg.FT_JOBSEL, 0x7D0, 0xFFFF⟩,
  ⟨Reg.FT_DELIVERY, .rws, some Reg.FT_JOBSEL, 0x0, 0xFFFF⟩,
  ⟨Reg.FT_STATUS, .ro, some Reg.FT_JOBSEL, 0x0, 0x0⟩,
  ⟨Reg.FT_SN_LO, .ro, some Reg.FT_JOBSEL, 0x0, 0x0⟩,
  ⟨Reg.FT_SN_HI, .ro, some Reg.FT_JOBSEL, 0x0, 0x0⟩,
  ⟨Reg.FT_GO, .ro, some Reg.FT_JOBSEL, 0x0, 0x0⟩,
  ⟨Reg.FT_GO + 4, .ro, some Reg.FT_JOBSEL, 0x0, 0x0⟩,
  ⟨Reg.FT_GO + 8, .ro, some Reg.FT_JOBSEL, 0x0, 0x0⟩,
  ⟨Reg.FT_SEAL, .ro, some Reg.FT_JOBSEL, 0x0, 0x0⟩,
  ⟨Reg.FT_SEAL + 4, .ro, some Reg.FT_JOBSEL, 0x0, 0x0⟩,
  ⟨Reg.FT_SEAL + 8, .ro, some Reg.FT_JOBSEL, 0x0, 0x0⟩,
  ⟨Reg.FT_CUT, .ro, some Reg.FT_JOBSEL, 0x0, 0x0⟩,
  ⟨Reg.FT_CUT + 4, .ro, some Reg.FT_JOBSEL, 0x0, 0x0⟩,
  ⟨Reg.FT_CUT + 8, .ro, some Reg.FT_JOBSEL, 0x0, 0x0⟩,
  ⟨Reg.FT_SLACK, .ro, some Reg.FT_JOBSEL, 0x0, 0x0⟩,
  ⟨Reg.FT_LATE_CNT, .ro, some Reg.FT_JOBSEL, 0x0, 0x0⟩,
  ⟨Reg.FT_LATE_MAX, .ro, some Reg.FT_JOBSEL, 0x0, 0x0⟩,
  ⟨Reg.FT_EMIT_CNT, .ro, some Reg.FT_JOBSEL, 0x0, 0x0⟩,
  ⟨Reg.FT_TAG, .ro, some Reg.FT_JOBSEL, 0x0, 0x0⟩]

/-- The SP block of DX-S48. -/
def regRowsDxsSP : List RegRow := [
  ⟨Reg.SP_PORTSEL, .rw, none, 0x0, 0x3F⟩,
  ⟨Reg.SP_CTRL, .rws, some Reg.SP_PORTSEL, 0x40, 0xFF73⟩,
  ⟨Reg.SP_DWELL, .rws, some Reg.SP_PORTSEL, 0xFA, 0x3FF⟩,
  ⟨Reg.SP_CRED_INIT, .rws, some Reg.SP_PORTSEL, 0x20204080, 0xFFFFFFFF⟩,
  ⟨Reg.SP_RETRY_TO, .rws, some Reg.SP_PORTSEL, 0x40, 0xFF⟩,
  ⟨Reg.SP_UNCORR_LIM, .rws, some Reg.SP_PORTSEL, 0x10, 0xFFFF⟩,
  ⟨Reg.SP_EPOCH, .wg, some Reg.SP_PORTSEL, 0x0, 0xFFFF⟩,
  ⟨Reg.SP_EPOCH_C, .wg, some Reg.SP_PORTSEL, 0xFFFF, 0xFFFF⟩,
  ⟨Reg.SP_STATUS, .ro, some Reg.SP_PORTSEL, 0x0, 0x0⟩,
  ⟨Reg.SP_PARTNER, .ro, some Reg.SP_PORTSEL, 0x0, 0x0⟩,
  ⟨Reg.SP_MQ_MAX, .ro, some Reg.SP_PORTSEL, 0x0, 0x0⟩,
  ⟨Reg.SP_MARK_CORR_CNT, .ro, some Reg.SP_PORTSEL, 0x0, 0x0⟩,
  ⟨Reg.SP_MARK_UNCORR_CNT, .ro, some Reg.SP_PORTSEL, 0x0, 0x0⟩,
  ⟨Reg.SP_MARK_COPY_CNT, .ro, some Reg.SP_PORTSEL, 0x0, 0x0⟩,
  ⟨Reg.SP_MALF_CNT, .ro, some Reg.SP_PORTSEL, 0x0, 0x0⟩,
  ⟨Reg.SP_MARK_RESENT_CNT, .ro, some Reg.SP_PORTSEL, 0x0, 0x0⟩,
  ⟨Reg.SP_EPOCH_DROP_CNT, .ro, some Reg.SP_PORTSEL, 0x0, 0x0⟩,
  ⟨Reg.SP_SHEET_CRC_CNT, .ro, some Reg.SP_PORTSEL, 0x0, 0x0⟩,
  ⟨Reg.SP_SHEET_REPLAY_CNT, .ro, some Reg.SP_PORTSEL, 0x0, 0x0⟩,
  ⟨Reg.SP_LINK_DOWN_CNT, .ro, some Reg.SP_PORTSEL, 0x0, 0x0⟩,
  ⟨Reg.SP_QFULL_CNT, .ro, some Reg.SP_PORTSEL, 0x0, 0x0⟩,
  ⟨Reg.SP_CRED_AVAIL, .ro, some Reg.SP_PORTSEL, 0x0, 0x0⟩,
  ⟨Reg.SP_REPLAY_OCC, .ro, some Reg.SP_PORTSEL, 0x0, 0x0⟩,
  ⟨Reg.SP_MQ_OCC, .ro, some Reg.SP_PORTSEL, 0x0, 0x0⟩]

/-- The TT block of DX-S48. -/
def regRowsDxsTT : List RegRow := [
  ⟨Reg.TT_PORTSEL, .rw, none, 0x0, 0x3F⟩,
  ⟨Reg.TT_CTRL, .rws, none, 0x20, 0x7F⟩,
  ⟨Reg.TT_REFS, .rws, none, 0x3F3F, 0x3F3F⟩,
  ⟨Reg.TT_LOCK_CFG, .rws, none, 0x103E80FA, 0xFFFFFFFF⟩,
  ⟨Reg.TT_SERVO_CFG, .rws, none, 0xC80A04, 0xFFFF0F0F⟩,
  ⟨Reg.TT_STEP_LIM, .rws, none, 0x3E8, 0xFFFF⟩,
  ⟨Reg.TT_WTR, .rws, none, 0x3D09, 0xFFFF⟩,
  ⟨Reg.TT_SPLIT_LIM, .rws, none, 0x3E8, 0xFFFF⟩,
  ⟨Reg.TT_FW_LIM, .rws, none, 0xA7C6, 0xFFFFFFFF⟩,
  ⟨Reg.TT_FW_SW, .rw, none, 0x0, 0xFFFFFFFF⟩,
  ⟨Reg.TT_SNAP, .rw, none, 0x0, 0xFFFFFFFF⟩,
  ⟨Reg.TT_STATUS, .ro, none, 0x0, 0x0⟩,
  ⟨Reg.TT_FW, .ro, none, 0x0, 0x0⟩,
  ⟨Reg.TT_FW_AVG, .ro, none, 0x0, 0x0⟩,
  ⟨Reg.TT_HT_SNAP, .ro, none, 0x0, 0x0⟩,
  ⟨Reg.TT_HT_SNAP + 4, .ro, none, 0x0, 0x0⟩,
  ⟨Reg.TT_HT_SNAP + 8, .ro, none, 0x0, 0x0⟩,
  ⟨Reg.TT_SNAP_SEQ, .ro, none, 0x0, 0x0⟩,
  ⟨Reg.TT_SEED, .rw, none, 0x0, 0xFFFFFFFF⟩,
  ⟨Reg.TT_SEED + 4, .rw, none, 0x0, 0xFFFFFFFF⟩,
  ⟨Reg.TT_SEED + 8, .rw, none, 0x0, 0xFFFFFFFF⟩,
  ⟨Reg.TT_DOM_OFS, .ro, none, 0x0, 0x0⟩,
  ⟨Reg.TT_SWITCH_CNT, .ro, none, 0x0, 0x0⟩,
  ⟨Reg.TT_OVERCAST_CNT, .ro, none, 0x0, 0x0⟩,
  ⟨Reg.TT_RELOAD_CNT, .ro, none, 0x0, 0x0⟩,
  ⟨Reg.TT_P_CABLE_ASYM, .rws, some Reg.TT_PORTSEL, 0x0, 0xFFFF⟩,
  ⟨Reg.TT_P_LAT, .ro, some Reg.TT_PORTSEL, 0x0, 0x0⟩,
  ⟨Reg.TT_P_THETA, .ro, some Reg.TT_PORTSEL, 0x0, 0x0⟩,
  ⟨Reg.TT_P_MPD, .ro, some Reg.TT_PORTSEL, 0x0, 0x0⟩,
  ⟨Reg.TT_P_BIAS, .ro, some Reg.TT_PORTSEL, 0x0, 0x0⟩,
  ⟨Reg.TT_P_ECHO, .ro, some Reg.TT_PORTSEL, 0x0, 0x0⟩,
  ⟨Reg.TT_P_QL, .ro, some Reg.TT_PORTSEL, 0x0, 0x0⟩,
  ⟨Reg.TT_P_ECHO_LOST_CNT, .ro, some Reg.TT_PORTSEL, 0x0, 0x0⟩,
  ⟨Reg.TT_P_ECHO_GATE_CNT, .ro, some Reg.TT_PORTSEL, 0x0, 0x0⟩,
  ⟨Reg.TT_P_ECHO_ANS_CNT, .ro, some Reg.TT_PORTSEL, 0x0, 0x0⟩]

/-- The RF block of DX-S48. -/
def regRowsDxsRF : List RegRow := [
  ⟨Reg.RF_REFSEL, .rw, none, 0x0, 0x7⟩,
  ⟨Reg.RF_CTRL, .rws, none, 0x200, 0x7FF09⟩,
  ⟨Reg.RF_PRIO, .rws, none, 0x76543210, 0xFFFFFFFF⟩,
  ⟨Reg.RF_LOCK, .rws, none, 0x100C8032, 0xFFFFFFFF⟩,
  ⟨Reg.RF_GAIN, .rws, none, 0x4030802, 0xFF0F0F0F⟩,
  ⟨Reg.RF_ALIGN, .rws, none, 0x642710, 0xFFFFFFFF⟩,
  ⟨Reg.RF_WTR, .rws, none, 0xA, 0xFFFF⟩,
  ⟨Reg.RF_QL_CFG, .rws, none, 0xFBBB3407, 0xFFFFFFFF⟩,
  ⟨Reg.RF_HOLD_SPEC, .rws, none, 0x8, 0xFF⟩,
  ⟨Reg.RF_STATUS, .ro, none, 0xF0, 0x0⟩,
  ⟨Reg.RF_BIAS, .ro, none, 0x0, 0x0⟩,
  ⟨Reg.RF_FW_EXT, .ro, none, 0x0, 0x0⟩,
  ⟨Reg.RF_FW_SW_EXT, .rw, none, 0x0, 0xFFFF⟩,
  ⟨Reg.RF_SW_WDOG, .rws, none, 0x64, 0xFFFF⟩,
  ⟨Reg.RF_AGE_C1, .rw, none, 0x0, 0xFFFFFFFF⟩,
  ⟨Reg.RF_AGE_TAU, .rw, none, 0x0, 0xFFFFFFFF⟩,
  ⟨Reg.RF_AGE_T0, .rw, none, 0x0, 0xFFFFFFFF⟩,
  ⟨Reg.RF_OCXO_OFS, .ro, none, 0x0, 0x0⟩,
  ⟨Reg.RF_SWITCH_CNT, .ro, none, 0x0, 0x0⟩,
  ⟨Reg.RF_FORCE, .wg, none, 0x0, 0xF⟩,
  ⟨Reg.RF_FORCE_C, .wg, none, 0xFFFFFFFF, 0xF⟩,
  ⟨Reg.RF_HTSET_NS, .wg, none, 0x0, 0xFFFFFFFF⟩,
  ⟨Reg.RF_HTSET_NS_C, .wg, none, 0xFFFFFFFF, 0xFFFFFFFF⟩,
  ⟨Reg.RF_HTSET_S, .wg, none, 0x0, 0xFFFFFFFF⟩,
  ⟨Reg.RF_HTSET_S_C, .wg, none, 0xFFFFFFFF, 0xFFFFFFFF⟩,
  ⟨Reg.RF_HTSET_SH, .wg, none, 0x0, 0xFFFFFFFF⟩,
  ⟨Reg.RF_HTSET_SH_C, .wg, none, 0xFFFFFFFF, 0xFFFFFFFF⟩,
  ⟨Reg.RF_HTSTEP, .wg, none, 0x0, 0xFFFFFFFF⟩,
  ⟨Reg.RF_HTSTEP_C, .wg, none, 0xFFFFFFFF, 0xFFFFFFFF⟩,
  ⟨Reg.RF_HTSET_ST, .ro, none, 0x0, 0x0⟩,
  ⟨Reg.RF_P_CFG, .rws, some Reg.RF_REFSEL, 0x0, 0xFFFFF0F⟩,
  ⟨Reg.RF_P_QUAL, .rws, some Reg.RF_REFSEL, 0x0, 0xFFFFFFFF⟩,
  ⟨Reg.RF_P_COMP, .rws, some Reg.RF_REFSEL, 0x0, 0xFFFFFFFF⟩,
  ⟨Reg.RF_P_STATUS, .ro, some Reg.RF_REFSEL, 0x0, 0x0⟩,
  ⟨Reg.RF_P_THETA_NS, .ro, some Reg.RF_REFSEL, 0x0, 0x0⟩,
  ⟨Reg.RF_P_THETA_FR, .ro, some Reg.RF_REFSEL, 0x0, 0x0⟩,
  ⟨Reg.RF_P_SEQ, .ro, some Reg.RF_REFSEL, 0x0, 0x0⟩,
  ⟨Reg.RF_P_FREQ, .ro, some Reg.RF_REFSEL, 0x0, 0x0⟩,
  ⟨Reg.RF_P_BIAS, .ro, some Reg.RF_REFSEL, 0x0, 0x0⟩,
  ⟨Reg.RF_P_REJ_CNT, .ro, some Reg.RF_REFSEL, 0x0, 0x0⟩,
  ⟨Reg.RF_P_EDGE_CNT, .ro, some Reg.RF_REFSEL, 0x0, 0x0⟩]

/-- The TO block of DX-S48. -/
def regRowsDxsTO : List RegRow := [
  ⟨toBase .dxs + Reg.TO_OUTSEL, .rw, none, 0x0, 0xF⟩,
  ⟨toBase .dxs + Reg.TO_CTRL, .rws, some (toBase .dxs + Reg.TO_OUTSEL), 0x0, 0x7B⟩,
  ⟨toBase .dxs + Reg.TO_OFFSET, .rws, some (toBase .dxs + Reg.TO_OUTSEL), 0x0, 0xFFFFFFFF⟩,
  ⟨toBase .dxs + Reg.TO_OFFSET_FR, .rws, some (toBase .dxs + Reg.TO_OUTSEL), 0x0, 0xFFFF⟩,
  ⟨toBase .dxs + Reg.TO_START, .rws, some (toBase .dxs + Reg.TO_OUTSEL), 0x0, 0xFFFFFFFF⟩,
  ⟨toBase .dxs + Reg.TO_START + 4, .rws, some (toBase .dxs + Reg.TO_OUTSEL), 0x0, 0xFFFFFFFF⟩,
  ⟨toBase .dxs + Reg.TO_START + 8, .rws, some (toBase .dxs + Reg.TO_OUTSEL), 0x0, 0xFFFFFFFF⟩,
  ⟨toBase .dxs + Reg.TO_PERIOD, .rws, some (toBase .dxs + Reg.TO_OUTSEL), 0x0, 0xFFFFFFFF⟩,
  ⟨toBase .dxs + Reg.TO_WIDTH, .rws, some (toBase .dxs + Reg.TO_OUTSEL), 0x5F5E100, 0xFFFFFFFF⟩,
  ⟨toBase .dxs + Reg.TO_STATUS, .ro, some (toBase .dxs + Reg.TO_OUTSEL), 0x0, 0x0⟩,
  ⟨toBase .dxs + Reg.TO_EDGE, .ro, some (toBase .dxs + Reg.TO_OUTSEL), 0x0, 0x0⟩,
  ⟨toBase .dxs + Reg.TO_EDGE + 4, .ro, some (toBase .dxs + Reg.TO_OUTSEL), 0x0, 0x0⟩,
  ⟨toBase .dxs + Reg.TO_EDGE + 8, .ro, some (toBase .dxs + Reg.TO_OUTSEL), 0x0, 0x0⟩,
  ⟨toBase .dxs + Reg.TO_EDGE_CNT, .ro, some (toBase .dxs + Reg.TO_OUTSEL), 0x0, 0x0⟩,
  ⟨toBase .dxs + Reg.TO_CAL, .ro, some (toBase .dxs + Reg.TO_OUTSEL), 0x0, 0x0⟩]

/-- The TM block of DX-S48. -/
def regRowsDxsTM : List RegRow := [
  ⟨tmBase .dxs + Reg.TM_CVSEL, .rw, none, 0x0, 0x3F⟩,
  ⟨tmBase .dxs + Reg.TM_CV_STATUS, .ro, some (tmBase .dxs + Reg.TM_CVSEL), 0x0, 0x0⟩,
  ⟨tmBase .dxs + Reg.TM_CV_SCALE, .ro, some (tmBase .dxs + Reg.TM_CVSEL), 0x0, 0x0⟩,
  ⟨tmBase .dxs + Reg.TM_CV_OFFSET, .ro, some (tmBase .dxs + Reg.TM_CVSEL), 0x0, 0x0⟩,
  ⟨tmBase .dxs + Reg.TM_CV_INL, .ro, some (tmBase .dxs + Reg.TM_CVSEL), 0x0, 0x0⟩,
  ⟨tmBase .dxs + Reg.TM_CV_MEAS_CNT, .ro, some (tmBase .dxs + Reg.TM_CVSEL), 0x0, 0x0⟩,
  ⟨tmBase .dxs + Reg.TM_CV_MERGED_CNT, .ro, some (tmBase .dxs + Reg.TM_CVSEL), 0x0, 0x0⟩,
  ⟨tmBase .dxs + Reg.TM_CV_CALFAIL_CNT, .ro, some (tmBase .dxs + Reg.TM_CVSEL), 0x0, 0x0⟩,
  ⟨tmBase .dxs + Reg.TM_SW_CTRL, .rws, none, 0x100, 0xFFF3⟩,
  ⟨tmBase .dxs + Reg.TM_SW_WINDOW, .rws, none, 0xFA, 0xFFFFFFFF⟩,
  ⟨tmBase .dxs + Reg.TM_SW_START, .rws, none, 0x0, 0xFFFFFFFF⟩,
  ⟨tmBase .dxs + Reg.TM_SW_START + 4, .rws, none, 0x0, 0xFFFFFFFF⟩,
  ⟨tmBase .dxs + Reg.TM_SW_START + 8, .rws, none, 0x0, 0xFFFFFFFF⟩,
  ⟨tmBase .dxs + Reg.TM_SW_GO, .rw, none, 0x0, 0xFFFFFFFF⟩,
  ⟨tmBase .dxs + Reg.TM_SW_STATUS, .ro, none, 0x0, 0x0⟩,
  ⟨tmBase .dxs + Reg.TM_SW_RESSEL, .rw, none, 0x0, 0xF⟩,
  ⟨tmBase .dxs + Reg.TM_SW_RES, .ro, some (tmBase .dxs + Reg.TM_SW_RESSEL), 0x0, 0x0⟩,
  ⟨tmBase .dxs + Reg.TM_SW_RES + 4, .ro, some (tmBase .dxs + Reg.TM_SW_RESSEL), 0x0, 0x0⟩,
  ⟨tmBase .dxs + Reg.TM_SW_RES + 8, .ro, some (tmBase .dxs + Reg.TM_SW_RESSEL), 0x0, 0x0⟩,
  ⟨tmBase .dxs + Reg.TM_SW_RES_FLAGS, .ro, some (tmBase .dxs + Reg.TM_SW_RESSEL), 0x0, 0x0⟩,
  ⟨tmBase .dxs + Reg.TM_FQ_CTRL, .rws, none, 0x3E800, 0xFFFFFF03⟩,
  ⟨tmBase .dxs + Reg.TM_FQ_GO, .rw, none, 0x0, 0xFFFFFFFF⟩,
  ⟨tmBase .dxs + Reg.TM_FQ_STATUS, .ro, none, 0x0, 0x0⟩,
  ⟨tmBase .dxs + Reg.TM_FQ_FREQ, .ro, none, 0x0, 0x0⟩,
  ⟨tmBase .dxs + Reg.TM_FQ_N, .ro, none, 0x0, 0x0⟩,
  ⟨tmBase .dxs + Reg.TM_FQ_SEQ, .ro, none, 0x0, 0x0⟩,
  ⟨tmBase .dxs + Reg.TM_SW_BUSY_CNT, .ro, none, 0x0, 0x0⟩]

/-- The GA block of DX-S48. -/
def regRowsDxsGA : List RegRow := [
  ⟨Reg.GA_IDSEL, .rw, none, 0x0, 0xFFFF⟩,
  ⟨Reg.GA_CFG, .rws, some Reg.GA_IDSEL, 0x0, 0x8000FF37⟩,
  ⟨Reg.GA_EXPECT, .rws, some Reg.GA_IDSEL, 0x0, 0x1FFFF⟩,
  ⟨Reg.GA_DEADLINE, .rws, some Reg.GA_IDSEL, 0x0, 0xFFFFFFFF⟩,
  ⟨Reg.GA_N, .rws, some Reg.GA_IDSEL, 0x0, 0x1FFFF⟩,
  ⟨Reg.GA_K, .rws, some Reg.GA_IDSEL, 0x0, 0x1FFFF⟩,
  ⟨Reg.GA_SETTLE, .rws, some Reg.GA_IDSEL, 0x3E8, 0xFFFFFFFF⟩,
  ⟨Reg.GA_SLOTSEL, .rw, none, 0x0, 0x1⟩,
  ⟨Reg.GA_S_STATE, .ro, some Reg.GA_IDSEL, 0x0, 0x0⟩,
  ⟨Reg.GA_S_RECV, .ro, some Reg.GA_IDSEL, 0x0, 0x0⟩,
  ⟨Reg.GA_S_FWD, .ro, some Reg.GA_IDSEL, 0x0, 0x0⟩,
  ⟨Reg.GA_S_PEND, .ro, some Reg.GA_IDSEL, 0x0, 0x0⟩,
  ⟨Reg.GA_S_LATE, .ro, some Reg.GA_IDSEL, 0x0, 0x0⟩,
  ⟨Reg.GA_S_STAMP, .ro, some Reg.GA_IDSEL, 0x0, 0x0⟩,
  ⟨Reg.GA_S_STAMP + 4, .ro, some Reg.GA_IDSEL, 0x0, 0x0⟩,
  ⟨Reg.GA_S_STAMP + 8, .ro, some Reg.GA_IDSEL, 0x0, 0x0⟩,
  ⟨Reg.GA_S_RECV_B, .ro, some Reg.GA_IDSEL, 0x0, 0x0⟩,
  ⟨Reg.GA_S_LATE_B, .ro, some Reg.GA_IDSEL, 0x0, 0x0⟩,
  ⟨Reg.GA_JOBSEL, .rw, none, 0x0, 0xFF⟩,
  ⟨Reg.GA_RANGE, .rws, some Reg.GA_JOBSEL, 0x0, 0xFFFFFFFF⟩,
  ⟨Reg.GA_STATUS, .ro, none, 0x0, 0x0⟩,
  ⟨Reg.GA_IDS_USED, .ro, none, 0x0, 0x0⟩,
  ⟨Reg.GA_AUDIT_CNT, .ro, none, 0x0, 0x0⟩,
  ⟨Reg.GA_DECIDED_CNT, .ro, none, 0x0, 0x0⟩,
  ⟨Reg.GA_EXPIRED_CNT, .ro, none, 0x0, 0x0⟩,
  ⟨Reg.GA_LATE_ARR_CNT, .ro, none, 0x0, 0x0⟩,
  ⟨Reg.GA_SETTLE_VIOL_CNT, .ro, none, 0x0, 0x0⟩,
  ⟨Reg.GA_STALE_CNT, .ro, none, 0x0, 0x0⟩,
  ⟨Reg.GA_SEQ_CNT, .ro, none, 0x0, 0x0⟩,
  ⟨Reg.GA_KIND_CNT, .ro, none, 0x0, 0x0⟩,
  ⟨Reg.GA_NOREC_CNT, .ro, none, 0x0, 0x0⟩]

/-- The FD block of DX-S48. -/
def regRowsDxsFD : List RegRow := [
  ⟨Reg.DXS_FD_DESCSEL, .rw, none, 0x0, 0xFFF⟩,
  ⟨Reg.DXS_FD_D_OP, .rws, some Reg.DXS_FD_DESCSEL, 0x0, 0x83FF0FFF⟩,
  ⟨Reg.DXS_FD_D_D, .rws, some Reg.DXS_FD_DESCSEL, 0x0, 0x1FF⟩,
  ⟨Reg.DXS_FD_D_ROWS, .rws, some Reg.DXS_FD_DESCSEL, 0x0, 0x7FFFF⟩,
  ⟨Reg.DXS_FD_D_COLS, .rws, some Reg.DXS_FD_DESCSEL, 0x0, 0x7FFFF⟩,
  ⟨Reg.DXS_FD_CTRL, .rws, none, 0x8000003, 0xFFF0003⟩,
  ⟨Reg.DXS_FD_ENG_EN, .rws, none, 0xFFFFFFFF, 0xFFFFFFFF⟩,
  ⟨Reg.DXS_FD_WAIT, .rws, none, 0x186A0, 0xFFFFFFFF⟩,
  ⟨Reg.DXS_FD_STATUS, .ro, none, 0x0, 0x0⟩,
  ⟨Reg.DXS_FD_BLK_FREE, .ro, none, 0x1800, 0x0⟩,
  ⟨Reg.DXS_FD_BLK_HELD, .ro, none, 0x0, 0x0⟩,
  ⟨Reg.DXS_FD_BLK_RSVD, .ro, none, 0x0, 0x0⟩,
  ⟨Reg.DXS_FD_BLK_LENT, .ro, none, 0x0, 0x0⟩,
  ⟨Reg.DXS_FD_OPEN, .ro, none, 0x0, 0x0⟩,
  ⟨Reg.DXS_FD_ENGSEL, .rw, none, 0x0, 0x1F⟩,
  ⟨Reg.DXS_FD_E_STATUS, .ro, some Reg.DXS_FD_ENGSEL, 0x80000000, 0x0⟩,
  ⟨Reg.DXS_FD_E_TASK_CNT, .ro, some Reg.DXS_FD_ENGSEL, 0x0, 0x0⟩,
  ⟨Reg.DXS_FD_E_STOLEN_CNT, .ro, some Reg.DXS_FD_ENGSEL, 0x0, 0x0⟩,
  ⟨Reg.DXS_FD_LANEOP_LO, .ro, none, 0x0, 0x0⟩,
  ⟨Reg.DXS_FD_LANEOP_HI, .ro, none, 0x0, 0x0⟩,
  ⟨Reg.DXS_FD_AUDIT_CNT, .ro, none, 0x0, 0x0⟩,
  ⟨Reg.DXS_FD_LEN_CNT, .ro, none, 0x0, 0x0⟩,
  ⟨Reg.DXS_FD_MISSING_CNT, .ro, none, 0x0, 0x0⟩,
  ⟨Reg.DXS_FD_KAT_CNT, .ro, none, 0x0, 0x0⟩,
  ⟨Reg.DXS_FD_KAT_FAIL_CNT, .ro, none, 0x0, 0x0⟩,
  ⟨Reg.DXS_FD_RESULT_CNT, .ro, none, 0x0, 0x0⟩]

/-- The FS block of DX-S48. -/
def regRowsDxsFS : List RegRow := [
  ⟨Reg.FS_CTXSEL, .rw, none, 0x0, 0xFF⟩,
  ⟨Reg.FS_C_STATE, .ro, some Reg.FS_CTXSEL, 0x0, 0x0⟩,
  ⟨Reg.FS_C_PROG, .ro, some Reg.FS_CTXSEL, 0x0, 0x0⟩,
  ⟨Reg.FS_C_IPF, .ro, some Reg.FS_CTXSEL, 0x0, 0x0⟩,
  ⟨Reg.FS_C_SEG_MAX, .ro, some Reg.FS_CTXSEL, 0x0, 0x0⟩,
  ⟨Reg.FS_C_WSEL, .rw, none, 0x0, 0xF⟩,
  ⟨Reg.FS_C_W_LO, .ro, some Reg.FS_CTXSEL, 0x0, 0x0⟩,
  ⟨Reg.FS_C_W_HI, .ro, some Reg.FS_CTXSEL, 0x0, 0x0⟩,
  ⟨Reg.FS_C_LOG_BASE_LO, .rws, some Reg.FS_CTXSEL, 0x0, 0xFFFFF000⟩,
  ⟨Reg.FS_C_LOG_BASE_HI, .rws, some Reg.FS_CTXSEL, 0x0, 0xFFFFFFFF⟩,
  ⟨Reg.FS_C_LOG_SIZE, .rws, some Reg.FS_CTXSEL, 0x10000, 0xFFFFFFFF⟩,
  ⟨Reg.FS_C_LOG_HEAD, .rw, some Reg.FS_CTXSEL, 0x0, 0xFFFFFFFF⟩,
  ⟨Reg.FS_C_LOG_TAIL, .rw, some Reg.FS_CTXSEL, 0x0, 0xFFFFFFFF⟩,
  ⟨Reg.FS_C_VARIES_CNT, .ro, some Reg.FS_CTXSEL, 0x0, 0x0⟩,
  ⟨Reg.FS_C_LOGWAIT_CNT, .ro, some Reg.FS_CTXSEL, 0x0, 0x0⟩,
  ⟨Reg.FS_BUDGET, .ro, none, 0x0, 0x0⟩,
  ⟨Reg.FS_MEM_FREE, .ro, none, 0x4000, 0x0⟩,
  ⟨Reg.FS_ISSUE_LO, .ro, none, 0x0, 0x0⟩,
  ⟨Reg.FS_ISSUE_HI, .ro, none, 0x0, 0x0⟩,
  ⟨Reg.FS_STATUS, .ro, none, 0x0, 0x0⟩,
  ⟨Reg.FS_XACK_MAX, .ro, none, 0x0, 0x0⟩,
  ⟨Reg.FS_SOLO_CNT, .ro, none, 0x0, 0x0⟩,
  ⟨Reg.FS_HALT_CNT, .ro, none, 0x0, 0x0⟩]

/-- The SS block of DX-S48. -/
def regRowsDxsSS : List RegRow := [
  ⟨Reg.DXS_SS_CTRL, .rws, none, 0x0, 0x1⟩,
  ⟨Reg.DXS_SS_KILL_GAP, .rws, none, 0xFA, 0xFFFF⟩,
  ⟨Reg.DXS_SS_EV_BASE_LO, .rws, none, 0x0, 0xFFFFF000⟩,
  ⟨Reg.DXS_SS_EV_BASE_HI, .rws, none, 0x0, 0xFFFFFFFF⟩,
  ⟨Reg.DXS_SS_EV_SIZE, .rws, none, 0x10000, 0xFFFFFFFF⟩,
  ⟨Reg.DXS_SS_EV_HEAD, .rw, none, 0x0, 0xFFFFFFFF⟩,
  ⟨Reg.DXS_SS_EV_TAIL, .rw, none, 0x0, 0xFFFFFFFF⟩,
  ⟨Reg.DXS_SS_PARK_BASE_LO, .rws, none, 0x0, 0xFFFFF000⟩,
  ⟨Reg.DXS_SS_PARK_BASE_HI, .rws, none, 0x0, 0xFFFFFFFF⟩,
  ⟨Reg.DXS_SS_PARK_CFG, .rws, none, 0x400000, 0x7FFFFF⟩,
  ⟨Reg.DXS_SS_WHEEL_BASE_LO, .rws, none, 0x0, 0xFFFFF000⟩,
  ⟨Reg.DXS_SS_WHEEL_BASE_HI, .rws, none, 0x0, 0xFFFFFFFF⟩,
  ⟨Reg.DXS_SS_JOBSEL, .rw, none, 0x0, 0xFF⟩,
  ⟨Reg.DXS_SS_J_LIVE, .ro, some Reg.DXS_SS_JOBSEL, 0x0, 0x0⟩,
  ⟨Reg.DXS_SS_J_QUEUED, .ro, some Reg.DXS_SS_JOBSEL, 0x0, 0x0⟩,
  ⟨Reg.DXS_SS_J_SRSV, .ro, some Reg.DXS_SS_JOBSEL, 0x0, 0x0⟩,
  ⟨Reg.DXS_SS_J_TRSV, .ro, some Reg.DXS_SS_JOBSEL, 0x0, 0x0⟩,
  ⟨Reg.DXS_SS_J_THROTTLED, .ro, some Reg.DXS_SS_JOBSEL, 0x0, 0x0⟩,
  ⟨Reg.DXS_SS_STATUS, .ro, none, 0x0, 0x0⟩,
  ⟨Reg.DXS_SS_FREE_SLOTS, .ro, none, 0x40000, 0x0⟩,
  ⟨Reg.DXS_SS_PARKED, .ro, none, 0x0, 0x0⟩,
  ⟨Reg.DXS_SS_CMD_CNT, .ro, none, 0x0, 0x0⟩,
  ⟨Reg.DXS_SS_REFUSED_CNT, .ro, none, 0x0, 0x0⟩,
  ⟨Reg.DXS_SS_KILL_CNT, .ro, none, 0x0, 0x0⟩,
  ⟨Reg.DXS_SS_ADMIT_CNT, .ro, none, 0x0, 0x0⟩,
  ⟨Reg.DXS_SS_END_CNT, .ro, none, 0x0, 0x0⟩,
  ⟨Reg.DXS_SS_EVICT_CNT, .ro, none, 0x0, 0x0⟩,
  ⟨Reg.DXS_SS_REPORT_DUP_CNT, .ro, none, 0x0, 0x0⟩,
  ⟨Reg.DXS_SS_REPORT_OVER_CNT, .ro, none, 0x0, 0x0⟩,
  ⟨Reg.DXS_SS_EVWAIT_CNT, .ro, none, 0x0, 0x0⟩,
  ⟨Reg.DXS_SS_AUDIT_CNT, .ro, none, 0x0, 0x0⟩,
  ⟨Reg.DXS_SS_EVICT_LAG_MAX, .ro, none, 0x0, 0x0⟩]

/-- The FQ block of DX-S48. -/
def regRowsDxsFQ : List RegRow := [
  ⟨Reg.DXS_FQ_CTRL, .rws, none, 0x3E80100, 0xFFFFFFFF⟩,
  ⟨Reg.DXS_FQ_QUORUM, .wg, none, 0x7, 0x7⟩,
  ⟨Reg.DXS_FQ_QUORUM_C, .wg, none, 0xFFFFFFF8, 0x7⟩,
  ⟨Reg.DXS_FQ_STATUS, .ro, none, 0x0, 0x0⟩,
  ⟨Reg.DXS_FQ_RAISE, .rw, none, 0x0, 0xFFFFFFFF⟩,
  ⟨Reg.DXS_FQ_FR_INFO, .ro, none, 0x7F00, 0x0⟩,
  ⟨Reg.DXS_FQ_NVOTE, .rw, none, 0x0, 0x8003FFFF⟩,
  ⟨Reg.DXS_FQ_VSEL, .rw, none, 0x0, 0x1FFF⟩,
  ⟨Reg.DXS_FQ_V_WORD, .ro, some Reg.DXS_FQ_VSEL, 0x0, 0x0⟩,
  ⟨Reg.DXS_FQ_VLOG_SEQ, .ro, none, 0x0, 0x0⟩,
  ⟨Reg.DXS_FQ_VLOG_BASE_LO, .rws, none, 0x0, 0xFFFFF000⟩,
  ⟨Reg.DXS_FQ_VLOG_BASE_HI, .rws, none, 0x0, 0xFFFFFFFF⟩,
  ⟨Reg.DXS_FQ_VLOG_SIZE, .rws, none, 0x10000, 0xFFFFFFFF⟩,
  ⟨Reg.DXS_FQ_VLOG_HEAD, .rw, none, 0x0, 0xFFFFFFFF⟩,
  ⟨Reg.DXS_FQ_VLOG_TAIL, .rw, none, 0x0, 0xFFFFFFFF⟩,
  ⟨Reg.DXS_FQ_JOBSEL, .rw, none, 0x0, 0xFF⟩,
  ⟨Reg.DXS_FQ_J_RST, .ro, some Reg.DXS_FQ_JOBSEL, 0x0, 0x0⟩,
  ⟨Reg.DXS_FQ_J_SEALED, .ro, some Reg.DXS_FQ_JOBSEL, 0x0, 0x0⟩,
  ⟨Reg.DXS_FQ_J_TARGET, .ro, some Reg.DXS_FQ_JOBSEL, 0x0, 0x0⟩,
  ⟨Reg.DXS_FQ_J_STORED, .rw, some Reg.DXS_FQ_JOBSEL, 0x0, 0xFFFFFFFF⟩,
  ⟨Reg.DXS_FQ_J_CK_BASE_LO, .rws, some Reg.DXS_FQ_JOBSEL, 0x0, 0xFFFFF000⟩,
  ⟨Reg.DXS_FQ_J_CK_BASE_HI, .rws, some Reg.DXS_FQ_JOBSEL, 0x0, 0xFFFFFFFF⟩,
  ⟨Reg.DXS_FQ_J_CK_SLOT, .rws, some Reg.DXS_FQ_JOBSEL, 0x100000, 0xFFFFFFFF⟩,
  ⟨Reg.DXS_FQ_FAULT_TX_CNT, .ro, none, 0x0, 0x0⟩,
  ⟨Reg.DXS_FQ_FAULT_RX_CNT, .ro, none, 0x0, 0x0⟩,
  ⟨Reg.DXS_FQ_SUPPRESS_CNT, .ro, none, 0x0, 0x0⟩,
  ⟨Reg.DXS_FQ_HB_MISS_CNT, .ro, none, 0x0, 0x0⟩,
  ⟨Reg.DXS_FQ_VERDICT_CNT, .ro, none, 0x0, 0x0⟩,
  ⟨Reg.DXS_FQ_LONE_CNT, .ro, none, 0x0, 0x0⟩,
  ⟨Reg.DXS_FQ_RESTART_CNT, .ro, none, 0x0, 0x0⟩,
  ⟨Reg.DXS_FQ_FALLBACK_CNT, .ro, none, 0x0, 0x0⟩,
  ⟨Reg.DXS_FQ_VLOG_OVF_CNT, .ro, none, 0x0, 0x0⟩]

/-- The BN block of DX-S48. -/
def regRowsDxsBN : List RegRow := [
  ⟨Reg.BN_STATUS, .ro, none, 0x0, 0x0⟩,
  ⟨Reg.BN_NODE, .ro, none, 0x0, 0x0⟩,
  ⟨Reg.BN_FW, .ro, none, 0x0, 0x0⟩,
  ⟨Reg.BN_TOPO, .ro, none, 0x0, 0x0⟩,
  ⟨Reg.BN_BRINGUP, .ro, none, 0x0, 0x0⟩,
  ⟨Reg.BN_CTRL, .rws, none, 0xC803E8, 0xFFFFFFFF⟩,
  ⟨Reg.BN_TREND_CFG, .rws, none, 0x1E3C05A0, 0xFFFFFFFF⟩,
  ⟨Reg.BN_TREND_BASE_LO, .rws, none, 0x0, 0xFFFFF000⟩,
  ⟨Reg.BN_TREND_BASE_HI, .rws, none, 0x0, 0xFFFFFFFF⟩,
  ⟨Reg.BN_TREND_SIZE, .rws, none, 0x100000, 0xFFFFFFFF⟩,
  ⟨Reg.BN_TREND_HEAD, .rw, none, 0x0, 0xFFFFFFFF⟩,
  ⟨Reg.BN_TREND_TAIL, .rw, none, 0x0, 0xFFFFFFFF⟩,
  ⟨Reg.BN_PROP_BASE_LO, .rws, none, 0x0, 0xFFFFF000⟩,
  ⟨Reg.BN_PROP_BASE_HI, .rws, none, 0x0, 0xFFFFFFFF⟩,
  ⟨Reg.BN_PROP_SIZE, .rws, none, 0x10000, 0xFFFFFFFF⟩,
  ⟨Reg.BN_PROP_HEAD, .rw, none, 0x0, 0xFFFFFFFF⟩,
  ⟨Reg.BN_PROP_TAIL, .rw, none, 0x0, 0xFFFFFFFF⟩,
  ⟨Reg.BN_PCOMMIT, .wg, none, 0x0, 0xFFFFFFFF⟩,
  ⟨Reg.BN_PCOMMIT_C, .wg, none, 0xFFFFFFFF, 0xFFFFFFFF⟩,
  ⟨Reg.BN_PSTATUS, .ro, none, 0x0, 0x0⟩,
  ⟨Reg.BN_MB_OWN, .ro, none, 0x0, 0x0⟩,
  ⟨Reg.BN_MB_CMD_CNT, .ro, none, 0x0, 0x0⟩,
  ⟨Reg.BN_MB_WR_DROP_CNT, .ro, none, 0x0, 0x0⟩,
  ⟨Reg.BN_REM_OUT, .ro, none, 0x0, 0x0⟩,
  ⟨Reg.BN_REM_TO_CNT, .ro, none, 0x0, 0x0⟩,
  ⟨Reg.BN_REM_LATE_CNT, .ro, none, 0x0, 0x0⟩,
  ⟨Reg.BN_LOG_DROP_CNT, .ro, none, 0x0, 0x0⟩,
  ⟨Reg.BN_PORTSEL, .rw, none, 0x0, 0x3F⟩,
  ⟨Reg.BN_P_BRING, .ro, some Reg.BN_PORTSEL, 0x0, 0x0⟩]

/-- The IS block of DX-S48. -/
def regRowsDxsIS : List RegRow := [
  ⟨isBase .dxs + Reg.IS_CTRL, .rws, none, 0xB, 0xB⟩,
  ⟨isBase .dxs + Reg.IS_INT, .rws, none, 0xA0A03E8, 0xFFFFFFFF⟩,
  ⟨isBase .dxs + Reg.IS_EYE_CFG, .rws, none, 0x1E08, 0xFFFF⟩,
  ⟨isBase .dxs + Reg.IS_LANESEL, .rw, none, 0x0, 0x7F⟩,
  ⟨isBase .dxs + Reg.IS_EYE, .ro, some (isBase .dxs + Reg.IS_LANESEL), 0x0, 0x0⟩,
  ⟨isBase .dxs + Reg.IS_STATUS, .ro, none, 0x0, 0x0⟩,
  ⟨isBase .dxs + Reg.IS_EYE_CNT, .ro, none, 0x0, 0x0⟩,
  ⟨isBase .dxs + Reg.IS_ABANDON_CNT, .ro, none, 0x0, 0x0⟩]

/-- The CM block of DX-S48. -/
def regRowsDxsCM : List RegRow := [
  ⟨Reg.CM_ID, .ro, none, 0xD480100, 0x0⟩,
  ⟨Reg.CM_CTRL, .rw, none, 0x0, 0x1⟩,
  ⟨Reg.CM_APPLY, .rw, none, 0x0, 0xFFFF⟩,
  ⟨Reg.CM_APPLY_ST, .ro, none, 0xF000000, 0x0⟩,
  ⟨Reg.CM_APPLY_RES, .ro, none, 0x0, 0x0⟩,
  ⟨Reg.CM_APPLY_IDX, .ro, none, 0xFFFFFFFF, 0x0⟩,
  ⟨Reg.CM_GUARD_ST, .ro, none, 0x0, 0x0⟩,
  ⟨Reg.CM_CRCSEL, .rw, none, 0x0, 0x1F⟩,
  ⟨Reg.CM_CRC_EN, .rw, none, 0x7D7C, 0xFFFFFFFF⟩,
  ⟨Reg.CM_CFG_CRC_REF, .rw, some Reg.CM_CRCSEL, 0x0, 0xFFFFFFFF⟩,
  ⟨Reg.CM_CFG_CRC_NOW, .ro, some Reg.CM_CRCSEL, 0x0, 0x0⟩,
  ⟨Reg.CM_CRC_DRIFT, .ro, none, 0x0, 0x0⟩,
  ⟨Reg.CM_CRC_STALE, .ro, none, 0x7D7C, 0x0⟩,
  ⟨Reg.CM_TEMP, .roc, none, 0x0, 0x0⟩,
  ⟨Reg.CM_VMON, .roc, none, 0x0, 0x0⟩,
  ⟨Reg.CM_APPLY_CNT, .ro, none, 0x0, 0x0⟩,
  ⟨Reg.CM_REFUSE_CNT, .ro, none, 0x0, 0x0⟩,
  ⟨Reg.CM_APPLY_DROP_CNT, .ro, none, 0x0, 0x0⟩,
  ⟨Reg.CM_GUARD_FAIL_CNT, .ro, none, 0x0, 0x0⟩,
  ⟨Reg.CM_DRIFT_CNT, .ro, none, 0x0, 0x0⟩,
  ⟨Reg.CM_BAD_ACC_CNT, .ro, none, 0x0, 0x0⟩]

/-- The DM block of DX-S48. -/
def regRowsDxsDM : List RegRow := [
  ⟨dmBase .dxs + Reg.DM_STATUS, .ro, none, 0x0, 0x0⟩,
  ⟨dmBase .dxs + Reg.DM_BUF, .ro, none, 0x100, 0x0⟩,
  ⟨dmBase .dxs + Reg.DM_RD_BYTES_LO, .ro, none, 0x0, 0x0⟩,
  ⟨dmBase .dxs + Reg.DM_RD_BYTES_HI, .ro, none, 0x0, 0x0⟩,
  ⟨dmBase .dxs + Reg.DM_WR_BYTES_LO, .ro, none, 0x0, 0x0⟩,
  ⟨dmBase .dxs + Reg.DM_WR_BYTES_HI, .ro, none, 0x0, 0x0⟩,
  ⟨dmBase .dxs + Reg.DM_LEND_CNT, .ro, none, 0x0, 0x0⟩]

/-- The registers of one DMA channel (R373) at channel base `c`. -/
def regRowsDxtChan (c : Nat) : List RegRow := [
  ⟨c + Reg.DM_C_CFG, .rws, none, 0x80001000, 0xC0FFFF00⟩,
  ⟨c + Reg.DM_C_EVT, .rws, none, 0x0, 0xF0003FFF⟩,
  ⟨c + Reg.DM_C_RING_LO, .rws, none, 0x0, 0xFFFFF000⟩,
  ⟨c + Reg.DM_C_RING_HI, .rws, none, 0x0, 0xFFFFFFFF⟩,
  ⟨c + Reg.DM_C_RING_SIZE, .rws, none, 0x1000, 0xFFFFFFFF⟩,
  ⟨c + Reg.DM_C_RING_HEAD, .rw, none, 0x0, 0xFFFFFFFF⟩,
  ⟨c + Reg.DM_C_RING_TAIL, .ro, none, 0x0, 0x0⟩,
  ⟨c + Reg.DM_C_STATUS, .ro, none, 0x0, 0x0⟩,
  ⟨c + Reg.DM_C_ERR_LO, .ro, none, 0x0, 0x0⟩,
  ⟨c + Reg.DM_C_ERR_HI, .ro, none, 0x0, 0x0⟩,
  ⟨c + Reg.DM_C_DONE_CNT, .ro, none, 0x0, 0x0⟩,
  ⟨c + Reg.DM_C_HALT_CNT, .ro, none, 0x0, 0x0⟩]

def regRowsDxsChan (c : Nat) : List RegRow := [
  ⟨c + Reg.DM_C_CFG, .rws, none, 0x1000, 0x80FFFF00⟩,
  ⟨c + Reg.DM_C_EVT, .rws, none, 0x0, 0xF0003FFF⟩,
  ⟨c + Reg.DM_C_RING_LO, .rws, none, 0x0, 0xFFFFF000⟩,
  ⟨c + Reg.DM_C_RING_HI, .rws, none, 0x0, 0xFFFFFFFF⟩,
  ⟨c + Reg.DM_C_RING_SIZE, .rws, none, 0x1000, 0xFFFFFFFF⟩,
  ⟨c + Reg.DM_C_RING_HEAD, .rw, none, 0x0, 0xFFFFFFFF⟩,
  ⟨c + Reg.DM_C_RING_TAIL, .ro, none, 0x0, 0x0⟩,
  ⟨c + Reg.DM_C_STATUS, .ro, none, 0x0, 0x0⟩,
  ⟨c + Reg.DM_C_ERR_LO, .ro, none, 0x0, 0x0⟩,
  ⟨c + Reg.DM_C_ERR_HI, .ro, none, 0x0, 0x0⟩,
  ⟨c + Reg.DM_C_DONE_CNT, .ro, none, 0x0, 0x0⟩,
  ⟨c + Reg.DM_C_HALT_CNT, .ro, none, 0x0, 0x0⟩]

end Sys2Proof.Machine
end

