-- ==== Sys2Proof/Machine/State.lean ====
section
/-! DEFINITION. The state: everything the manual gives a DX-T, a DX-S48 and its DX-SM module, as plain data. -/

namespace Sys2Proof.Machine

/-! ### Marks and sheets (R47 to R73) -/

/-- The mark kinds (R51). -/
inductive Kind where
  | idle
  | echoReq
  | echoRsp
  | go
  | fault
  | kill
  | done
  | arrive
  | count
  | complete
  | oppoint
  | fence
  | vote
  | resync
  | resyncAck
  | retry
  | remote
  | ql
deriving DecidableEq, Repr

/-- A mark's payload without the class, which its kind fixes (R49, R51). -/
structure Mark where
  kind : Kind
  obj : BitVec 16
  tag : BitVec 16
  stamp : BitVec 32
  arg : BitVec 16
deriving DecidableEq, Repr

/-- A mark in a class queue. An ECHO_RSP keeps t2, from which its turnaround is made when it is sent (R79). -/
structure QMark where
  mark : Mark
  t2 : Nat
deriving DecidableEq, Repr

/-- An accepted mark that no command has taken yet: its port, its receive stamp (2^-16 ns), itself, and whether the stamp counts as
a missing measurement (R130). -/
structure RxMark where
  port : Nat
  time : Nat
  mark : Mark
  bad : Bool
deriving DecidableEq, Repr

/-- A DATA sheet's content; SEQ, ACK, CREDIT, EPOCH and CRC are made when it is sent (R63). -/
structure Sheet where
  typ : Nat
  chan : Nat
  first : Bool
  last : Bool
  len : Nat
  obj : Nat
  tag : Nat
  body : List Byte
deriving DecidableEq, Repr

/-- An accepted DATA sheet that no command has taken yet. `booked` says whether it holds a buffer of the port's present credit
books (R64). -/
structure RxSheet where
  port : Nat
  sheet : Sheet
  booked : Bool
deriving DecidableEq, Repr

/-- An entry of the mark history (R58): the pair count at sending, the mark, and whether a copy followed. -/
structure HistMark where
  pair : Nat
  mark : Mark
  copied : Bool
deriving DecidableEq, Repr

/-- Link states (R69). -/
inductive LinkState where
  | off
  | train
  | hunt
  | up
  | down
  | lost
  | timeOnly
deriving DecidableEq, Repr

/-- The transmitting half of a port (R52 to R60). `pair` counts the pairs sent; its index is the count mod 680. -/
structure PortTx where
  pair : Nat
  q0 : List QMark
  q1 : List QMark
  q2 : List QMark
  q3 : List QMark
  waiting : List QMark
  lastSent : Option Payload
  copySrc : Option Mark
  sinceIdle : Nat
  history : List HistMark
  handled : List (Nat × Nat)
  out : BitVec 112
deriving DecidableEq, Repr

/-- A RESYNC that awaits its RESYNC_ACK: the range, the sends so far, and the pair count at the last send (R59). -/
structure Resync where
  first : Nat
  last : Nat
  sends : Nat
  sentAt : Nat
deriving DecidableEq, Repr

/-- The receiving half of a port (R56 to R61, R70, R73, R75, R288). `missed` is the run of missed columns at the end of the last
pair, `told` which columns of the present pair are told as missed: 1 the first, 2 the second, 3 both; `askAt` is when the port, UP, last
came to hear FREE or ACQUIRE of its partner, which then asks for a seed (R93). -/
structure PortRx where
  prev : Option Payload
  idx : Nat
  lastIdx : Nat
  badRange : Option (Nat × Nat)
  resync : List Resync
  missed : Nat
  told : Nat
  uncorr : Nat
  uncorrFault : Bool
  sinceIdle : Nat
  hbMiss : Bool
  epoch : BitVec 16
  lock : Nat
  rxDown : Bool
  askAt : Nat
deriving DecidableEq, Repr

/-- The sheet books of a port, one entry per channel in the four-element lists (R62 to R68). -/
structure PortSheets where
  nextSeq : Nat
  queue : List Sheet
  replay : List (Nat × Sheet)
  resend : Option Nat
  sent : List Nat
  credit : List Nat
  freed : List Nat
  accepted : List Nat
  held : List Nat
  reported : List Nat
  turn : Nat
  credInit : Word
  expSeq : Nat
  retryOut : Bool
  retrySends : Nat
  retryAt : Nat
  audit : Bool
  out : List Byte
deriving DecidableEq, Repr

/-- The echo exchange and the domain of a reference port (R79 to R91, R97). θ and mpd in 2^-16 ns. `asym` is the cable asymmetry
that the running interval uses (R83), `closeAt` the cycle at which it may close. -/
structure Echo where
  seq : Nat
  reqAt : Nat
  out : List (Nat × Nat)
  got : List (Option Int × Int)
  refMpd : Int
  gateOff : Bool
  validOnce : Bool
  invalidRun : Nat
  valid : Bool
  kept : Nat
  theta : Int
  mpd : Int
  thetas : List Int
  bias : Int
  candSince : Option Nat
  qlClass : Nat
  qlSsm : Nat
  qlLock : Nat
  qlAt : Nat
  qlStale : Bool
  asym : Int
  closeAt : Nat
  txlat : Nat
  rxlat : Nat
deriving DecidableEq, Repr

/-- A spine port. `downAt` is when it entered DOWN, `rejoin` the REJOIN_GEN latched at LOST (R71, R72); `latDone` says that its
latencies have been measured since it entered TRAIN, `latFail` that the measurement failed (R82). -/
structure Port where
  st : LinkState
  tx : PortTx
  rx : PortRx
  sh : PortSheets
  echo : Echo
  downAt : Nat
  rejoin : Nat
  latDone : Bool
  latFail : Bool
  pathOut : Bool
  mqMax : List Nat
deriving DecidableEq, Repr

/-! ### Time transfer (R76 to R98) and the root servo's shared part -/

/-- Lock states, coded in this order in IDLE marks (R51). -/
inductive LockState where
  | free
  | acquire
  | coarse
  | locked
  | overcast
deriving DecidableEq, Repr

/-- The time of a node: HT as a count of 2^-48 ns, the frequency word in 2^-48 ns per ns, and the lock state (R78, R86 to
R93, R100). `lockedAt` is when it last became LOCKED (R323). -/
structure Clock where
  ht : Nat
  fw48 : Int
  iTerm : Int
  fwHist : List Int
  fwAvg : Int
  lock : LockState
  htValid : Bool
  seeded : Bool
  seedAt : Nat
  sel : Nat
  manNow : Bool
  hold : Bool
  cuRun : Nat
  lastTheta : Option Int
  inWin : Nat
  outWin : Nat
  overStep : Nat
  backIn : Nat
  backStep : Nat
  noFit : Nat
  lockedAt : Nat
deriving DecidableEq, Repr

/-! ### Registers (R334 to R355) -/

/-- A register file: key = instance * 2^21 + window offset; values in effect and staged values. -/
structure RegFile where
  eff : NMap Word
  stg : NMap Word
deriving DecidableEq, Repr

/-- The verdict of an apply's checks (R353). -/
structure Refusal353 where
  code : Nat
  group : Nat
  res : Nat
  idx : Nat
deriving DecidableEq, Repr

/-- An apply step that runs: its mask, whether a record started it, its verdict, and what it will commit. -/
structure ApplyRun where
  mask : Nat
  src : Nat
  verdict : Option Refusal353
  commits : List (Nat × Word)
  endAt : Nat
deriving DecidableEq, Repr

/-- An open guarded pair of a block: the address opened, its value, and when (R345). -/
structure GuardOpen where
  off : Nat
  idx : Nat
  w : Word
  openedAt : Nat
deriving DecidableEq, Repr

/-- The register machinery of a node. -/
structure RegCtl where
  file : RegFile
  run : Option ApplyRun
  queued : Option Nat
  due : List Nat
  heldWrites : List (Nat × Word)
  seq : Nat
  guards : NMap (Option GuardOpen)
  guardDone : List Nat
  crcBad : NMap Nat
deriving DecidableEq, Repr

/-! ### Time outputs, converters and software measurements (R119 to R141) -/

/-- A time output: the next programmed edge, the one applied, its state bits and its measured delay (R119 to R125). -/
structure TimeOut where
  next : Option Nat
  edge : Nat
  late : Bool
  done : Bool
  level : Bool
  cal : Nat
deriving DecidableEq, Repr

/-- A recorded edge of a measurement: its stamp (2^-16 ns), whether it merged, whether its calibration was bad. -/
structure Stamp where
  time : Nat
  merged : Bool
  bad : Bool
deriving DecidableEq, Repr

/-- A time-to-digital converter (R126 to R135). `lin` in 2^-16 taps, empty until the first table is complete; `reg` holds the
raw stamps of the gate that runs, in time-clock periods as numerator and denominator; `lastEdge` the previous edge of the
measurement that is open (2^-16 ns); `hits` how often each tap was hit in the table that builds up, `calAt` when the last
calibration ended, `closedAt` when the last measurement closed and `edgeAt` when the last edge came, in cycles. -/
structure Conv where
  d1 : Nat
  d2 : Nat
  calGood : Bool
  badRun : Nat
  lin : List Int
  linValid : Bool
  inlRaw : Nat
  inlCorr : Nat
  shots : Nat
  linAt : Nat
  linStale : Bool
  lastEdge : Option Nat
  reg : List (Int × Nat)
  hits : NMap Nat
  calAt : Nat
  closedAt : Option Nat
  edgeAt : Option Nat
deriving DecidableEq, Repr

/-- Measurement states (R141). -/
inductive MeasState where
  | idle
  | armed
  | running
  | done
  | refused
deriving DecidableEq, Repr

/-- The software interval and frequency measurements (R139, R140). `ctrl`, `window`, `start` are the configuration armed. -/
structure SwMeas where
  st : MeasState
  ctrl : Word
  window : Nat
  start : Nat
  edges : List Stamp
  openAt : Nat
  seq : Nat
  calBad : Bool
  fq : MeasState
  fqCtrl : Word
  fqFrom : Nat
  fqFreq : Int
  fqN : Nat
  fqSeq : Nat
  fqInvalid : Bool
deriving DecidableEq, Repr

/-! ### Root references (R99 to R118) -/

/-- A reference candidate of a timing root (R101 to R108). Times are cycle counts of the block, θ and bias in 2^-16 ns. -/
structure Candidate where
  ppsOk : Bool
  ppsRun : Nat
  ppsMiss : Nat
  ppsLast : Option Nat
  ppsAcc : Option Nat
  ppsStamp : Option Nat
  tenOk : Bool
  tenSince : Option Nat
  tenMiss : Nat
  freqOk : Bool
  freqSince : Option Nat
  annAt : Option Nat
  annLost : Bool
  syncAt : Option Nat
  syncLost : Bool
  rxClass : Nat
  offsets : List Int
  prevMean : Option Int
  esmcAt : Option Nat
  rxSsm : Nat
  extQl : Bool
  valid : Bool
  theta : Int
  thetas : List Int
  fref : Int
  seq : Nat
  bias : Int
  qual : Bool
  qualAt : Nat
  atOnce : Bool
deriving DecidableEq, Repr

/-- The configuration of a PTP slot or transmitter, as PTP_CONFIG gave it (R115). -/
structure PtpCfg where
  on : Bool
  transport : Nat
  eth : Nat
  domain : Nat
  raw : List Byte
deriving DecidableEq, Repr

/-- A time transmitter that a PTP slot hears (R115): its port identity, the data set of its last Announce in the order in which the
best master clock algorithm compares it, its currentUtcOffset, and when its last two Announces came. -/
structure PtpForeign where
  src : Nat
  data : List Nat
  utc : Int
  last : Nat
  before : Option Nat
deriving DecidableEq, Repr

/-- A PTP slot or transmitter at work (R115, R116). `parent` is the selected time transmitter and `utc` its currentUtcOffset; `sync`
a two-step Sync that awaits its Follow_Up (sequence number, receive stamp, correction); `req` the Delay_Req that awaits its
Delay_Resp (sequence number, transmit stamp); `down` the last t2 - t1, `mpd` the mean path delay; `ask` the Delay_Req that a
transmitter has to answer (identity, sequence number, receive stamp); `seqs` the next sequence numbers by message type; `frame` the
PTP message last sent with its pad octets, `noSum` whether its UDP checksum was 0. Times in 2^-16 ns. -/
structure PtpSlot where
  foreign : List PtpForeign
  parent : Option Nat
  utc : Int
  sync : Option (Nat × Nat × Int)
  req : Option (Nat × Nat)
  down : Option Int
  mpd : Option Int
  ask : Option (Nat × Nat × Nat)
  seqs : NMap Nat
  frame : List Byte
  noSum : Bool
deriving DecidableEq, Repr

/-- A timing root's reference state. `swVal` is the software pair in effect before its clamp (R118), `qlMs` the millisecond of hall
time in which it last sent a QL mark (R95), `roleDue` the role it takes (true) or gives back (false) at the next column boundary
(R114), `ethLat` the measured transmit and receive latencies of ETH0 and ETH1 in ps (R117). -/
structure Root where
  cands : List Candidate
  sel : Option Nat
  i48 : Int
  te : Nat
  inWin : Nat
  outWin : Nat
  acqAt : Nat
  acting : Bool
  ageValid : Bool
  ageSpent : Nat
  ageHist : List (Nat × Int)
  swAt : Nat
  swLast : Nat
  swWait : Option Int
  swHist : List Int
  swExpired : Bool
  onCross : Bool
  overAt : Nat
  ocxoOfs : Int
  lastQl : Option (Nat × Nat × Nat)
  ethUp : List Bool
  ptp : List PtpCfg
  ptpTx : List (Nat × Nat)
  esmcTx : List Nat
  swVal : Int
  qlMs : Nat
  roleDue : Option Bool
  ethLat : List (Nat × Nat)
  ptpSlots : List PtpSlot
deriving DecidableEq, Repr

/-! ### DMA channels (R359 to R373) -/

/-- Channel states (R373). -/
inductive ChanState where
  | idle
  | active
  | halted
  | draining
deriving DecidableEq, Repr

/-- The chain transfer that runs on a channel (R360 to R368). `src` and `dst` are what is left of both sides as space (0 bus, 1
local), address and length; `data` the bytes read and swapped but not yet issued, `part` those short of a swap unit; `rdOpen`
and `wrOpen` the bursts issued and not complete, `rdTimes` when those reads were issued; `blocks` the bytes still in each buffer
block it holds; `flush` 0 where nothing is to be flushed, 1 for FLUSH, 2 while the flush read is outstanding. -/
structure Transfer where
  src : List (Nat × Nat × Nat)
  dst : List (Nat × Nat × Nat)
  swap : Nat
  evt : Bool
  part : List Byte
  data : List Byte
  rdOpen : List (Nat × Nat × Nat)
  wrOpen : List (Nat × Nat × List Byte)
  blocks : List (Nat × Bool)
  rdTimes : List Nat
  flush : Nat
deriving DecidableEq, Repr

/-- A DMA channel: `rdAt` and `wrAt` are one more than the start of the last burst to the bus on each engine, 0 for none; `left`
and `leftWr` count the read and write bursts that a draining or halted channel still lets finish. -/
structure Chan where
  st : ChanState
  cause : Nat
  dir : Nat
  err : Nat
  cur : Option Transfer
  left : Nat
  leftWr : Nat
  rdAt : Nat
  wrAt : Nat
deriving DecidableEq, Repr

/-- The DMA engine of a node: channels, byte counts, lent blocks held, and the channel each engine served last. -/
structure Dma where
  chans : NMap Chan
  rdBytes : Nat
  wrBytes : Nat
  lent : Nat
  turn : Nat
  wrTurn : Nat
deriving DecidableEq, Repr

/-- The in-service tests' results of a lane (R327, R333): `at_` when a sweep last completed, `stale` its STALE. -/
structure Eye where
  v : Nat
  h : Nat
  swept : Bool
  at_ : Nat
  stale : Bool
deriving DecidableEq, Repr

/-- The ROC registers of a part: copies of its temperature and supply monitors, taken at the last slow-clock edge (R8,
R347). -/
structure Roc where
  temp : Word
  vmon : Word
deriving DecidableEq, Repr

/-- What a DX-T and a DX-S48 have in common. `raised` holds the last time each (cause, port) was originated (R286). -/
structure Node where
  clk : Clock
  regs : RegCtl
  ports : NMap Port
  inbox : List RxMark
  rxSheets : List RxSheet
  outs : NMap TimeOut
  convs : NMap Conv
  dma : Dma
  eyes : NMap Eye
  raised : List (Nat × Nat × Nat)
  forwarded : List (Nat × Nat × Nat)
  roc : Roc
deriving DecidableEq, Repr

/-! ### The step context of a die (R17, R41) -/

/-- Step states (R41). -/
inductive StepState where
  | unbound
  | idle
  | armed
  | running
  | ended
  | doneSent
deriving DecidableEq, Repr

/-- A program record that a DX-T holds for a later folio (R229). -/
structure HeldRec where
  rtype : Nat
  rsub : Nat
  folio : Nat
  a32 : Nat
  b64 : Nat
deriving DecidableEq, Repr

/-- The one step context of a DX-T. `next` is the SN of the next folio to launch, `go` the armed or last launch time, `list`
the SN of the GO whose commit list is awaited next, `opp` the held OPPOINT (folio, index), `holdSeen` and `endptSeen` whether
the hold of the current DONE has been counted, `reported` whether the folio's report has been queued, `recs` the records held,
`applyBegun` whether the APPLY steps of the next folio have begun, `ran` whether a folio has completed since binding,
`refused` whether the GO of the next folio has been refused, `doneAt` the hall time at which the last condition on the running
folio's DONE became true (R22), and `vernier` the launch tree's common vernier at the last launch, in 4 ps steps (R164). -/
structure StepCtx where
  st : StepState
  job : Nat
  next : Nat
  go : Nat
  withheld : Bool
  list : Nat
  opp : Option (Nat × Nat)
  holdSeen : Bool
  endptSeen : Bool
  reported : Bool
  recs : List HeldRec
  applyBegun : Bool
  ran : Bool
  refused : Bool
  doneAt : Option Nat
  vernier : Nat
deriving DecidableEq, Repr

/-! ### Die clocking (R142 to R166) -/

/-- A wait of a region (R175): the object, the slot, the cycle it was written in, whether it holds the region. -/
structure Wait where
  obj : Nat
  slot : Nat
  since : Nat
  held : Bool
deriving DecidableEq, Repr

/-- A physical clock region. `cyc` counts the logical cycles begun in the folio, `held` the periods held before the next
edge, `squall` the stretched periods of the squall that runs; `wait` the waits not yet released and `outcome` the outcome code
last presented to the region; the margin fields are those of R165, one entry per monitor: `margins` is empty until the first
measurement, `critMon` says which monitors keep the region critical. -/
structure Region where
  cyc : Nat
  started : Bool
  ended : Bool
  held : Nat
  squall : Nat
  waits : List Wait
  outcome : Nat
  margins : List Nat
  low : Nat
  critRun : List Nat
  warn : Bool
  critMon : List Bool
deriving DecidableEq, Repr

/-- A crossing (R148 to R157): the slots in its FIFO, oldest first, each with the word it holds if it holds one; the last word
released; its largest occupancy since the launch; its lowest slack; its last λmax and whether it failed calibration. -/
structure Crossing where
  fifo : List (Nat × Option Nat)
  out : Option Nat
  occMax : Nat
  slack : Option Int
  lambda : Nat
  fail : Bool
deriving DecidableEq, Repr

/-- Bring-up states of a DX-T (R324), in the order of their codes. -/
inductive Bringup where
  | reset
  | colophon
  | waitLock
  | ltCal
  | xcal
  | ready
  | failed
deriving DecidableEq, Repr

/-- The die-clocking block. `opp` and `seam` are in effect; `target` is the point the oscillators are set to, with the seam their
clocks follow; `relockFrom` is when a retarget began that is not yet complete; `vreq` the voltage request that awaits its
acknowledgement: its code, its time, whether it is a higher one; `vreqLate` whether VREQ_TIMEOUT was raised for it; `retargetDue`
whether a binding's retarget waits for it; `vcode` the code last requested; `desc` the step descriptor fetched for the next folio;
`ends` the end cycles of the folio armed or running; `atLaunch` the applied values that wait for the launch of their folio (R161,
R342); `heldFaults` the causes to raise when a port reaches UP. -/
structure DieClk where
  bring : Bringup
  colBad : Bool
  geom : Nat
  grade : Nat
  disabled : Nat
  opp : Nat
  seam : Nat
  target : Nat
  targetSeam : Nat
  relockFrom : Option Nat
  vreq : Option (Nat × Nat × Bool)
  vreqLate : Bool
  retargetDue : Bool
  vcode : Nat
  desc : Option (List Byte)
  ends : Nat × Nat
  descCount : Nat
  regions : NMap Region
  xings : NMap Crossing
  ltDone : Bool
  ltFail : Bool
  xcalFail : Bool
  atLaunch : List (Nat × Word)
  heldFaults : List Nat
deriving DecidableEq, Repr

/-! ### Sync objects and fold bindings (R173 to R178, R207, R208) -/

/-- A slot of a sync object. -/
structure SyncSlot where
  count : Nat
  used : Bool
  sent : Bool
  done : Bool
  outcome : Nat
  stamp : Nat
deriving DecidableEq, Repr

/-- A sync object's two slots; a DMA_EVENT counts in slot 0. -/
structure SyncObj where
  s0 : SyncSlot
  s1 : SyncSlot
deriving DecidableEq, Repr

/-- A slot of a fold binding: whether its contribution is being read, has been read and sent; the result offsets received,
their bytes, and whether every one was written and acknowledged; whether the COMPLETE has come. -/
structure BindSlot where
  reading : Bool
  sent : Bool
  got : List Nat
  bytes : Nat
  acked : Bool
  complete : Bool
deriving DecidableEq, Repr

/-- A fold binding's slots. -/
structure Bind where
  s0 : BindSlot
  s1 : BindSlot
deriving DecidableEq, Repr


/-! ### The topology table (R320, R321) -/

/-- A port entry of a node record. -/
structure PortEntry where
  role : Nat
  quorum : Bool
  nbr : Nat
  kind : Nat
  nport : Nat
  asym : Nat
deriving DecidableEq, Repr

/-- A node record: the 64-byte flash record's content, and 48 port entries. -/
structure NodeRec where
  num : Nat
  role : Nat
  tree : Nat
  tier : Nat
  roles : List Nat
  refs : Nat
  ports : List PortEntry
deriving DecidableEq, Repr

/-- A die record. -/
structure DieRec where
  pos : Nat
  idx : Nat
  job : Nat
  bound : Bool
  buddy : Nat
deriving DecidableEq, Repr

/-- A topology table, or the part of it in a node slice. -/
structure Topo where
  crc : Nat
  epoch0 : Nat
  nodes : List NodeRec
  dies : List DieRec
deriving DecidableEq, Repr

/-! ### Gatherings (R167 to R187) -/

/-- A slot's instance. `recv` and `late` count tree A's arrivals at a root, `recvB` and `lateB` tree B's; `sent` the arrivals put into
marks upward or recorded; `held` those not yet sent; `waiting` TIMED arrivals of a folio whose GO has not passed; `outcome` 0 until
decided; `leafDue` the ports whose leaf is awaited after an ARRIVE, with the time and whether reported; `due` the outcome that a
root's totals have met and that is not decided yet. -/
structure GInst where
  live : Bool
  sn : Nat
  recv : Nat
  recvB : Nat
  late : Nat
  lateB : Nat
  sent : Nat
  held : Nat
  waiting : List (Nat × Nat)
  stamp : Nat
  stampB : Nat
  fwd : Bool
  outcome : Nat
  dstamp : Nat
  leafDue : List (Nat × Nat × Bool)
  due : Nat
deriving DecidableEq, Repr

/-- The two instance slots of a gathering, or of a job's DONE. -/
structure GPair where
  s0 : GInst
  s1 : GInst
deriving DecidableEq, Repr

/-- A gathering as defined: the 32 bytes of R168, its members' and destinations' logical indices in ascending order, the
fold blocks reserved for it, and its plan at the node (R204): the ranks of the members beneath each DOWN port that has any, and the
DOWN ports that carry destination dies. -/
structure GDef where
  bytes : List Byte
  members : List Nat
  dests : List Nat
  blocks : Nat
  plan : List (Nat × List Nat)
  ports : List Nat
deriving DecidableEq, Repr

/-! ### Folds (R191 to R214) -/

/-- A message of an instance: the ranks it covers, and its data while it is held in the fold buffer; `wait` the sheets of a relayed
one that have not been queued upward. -/
structure FoldMsg where
  gid : Nat
  sn : Nat
  lo : Nat
  hi : Nat
  data : List Byte
  wait : List Sheet
deriving DecidableEq, Repr

/-- A formed node in work: the tasks it takes, those done, the sheets queued upward, and whether a root has finished it. -/
structure Formed where
  gid : Nat
  sn : Nat
  lo : Nat
  hi : Nat
  tasks : Nat
  done : List Nat
  sheets : Nat
  ready : Bool
deriving DecidableEq, Repr

/-- A task: the node it belongs to and its number. -/
structure FoldTask where
  gid : Nat
  sn : Nat
  lo : Nat
  hi : Nat
  k : Nat
deriving DecidableEq, Repr

/-- A fold engine: the task that runs, its queue, whether a failed known-answer test keeps it out of service, whether a test that was
asked for runs (`kat`), and whether an apply of ENG_EN since the failure lets it return (`ret`). -/
structure Engine where
  run : Option FoldTask
  queue : List FoldTask
  katFail : Bool
  katAt : Nat
  kat : Bool
  stale : Bool
  ret : Bool
deriving DecidableEq, Repr

/-- The fold buffer and engines. `recalled` counts the lent blocks whose return is awaited, and `waiters` are the
mailboxes whose definitions wait for it (R212); `seen` the gathering, folio and
port of every fold message that has come, for R205. -/
structure FoldUnit where
  msgs : List FoldMsg
  formed : List Formed
  engines : NMap Engine
  turn : Nat
  recalled : Nat
  waiters : List Nat
  openMax : Nat
  audit : Bool
  laneops : Nat
  seen : List (Nat × Nat × Nat)
deriving DecidableEq, Repr

/-! ### Folio programs and decisions (R217 to R236) -/

/-- Job states (R40), in the order of their codes. -/
inductive JobState where
  | unloaded
  | loaded
  | running
  | deciding
  | paused
  | halted
deriving DecidableEq, Repr

/-- What a context waits for: nothing, WAITT's hall time in ns, WAITG's instance, CUTOFF's DONE set, its ending
instruction, or an entry of a log that is replayed. -/
inductive CtxWait where
  | none
  | time (n : Nat)
  | gath (gid sn : Nat)
  | cutoff
  | ending
deriving DecidableEq, Repr

/-- A session entry of a commit list (R256). -/
structure SessEntry where
  handle : Nat
  act : Nat
  arg : Nat
  pgroup : Nat
  turn : Nat
deriving DecidableEq, Repr

/-- What ends a segment. -/
inductive Ending where
  | commit
  | pause
  | halt
deriving DecidableEq, Repr

/-- A folio decision of R232 on its way. `folio` is -1 in the prologue. `dseq` is none until it has been handed over; `logs` and
`events` are written when it is acknowledged; `mask` is the DXS_APPLY mask of an APPLYAT that names the folio launched by it, with the
configuration and verdict checked; `guarded` tells that the emission guard of R30 moved its launch time, `need` the bytes of the event
ring reserved for it. -/
structure Decision where
  ending : Ending
  folio : Int
  tgo : Nat
  sched : Nat
  late : Bool
  guarded : Bool
  list : List Byte
  opp : Option (Nat × Nat)
  logs : List (List Byte)
  events : List (List Byte)
  mask : Nat
  checked : Option (List (Nat × Word))
  verdict : Option Refusal353
  dseq : Option Nat
  sentAt : Nat
  logWait : Bool
  evWait : Bool
  need : Nat
deriving DecidableEq, Repr

/-- A deferred effect of a session command (R247): 1 PARK, 2 CLOSE, 3 TENANT_SET. -/
structure Pend where
  kind : Nat
  stamp : Nat
  handle : Nat
  ticket : Nat
  tenant : Nat
  flags : Nat
  add : Int
  refill : Nat
  cap : Nat
deriving DecidableEq, Repr

/-- A checkpoint slot: the epoch whose snapshot it holds, whether it fits, its folio and copy gathering. -/
structure CkSlot where
  epoch : Nat
  fits : Bool
  folio : Nat
  gid : Nat
  sealed : Bool
deriving DecidableEq, Repr

/-- Restart states (R306), in the order of their codes. -/
inductive RestartState where
  | none
  | stopped
  | restoring
  | ready
  | catchup
  | lost
  | fault
deriving DecidableEq, Repr

/-- A job's restart: the state, the cause, whether the newest snapshot was short and whether the target is J_STORED; the
expelled indices, those that have still to be restored, the exposed ones; the last folio decided before the stop. -/
structure Restart where
  st : RestartState
  cause : Nat
  short : Bool
  fallback : Bool
  expelled : List Nat
  left : List Nat
  exposed : List Nat
  last : Nat
deriving DecidableEq, Repr

/-- A loaded program (R218): its place in program memory, limits and header fields. -/
structure JobProg where
  base : Nat
  len : Nat
  ipf : Nat
  sess : Bool
  record : Bool
  replay : Bool
  seed : Nat
  progCrc : Nat
deriving DecidableEq, Repr

/-- A context of the sequencer (R217). `sn` is the context SN, `gone` whether a GO has been emitted, `launched` the last folio
whose launch time has passed. `seg` counts the segment's instructions and `ran` holds the sequence opcodes issued in it. `live`
is set from REPLAY_END to the segment's end; `haltCode` is the code of HALT, `notes` the note log, as words and tags
(log entry 17, DESIGN CHOICE). -/
structure JobCtx where
  pc : Nat
  f : Bool
  words : List Nat
  sn : Nat
  gone : Bool
  launched : Option Nat
  prologue : Bool
  seg : Nat
  segMax : Nat
  ran : List Nat
  wait : CtxWait
  pstat : Nat
  deferred : Nat
  live : Bool
  haltCode : Nat
  notes : List (Nat × Nat)
deriving DecidableEq, Repr

/-- The folio timing of a job. `start` is the launch time of R35 or R36; `cutB` says that tree B's DONE set completed first;
`period` and `lead` are those in effect at CUTOFF; `tgoPrev` is the launch time before the last
one; `applyAt` is the mask and the checked configuration that the last GO's launch commits (R228, R343); `spans` the time from launch
to readiness of the last folios run at the operating point in effect, newest first (R329). -/
structure JobTime where
  tgo : Nat
  cut : Nat
  sealAt : Nat
  start : Nat
  lastLate : Bool
  cutB : Bool
  period : Nat
  lead : Nat
  tgoPrev : Nat
  applyAt : Option (Nat × List (Nat × Word))
  spans : List Nat
deriving DecidableEq, Repr

/-- What a job's commit lists carry: the operating point held, in effect, and the folio the last emitted change named, the program
records held, the seed streams, the checkpoint epoch, the session entries of the segment, and the reports. `restored`: the records are
those of an image, and none has been emitted since (R279); `early` holds the records that the list of a resume carried ahead of their
turn. -/
structure JobList where
  opp : Option (Nat × Nat)
  oppNow : Nat
  oppFor : Option Nat
  recs : List HeldRec
  streams : Nat
  salts : List Nat
  epoch : Nat
  entries : List SessEntry
  formed : Bool
  evicts : List Nat
  kept : List (Nat × Nat)
  repA : Option (Nat × List Byte)
  repB : Option (Nat × List Byte)
  restored : Bool
  early : List HeldRec
deriving DecidableEq, Repr

/-- The session service's side of a job: the admission queue (slot and stamp), the pending set, the log entries and events of
the segment, the slots and tenants changed since they last went into a decision, the log bytes and entries produced since job load,
`logEnd`, the log bytes produced before the stop while a catch-up replays them (R302), `ahead`, gathering entries that the reader
has passed and whose folio has not launched (R236), and `logPos` and `logPosCnt`, the log bytes and entries through the last folio
decision (R276). -/
structure JobSess where
  queue : List (Nat × Nat)
  pend : List Pend
  logs : List (List Byte)
  events : List (List Byte)
  touched : List Nat
  touchedT : List Nat
  logBytes : Nat
  logCnt : Nat
  logEnd : Nat
  ahead : List (List Byte)
  logPos : Nat
  logPosCnt : Nat
deriving DecidableEq, Repr

/-- A job in a timing root: the parts above, the decision on its way, the folio-timing values staged for a CUTOFF, the binder's
copy of the operating-point table, the restart and the checkpoint slots. `hold`: after HANDBACK the context still runs at root B, up to
its next ending instruction (R234). -/
structure Job extends JobProg, JobCtx, JobTime, JobList, JobSess where
  st : JobState
  dec : Option Decision
  ftStaged : List (Nat × Word)
  table : List Byte
  rst : Restart
  slots : List CkSlot
  hold : Bool
deriving DecidableEq, Repr

/-- A gathering decision that awaits its acknowledgement or its log space: gathering, folio, outcome, stamp, number. -/
structure GDecision where
  gid : Nat
  sn : Nat
  outcome : Nat
  stamp : Nat
  dseq : Option Nat
  sentAt : Nat
deriving DecidableEq, Repr

/-! ### Sessions (R239 to R264) -/

/-- A slot of the resident table. `gen` is the slot's generation; `st` 0 FREE to 4 THROTTLED; hall times in 2^-16 ns. -/
structure Session where
  gen : Nat
  st : Nat
  tenant : Nat
  job : Nat
  pgroup : Nat
  maxtok : Nat
  cancel : Bool
  park : Bool
  close : Bool
  fetch : Bool
  deadline : Option Nat
  turnMax : Nat
  turnOut : Nat
  charged : Nat
  rsv : Nat
  turn : Nat
  ttl : Nat
  cstamp : Nat
deriving DecidableEq, Repr

/-- A tenant. -/
structure Tenant where
  valid : Bool
  frozen : Bool
  bal : Nat
  cap : Nat
  refill : Nat
  rsv : Nat
  live : Nat
  job : Nat
  removing : Bool
deriving DecidableEq, Repr

/-- An index of the parked table: generation, and 0 free, 1 reserved, 2 parked; the expiry, tenant and job of the record, and the rounds
that the timing wheel has still to make for it (R263). -/
structure Ticket where
  gen : Nat
  st : Nat
  expiry : Nat
  tenant : Nat
  job : Nat
  rounds : Nat
deriving DecidableEq, Repr

/-- A KILL that waits in the binder: handle, turn, stamp. -/
structure QKill where
  handle : Nat
  turn : Nat
  stamp : Nat
deriving DecidableEq, Repr

/-- The session service. `audit` holds the jobs whose last audit failed (R258); `evq` the events that no decision carries and that wait
for room in the event ring. -/
structure SessUnit where
  slots : NMap Session
  tenants : NMap Tenant
  tickets : NMap Ticket
  kills : List QKill
  killAt : Nat
  relayed : List QKill
  evictMs : Nat
  audit : List Nat
  evq : List (List Byte)
deriving DecidableEq, Repr

/-! ### Faults and the quorum (R284 to R301) -/

/-- A part: a DX-S48 by node number, or a DX-T by logical index. -/
structure Part where
  isNode : Bool
  num : Nat
deriving DecidableEq, Repr

/-- Evidence that stands: a cause, the part it speaks of (none for a lost link), the link's end (part, port) and the stamp. -/
structure Evidence where
  cause : Nat
  about : Option Part
  end1 : Part
  port : Nat
  stamp : Nat
deriving DecidableEq, Repr

/-- A vote that stands: the voter 0 A, 1 B, 2 C, the subject, the cause and when it came. -/
structure Vote where
  voter : Nat
  subject : Part
  cause : Nat
  stamp : Nat
  since : Nat
deriving DecidableEq, Repr

/-- A verdict log entry (R292): `part` is the subject, `subj` its SUBJECT field. -/
structure Verdict where
  seq : Nat
  kind : Nat
  part : Option Part
  subj : Nat
  cause : Nat
  job : Option Nat
  votes : Nat
  slot : Nat
  fence : Nat
  epoch : Nat
  stamp : Nat
deriving DecidableEq, Repr

/-- What the recorder does once an entry of its log is stored at another voter (R292, log entry 124, DEDUCED). -/
inductive VAct where
  /-- FAULTY: what the part's loss costs (R295). -/
  | fault (part : Part) (cause : Nat)
  /-- JOB_FAULT: the job halts. -/
  | jobFault (job cause : Nat)
  /-- SEAL: the epoch of a checkpoint slot is sealed (R298). -/
  | seal (job slot epoch : Nat)
  /-- REINSTATE: the ports that face the part are enabled again (R304). -/
  | reinstate (part : Part)
  /-- JOB_LOST: the job halts, with no epoch left (R300, R301). -/
  | jobLost (job : Nat)
  /-- FALLBACK: the job's target is the epoch that J_STORED named (R301). -/
  | fallback (job target : Nat)
deriving DecidableEq, Repr

/-- The voter and recorder. `log` is newest first. `due` are verdicts decided and not yet recorded. `badRecs` are the die records
whose newest verdict is FAULTY (R300); `acts` the entries that wait to be stored at another voter, by number, with what follows
(R292); `since` the number of the newest entry at a logical index's last rebinding, so that only
later ones speak of the die that it now names. -/
structure Quorum where
  evidence : List Evidence
  votes : List Vote
  log : List Verdict
  seq : Nat
  due : List (Part × Nat)
  disputed : List Part
  fences : NMap Nat
  badRecs : List Nat
  acts : List (Nat × VAct)
  since : NMap Nat
deriving DecidableEq, Repr

/-! ### The binder (R308 to R331) -/

/-- Who waits for a REMOTE transaction. -/
inductive RemUse where
  | none
  | mailbox (mb : Nat)
  | job (cause node : Nat)
  | stage (job : Nat)
  | verdict (seq : Nat)
  | copy (mb : Nat)
deriving DecidableEq, Repr

/-- A REMOTE transaction of the origin (R315 to R318): `sentAt` none while it waits. -/
structure RemTx where
  tag : Nat
  op : Nat
  tkind : Nat
  target : Nat
  addr : Nat
  count : Nat
  words : List Word
  for_ : RemUse
  sentAt : Option Nat
  got : Option (List Word)
  mark : Option (Nat × Nat)
deriving DecidableEq, Repr

/-- A LOG record that waits for credits: LKIND, the record, and since when. -/
structure LogRec where
  kind : Nat
  bytes : List Byte
  since : Nat
deriving DecidableEq, Repr

/-- A proposal (R329): its number, job, and the 256 bytes. -/
structure Proposal where
  seq : Nat
  job : Nat
  bytes : List Byte
deriving DecidableEq, Repr

/-- The binder. `boot` 0 loading, 1 running, 2 failed. `cursor` is the next record of a TAKEN session page; `accepted` marks a
mailbox whose control command waits for what it has begun; `bring` the states of R332's P_BRING; `rem` the transactions
outstanding or waiting, `remGot` the ways back of those passed on; `seedAt` the last seed write per port; `failedDies` the targets
whose staging failed; `trend` the counters at a die's last sample; `table` the table as root A loaded it, `copy` the bytes received
of a copy that another binder sends; `samples` the DIE_TREND records that the acting root has taken, newest first. -/
structure Binder where
  boot : Nat
  slot : Nat
  slice : Bool
  topo : Option Topo
  cursor : NMap Nat
  accepted : NMap Nat
  bring : NMap Nat
  rem : List RemTx
  remTag : Nat
  remGot : List (Nat × Nat)
  logq : List LogRec
  props : List Proposal
  pseq : Nat
  seedAt : NMap Nat
  failedDies : List Nat
  trend : NMap (Nat × Nat)
  table : List Byte
  copy : List Byte
  samples : List (List Byte)
deriving DecidableEq, Repr

/-- The decision path's counters at a root: the next number, whether root A emits alone, and decisions of gatherings; `turn` is the job
that the round-robin of R217 comes to next, `issueAt` the first cycle at which an instruction may issue again. -/
structure Path where
  dseq : Nat
  solo : Bool
  gdecs : List GDecision
  ageFrom : Nat
  turn : Nat
  issueAt : Nat
deriving DecidableEq, Repr

/-- What every DX-S48 holds besides its node: instances, definitions, jobs, sessions, votes, the binder, and its host. -/
structure Hub where
  ga : NMap GPair
  dones : NMap GPair
  gdefs : NMap (Option GDef)
  fd : FoldUnit
  jobs : NMap Job
  prog : NMap Nat
  path : Path
  ss : SessUnit
  fq : Quorum
  bn : Binder
  gaAudit : Bool
  gaOver : Bool
  mbox : NMap Byte
  host : NMap Byte
deriving DecidableEq, Repr

def GInst.reset : GInst := ⟨false, 0, 0, 0, 0, 0, 0, 0, [], 0, 0, false, 0, 0, [], 0⟩
def GPair.reset : GPair := ⟨GInst.reset, GInst.reset⟩
def Engine.reset : Engine := ⟨none, [], false, 0, false, false, false⟩
def FoldUnit.reset : FoldUnit := ⟨[], [], [], 0, 0, [], 0, false, 0, []⟩
def Restart.reset : Restart := ⟨.none, 0, false, false, [], [], [], 0⟩
def CkSlot.reset : CkSlot := ⟨0, false, 0, 0, false⟩
def Job.reset : Job :=
  { base := 0, len := 0, ipf := 0, sess := false, record := false, replay := false, seed := 0, progCrc := 0,
    pc := 0, f := false, words := List.replicate 16 0, sn := 0, gone := false, launched := none, prologue := true, seg := 0,
    segMax := 0, ran := [], wait := .none, pstat := 0, deferred := 0, live := false,
    haltCode := 0, notes := [],
    tgo := 0, cut := 0, sealAt := 0, start := 0, lastLate := false, cutB := false, period := 0, lead := 2000,
    tgoPrev := 0, applyAt := none, spans := [],
    opp := none, oppNow := 0, oppFor := none, recs := [], streams := 0, salts := [0, 0, 0, 0], epoch := 0, entries := [], formed := false,
    evicts := [], kept := [], repA := none, repB := none, restored := false, early := [],
    queue := [], pend := [], logs := [], events := [], touched := [], touchedT := [], logBytes := 0, logCnt := 0, logEnd := 0, ahead := [], logPos := 0, logPosCnt := 0,
    st := .unloaded, dec := none, ftStaged := [], table := [], rst := Restart.reset,
    slots := List.replicate 4 CkSlot.reset, hold := false }
def Session.reset : Session := ⟨0, 0, 0, 0, 0, 0, false, false, false, false, none, 0, 0, 0, 0, 0, 0, 0⟩
def Tenant.reset : Tenant := ⟨false, false, 0, 0, 0, 0, 0, 0, false⟩
def Ticket.reset : Ticket := ⟨0, 0, 0, 0, 0, 0⟩
def SessUnit.reset : SessUnit := ⟨[], [], [], [], 0, [], 0, [], []⟩
def Quorum.reset : Quorum := ⟨[], [], [], 0, [], [], [], [], [], []⟩
def Binder.reset : Binder := ⟨0, 0, false, none, [], [], [], [], 0, [], [], [], 0, [], [], [], [], [], []⟩
def Path.reset : Path := ⟨0, false, [], 0, 0, 0⟩
def Hub.reset : Hub :=
  ⟨[], [], [], FoldUnit.reset, [], [], Path.reset, SessUnit.reset, Quorum.reset, Binder.reset, false, false, [], []⟩

/-! ### The parts -/

/-- The role of the DX-S48 (R2), with the root it is. -/
inductive Role where
  | tier
  | rootA
  | rootB
  | memberC
deriving DecidableEq, Repr

/-- The DX-SM module and the management controller (R377 to R386). `vin` in mV; `mgmt` whether the management supply is up; `on`
is the OPERATION state, `powered` whether the rails are up, `prst` and `perst` the levels of PRST_N and PERST_N, `hold`
MFR_DX_HOLD, `resetEnd` when the pulse of MFR_DX_RESET ends, `rdy` OCXO_RDY, `therm` the level of THERM_N and `thermAt` when it
fell, `c16` the junction in 1/16 degree; `status` the PMBus faults that stand (0 communication, 1 input, 2 temperature), `reply`
the last reply as command code and bytes, `heater` in 0.1 W. -/
structure Module where
  vin : Nat
  mgmt : Bool
  on : Bool
  powered : Bool
  prst : Bool
  perst : Bool
  hold : Bool
  resetEnd : Option Nat
  rdy : Bool
  therm : Bool
  thermAt : Nat
  c16 : Int
  status : Nat
  reply : Option (Nat × List Byte)
  heater : Nat
  modrec : List Byte
  flash : NMap Byte
deriving DecidableEq, Repr

/-- A DX-T. `reps` holds, per replica monitor, when its check last completed, whether it is stale, and
whether the last check failed (R326, R333); `kills` the KILLs taken on one port whose copy on the other port has not come: port,
handle and turn (R260). -/
structure Dxt where
  node : Node
  step : StepCtx
  die : DieClk
  sync : NMap SyncObj
  binds : NMap Bind
  syncAudit : Bool
  sram : NMap Byte
  lastCause : Nat
  ckSeen : Bool
  reps : NMap (Nat × Bool × Bool)
  kills : List (Nat × Nat × Nat)
deriving DecidableEq, Repr

/-- A DX-S48. `peerActs` says of a root A that it left reset while root B acts (R114, log entry 26, DESIGN CHOICE). -/
structure Dxs where
  node : Node
  role : Role
  nodeNo : Nat
  quorum : Option Nat
  peerActs : Bool
  qlClass : Nat
  qlSsm : Nat
  qlRxAt : Nat
  qlTxAt : Nat
  root : Root
  sw : SwMeas
  sram : NMap Byte
  hub : Hub
deriving DecidableEq, Repr

/-- The block: one DX-T, one DX-S48, and its module `sm`. `now` counts time-clock cycles, `free` numbers the free values. -/
structure Block where
  dxt : Dxt
  dxs : Dxs
  sm : Module
  now : Nat
  free : Nat
deriving DecidableEq, Repr

/-- The machine: the block and the commands that wait, first in, first out. -/
structure State where
  hall : Block
  pending : List Instr
deriving DecidableEq, Repr

/-! ### Why a step stops -/

/-- A machine fault. None of the manual's commands stops the block; the one address space with an edge a command can
pass is the boot flash. -/
inductive Fault where
  /-- Raised by MFR_DX_FLASH_WR and MFR_DX_FLASH_RD beyond the flash's 16 MiB. Safe: the model stops. -/
  | flashAddress
deriving DecidableEq, Repr

/-- A refusal. -/
inductive Refusal where
  /-- Raised by exec for a command that has no meaning yet. Safe: the model stops. -/
  | notModelled (mnemonic : String)
deriving DecidableEq, Repr

/-! ### Reset -/

def PortTx.reset : PortTx := ⟨0, [], [], [], [], [], none, none, 0, [], [], 0⟩
def PortRx.reset : PortRx := ⟨none, 0, 0, none, [], 0, 0, 0, false, 0, false, 0, 0, false, 0⟩
def PortSheets.reset : PortSheets :=
  ⟨0, [], [], none, [0, 0, 0, 0], [0, 0, 0, 0], [0, 0, 0, 0], [0, 0, 0, 0], [0, 0, 0, 0], [0, 0, 0, 0], 0, 0x20204080, 0, false, 0, 0,
    false, []⟩
def Echo.reset : Echo := ⟨0, 0, [], [], 0, true, false, 0, false, 0, 0, 0, [], 0, none, 0, 0, 0, 0, true, 0, 0, 0, 0⟩
def Port.reset : Port :=
  ⟨.off, PortTx.reset, PortRx.reset, PortSheets.reset, Echo.reset, 0, 0, false, false, false, [0, 0, 0, 0]⟩
def Clock.reset : Clock := ⟨0, 0, 0, [], 0, .free, false, false, 0, 0, false, false, 0, none, 0, 0, 0, 0, 0, 0, 0⟩
def RegCtl.reset : RegCtl := ⟨⟨[], []⟩, none, none, [], [], 0, [], [], []⟩
def TimeOut.reset : TimeOut := ⟨none, 0, false, false, false, 0⟩
def Conv.reset : Conv := ⟨0, 0, false, 0, [], false, 0, 0, 0, 0, false, none, [], [], 0, none, none⟩
def Chan.reset : Chan := ⟨.idle, 0, 0, 0, none, 0, 0, 0, 0⟩
def Dma.reset : Dma := ⟨[], 0, 0, 0, 0, 0⟩
def Eye.reset : Eye := ⟨0, 0, false, 0, false⟩
def Roc.reset : Roc := ⟨0, 0⟩
def Node.reset : Node := ⟨Clock.reset, RegCtl.reset, [], [], [], [], [], Dma.reset, [], [], [], Roc.reset⟩
def Candidate.reset : Candidate :=
  ⟨false, 0, 0, none, none, none, false, none, 0, false, none, none, false, none, false, 0, [], none, none, 0, false, false, 0, [],
    0, 0, 0, false, 0, true⟩
def PtpCfg.reset : PtpCfg := ⟨false, 0, 0, 0, []⟩
def PtpSlot.reset : PtpSlot := ⟨[], none, 0, none, none, none, none, none, [], [], false⟩
def Root.reset : Root :=
  ⟨List.replicate 8 Candidate.reset, none, 0, 0, 0, 0, 0, false, false, 0, [], 0, 0, none, [], false, false, 0, 0, none,
    [false, false], List.replicate 4 PtpCfg.reset, [], [], 0, 0, none, [(0, 0), (0, 0)], List.replicate 4 PtpSlot.reset⟩
def SwMeas.reset : SwMeas := ⟨.idle, 0, 0, 0, [], 0, 0, false, .idle, 0, 0, 0, 0, 0, false⟩
def StepCtx.reset : StepCtx := ⟨.unbound, 0, 0, 0, false, 0, none, false, false, false, [], false, false, false, none, 0⟩
def Region.reset : Region := ⟨0, false, false, 0, 0, [], 0, [], 0, [0, 0, 0, 0], false, []⟩
def Crossing.reset : Crossing := ⟨[], none, 0, none, 0, false⟩
def DieClk.reset : DieClk :=
  ⟨.colophon, false, 0, 0, 0, 0, 0, 0, 0, none, none, false, false, 0, none, (0, 0), 16, [], [], false, false, false, [], []⟩
def SyncSlot.reset : SyncSlot := ⟨0, false, false, false, 0, 0⟩
def SyncObj.reset : SyncObj := ⟨SyncSlot.reset, SyncSlot.reset⟩
def BindSlot.reset : BindSlot := ⟨false, false, [], 0, false, false⟩
def Bind.reset : Bind := ⟨BindSlot.reset, BindSlot.reset⟩
/-- A port whose reset has been released with ENABLE = 1: it trains (R69, R75). -/
def Port.training : Port := { Port.reset with st := .train }
def Dxt.reset : Dxt := ⟨Node.reset, StepCtx.reset, DieClk.reset, [], [], false, [], 0, false, [], []⟩
def Dxs.reset : Dxs := ⟨Node.reset, .tier, 0, none, false, 0, 0, 0, 0, Root.reset, SwMeas.reset, [], Hub.reset⟩
def Module.reset : Module :=
  ⟨54000, true, true, true, true, true, false, none, false, true, 0, 400, 0, none, 80, List.replicate 128 0, []⟩
/-- The DX-T right after its reset is released: both its ports train, since ENABLE resets to 1 (R75). -/
def Dxt.released : Dxt := { Dxt.reset with node := { Node.reset with ports := [(0, Port.training), (1, Port.training)] } }
def Block.reset : Block := ⟨Dxt.released, Dxs.reset, Module.reset, 0, 0⟩

/-- The machine right after reset (the reset values of the register maps are the defaults of the register files). -/
def State.reset : State := ⟨Block.reset, []⟩

end Sys2Proof.Machine
end

