-- ==== Sys2Proof/Machine/Regs.lean ====
section
/-! DEFINITION. The register file: address decoding, reset values, values in effect and staged, hardware writes. -/

namespace Sys2Proof.Machine

/-! ### Node access -/

def Block.node (b : Block) : Side → Node
  | .dxt => b.dxt.node
  | .dxs => b.dxs.node

def Block.updNode (b : Block) (sd : Side) (f : Node → Node) : Block :=
  match sd with
  | .dxt => { b with dxt := { b.dxt with node := f b.dxt.node } }
  | .dxs => { b with dxs := { b.dxs with node := f b.dxs.node } }

/-! ### Address decoding (R335) -/

/-- The rows of the block at a page, less the DMA channels' rows. -/
def blockRows : Side → Nat → List RegRow
  | .dxt, 0x0 => regRowsDxtCM
  | .dxt, 0x1 => regRowsDxtSTEP
  | .dxt, 0x2 => regRowsDxtSP
  | .dxt, 0x3 => regRowsDxtTT
  | .dxt, 0x4 => regRowsDxtTO
  | .dxt, 0x5 => regRowsDxtTM
  | .dxt, 0x6 => regRowsDxtDC
  | .dxt, 0x7 => regRowsDxtSY
  | .dxt, 0x8 => regRowsDxtFD
  | .dxt, 0x9 => regRowsDxtFP
  | .dxt, 0xA => regRowsDxtSS
  | .dxt, 0xB => regRowsDxtFQ
  | .dxt, 0xC => regRowsDxtIS
  | .dxt, 0xD => regRowsDxtDM
  | .dxs, 0x0 => regRowsDxsCM
  | .dxs, 0x1 => regRowsDxsFT
  | .dxs, 0x2 => regRowsDxsSP
  | .dxs, 0x3 => regRowsDxsTT
  | .dxs, 0x4 => regRowsDxsRF
  | .dxs, 0x5 => regRowsDxsTO
  | .dxs, 0x6 => regRowsDxsTM
  | .dxs, 0x7 => regRowsDxsGA
  | .dxs, 0x8 => regRowsDxsFD
  | .dxs, 0x9 => regRowsDxsFS
  | .dxs, 0xA => regRowsDxsSS
  | .dxs, 0xB => regRowsDxsFQ
  | .dxs, 0xC => regRowsDxsBN
  | .dxs, 0xD => regRowsDxsIS
  | .dxs, 0xE => regRowsDxsDM
  | _, _ => []

def dmPage : Side → Nat
  | .dxt => 0xD
  | .dxs => 0xE

def nChans : Side → Nat
  | .dxt => 8
  | .dxs => 16

/-- The window offset of DMA channel `c`'s registers (R373). -/
def chanBase (sd : Side) (c : Nat) : Nat := dmBase sd + 0x100 + 0x30 * c

/-- The DMA channel rows at a window offset of the DMA page. -/
def chanRows (sd : Side) (off : Nat) : List RegRow :=
  let c := (off % 4096 - 0x100) / 0x30
  if 0x100 ≤ off % 4096 ∧ c < nChans sd then
    match sd with
    | .dxt => regRowsDxtChan (chanBase .dxt c)
    | .dxs => regRowsDxsChan (chanBase .dxs c)
  else []

/-- The register at a canonical window offset, if one is there. -/
def rowAt (sd : Side) (off : Nat) : Option RegRow :=
  (blockRows sd (off / 4096) ++ (if off / 4096 = dmPage sd then chanRows sd off else [])).find? fun r => r.off == off

/-- The decode size of a block (R356, R357); 0 where no block is. -/
def decodeSize : Side → Nat → Nat
  | .dxt, p => match p with
    | 0x0 => 128 | 0x1 => 64 | 0x2 => 128 | 0x3 => 256 | 0x4 => 64 | 0x5 => 256 | 0x6 => 256 | 0x7 => 128 | 0x8 => 64
    | 0x9 => 64 | 0xA => 64 | 0xB => 64 | 0xC => 64 | 0xD => 1024 | _ => 0
  | .dxs, p => match p with
    | 0x0 => 128 | 0x1 => 128 | 0x2 => 128 | 0x3 => 256 | 0x4 => 256 | 0x5 => 64 | 0x6 => 128 | 0x7 => 128 | 0x8 => 128
    | 0x9 => 128 | 0xA => 128 | 0xB => 128 | 0xC => 128 | 0xD => 64 | 0xE => 1024 | _ => 0

/-- The span of a block: 256 bytes, 1 KiB for the DMA block. -/
def spanSize (sd : Side) (p : Nat) : Nat := if p = dmPage sd then 1024 else 256

/-- The canonical offset that a window offset addresses: the span repeats within the page, and the decoded bits repeat
within the span (R335). -/
def canonical (sd : Side) (off : Nat) : Nat :=
  let p := off / 4096
  if decodeSize sd p = 0 then off else p * 4096 + off % 4096 % spanSize sd p % decodeSize sd p

def isRoot : Role → Bool
  | .rootA => true
  | .rootB => true
  | _ => false

def isTriad : Role → Bool
  | .tier => false
  | _ => true

/-- Whether a DX-S48 register exists in the node's role (R357, R189, R306, R332). -/
def present (role : Role) (off : Nat) : Bool :=
  let o := off % 4096
  match off / 4096 with
  | 0x1 => isRoot role
  | 0x4 => isRoot role
  | 0x9 => isRoot role
  | 0xA => isRoot role
  | 0x7 => isRoot role || !((0x10 ≤ o && o ≤ 0x18) || o == 0x40 || o == 0x44 || o == 0x4C || (0x5C ≤ o && o ≤ 0x68))
  | 0xB => (isTriad role || !(0x18 ≤ o && o ≤ 0x38)) &&
      (isRoot role || !((0x3C ≤ o && o ≤ 0x58) || o == 0x74 || o == 0x78))
  | 0xC => isRoot role || !(0x18 ≤ o && o ≤ 0x4C)
  | _ => true

/-- The register that a window offset reaches in a part: none is a hole. -/
def decodeReg (b : Block) (sd : Side) (off : Nat) : Option RegRow :=
  let c := canonical sd off
  match sd with
  | .dxt => rowAt .dxt c
  | .dxs => if present b.dxs.role c then rowAt .dxs c else none

/-! ### Values -/

/-- The key of a register instance: the index shown by its selector, and its window offset. -/
def regKey (idx off : Nat) : Nat := idx * 2 ^ 21 + off

/-- The reset value of P_QUAL by candidate (R124). -/
def pQualReset (idx : Nat) : Nat :=
  if idx < 4 then 0x0A42320A else if idx < 6 then 0x03E80307 else 0x00050014

/-- The reset value of a register instance. P_CFG takes its fields' reset values (log entry 7, DEDUCED). -/
def regReset (sd : Side) (key : Nat) : Word :=
  let off := key % 2 ^ 21
  let idx := key / 2 ^ 21
  match sd with
  | .dxs =>
    if off = Reg.RF_P_QUAL then w32 (pQualReset idx)
    else if off = Reg.RF_P_CFG then 0x0FF80000
    else match rowAt .dxs off with
      | some r => w32 r.reset
      | none => 0
  | .dxt =>
    if off = Reg.DC_OPP_FREQ ∧ idx = 0 then 0x800003E8
    else match rowAt .dxt off with
      | some r => w32 r.reset
      | none => 0

/-- The value in effect of a register instance. -/
def Block.reg (b : Block) (sd : Side) (off : Nat) (idx : Nat := 0) : Word :=
  nget (regReset sd) (b.node sd).regs.file.eff (regKey idx off)

/-- The staged value of a register instance. -/
def Block.staged (b : Block) (sd : Side) (off : Nat) (idx : Nat := 0) : Word :=
  nget (regReset sd) (b.node sd).regs.file.stg (regKey idx off)

def Block.updRegs (b : Block) (sd : Side) (f : RegCtl → RegCtl) : Block :=
  b.updNode sd fun n => { n with regs := f n.regs }

/-- Writes the value in effect of a key. -/
def Block.setEff (b : Block) (sd : Side) (key : Nat) (w : Word) : Block :=
  b.updRegs sd fun r => { r with file := { r.file with eff := nset (regReset sd) r.file.eff key w } }

/-- Writes the staged value of a key. -/
def Block.setStg (b : Block) (sd : Side) (key : Nat) (w : Word) : Block :=
  b.updRegs sd fun r => { r with file := { r.file with stg := nset (regReset sd) r.file.stg key w } }

/-- A write of a staged value: held while an apply step runs (R341). -/
def Block.stageWrite (b : Block) (sd : Side) (key : Nat) (w : Word) : Block :=
  if (b.node sd).regs.run.isSome then b.updRegs sd fun r => { r with heldWrites := r.heldWrites ++ [(key, w)] }
  else b.setStg sd key w

/-- A hardware write of a register instance. -/
def Block.hw (b : Block) (sd : Side) (off idx : Nat) (w : Word) : Block := b.setEff sd (regKey idx off) w

/-- An event counter counts `n` events (R349). -/
def Block.bump (b : Block) (sd : Side) (off : Nat) (idx : Nat := 0) (n : Nat := 1) : Block :=
  b.hw sd off idx (b.reg sd off idx + w32 n)

/-- A field of a register in effect. -/
def Block.rf (b : Block) (sd : Side) (off hi lo : Nat) (idx : Nat := 0) : Nat := fld (b.reg sd off idx) hi lo

/-- Raises a register to `v` if it holds less. -/
def Block.hwMax (b : Block) (sd : Side) (off idx v : Nat) : Block :=
  if (b.reg sd off idx).toNat < v then b.hw sd off idx (w32 v) else b

/-! ### Hall times in registers (R15). A hall time is a count of 2^-16 ns. -/

/-- The hall time of seconds, nanoseconds and fraction. -/
def htOf (sec ns frac : Nat) : Nat := (sec * 1000000000 + ns) * 65536 + frac

def htFrac (t : Nat) : Nat := t % 65536
def htNs (t : Nat) : Nat := t / 65536
def htSec (t : Nat) : Nat := htNs t / 1000000000

/-- The three words of an HT group. -/
def htWord (t : Nat) : Nat → Word
  | 0 => w32 (htNs t % 1000000000)
  | 1 => w32 (htSec t)
  | _ => w32 ((htSec t / 2 ^ 32 % 65536) * 65536 + htFrac t)

/-- The hall time that three words hold. -/
def htOfWords (w0 w1 w2 : Word) : Nat := htOf (w1.toNat + fld w2 31 16 * 2 ^ 32) w0.toNat (fld w2 15 0)

/-- Captures a hall time in an HT group. -/
def Block.hwHT (b : Block) (sd : Side) (off idx t : Nat) : Block :=
  ((b.hw sd off idx (htWord t 0)).hw sd (off + 4) idx (htWord t 1)).hw sd (off + 8) idx (htWord t 2)

/-- The hall time an HT group in effect holds. -/
def Block.regHT (b : Block) (sd : Side) (off idx : Nat) : Nat :=
  htOfWords (b.reg sd off idx) (b.reg sd (off + 4) idx) (b.reg sd (off + 8) idx)

/-! ### Covered registers (R350) -/

/-- Registers that the running CRC leaves out although they are RW, RWS or LK: selectors, commands, ring offsets, and those
that hardware or running steering writes. -/
def uncovered (sd : Side) (off : Nat) : Bool :=
  let o := off % 4096
  match sd, off / 4096 with
  | .dxt, 0x2 => o == 0x000
  | .dxt, 0x3 => o == 0x000 || o == 0x024 || o == 0x028 || (0x048 ≤ o && o ≤ 0x050)
  | .dxt, 0x4 => o == 0x000
  | .dxt, 0x6 => o == 0x010 || o == 0x060 || o == 0x090
  | .dxt, 0x8 => o == 0x000
  | .dxt, 0x9 => o == 0x00C || o == 0x010 || o == 0x014
  | .dxt, 0xB => o == 0x004
  | .dxt, 0xC => o == 0x00C
  | .dxs, 0x2 => o == 0x000
  | .dxs, 0x3 => o == 0x000 || o == 0x024 || o == 0x028 || (0x048 ≤ o && o ≤ 0x050)
  | .dxs, 0x4 => o == 0x000 || o == 0x030 || o == 0x038 || o == 0x03C || o == 0x040
  | .dxs, 0x5 => o == 0x000
  | .dxs, 0x6 => o == 0x000 || o == 0x034 || o == 0x03C || o == 0x054
  | .dxs, 0x8 => o ≤ 0x010 || o == 0x038
  | .dxs, 0xA => o == 0x014 || o == 0x018 || o == 0x030
  | .dxs, 0xB => o == 0x010 || o == 0x018 || o == 0x01C || o == 0x034 || o == 0x038 || (0x03C ≤ o && o ≤ 0x058)
  | .dxs, 0xC => o == 0x028 || o == 0x02C || o == 0x03C || o == 0x040 || o == 0x06C
  | .dxs, 0xD => o == 0x00C
  | _, p => (p == dmPage sd) && (0x100 ≤ o) && ((o - 0x100) % 0x30 == 0x14)

/-- The blocks with covered registers that are present in the role (R355). -/
def crcBlocks (b : Block) : Side → Nat
  | .dxt => 0x3F5C
  | .dxs => if isRoot b.dxs.role then 0x7D7C else 0x796C

def isCovered (b : Block) (sd : Side) (r : RegRow) : Bool :=
  bit (crcBlocks b sd) (r.off / 4096) && (r.acc == .rw || r.acc == .rws || r.acc == .lk) && !uncovered sd r.off

/-- A change to a covered value in effect sets its block's bit in CRC_STALE (R352). -/
def Block.stale (b : Block) (sd : Side) (page : Nat) : Block :=
  b.hw sd Reg.CM_CRC_STALE 0 (w32 ((b.reg sd Reg.CM_CRC_STALE).toNat ||| 2 ^ page))

/-- Sets a value in effect (by an apply, a lock, an RW write, a binding or the binder), marking the block's CRC stale. -/
def Block.commit (b : Block) (sd : Side) (key : Nat) (w : Word) : Block :=
  if nget (regReset sd) (b.node sd).regs.file.eff key = w then b
  else
    let b' := b.setEff sd key w
    match rowAt sd (key % 2 ^ 21) with
    | some r => if isCovered b sd r then b'.stale sd (r.off / 4096) else b'
    | none => b'

/-- A hardware or binder write of a register: both copies. -/
def Block.hwBoth (b : Block) (sd : Side) (off idx : Nat) (w : Word) : Block :=
  (b.commit sd (regKey idx off) w).setStg sd (regKey idx off) w

end Sys2Proof.Machine
end

