-- ==== Sys2Proof/Machine/Foot.lean ====
section
/-! DEFINITION. The components of the block, and what of them a command's effect may write. -/

namespace Sys2Proof.Machine

/-- A component of the block. Those with a side are the ones that a DX-T and a DX-S48 both have. -/
inductive Comp where
  /-- Hall time, the frequency word and the lock state. -/
  | clk (sd : Side)
  /-- The register file with its apply step and its guarded pairs. -/
  | regs (sd : Side)
  | ports (sd : Side)
  /-- The received marks that no command has taken. -/
  | inbox (sd : Side)
  /-- The received sheets that no command has taken. -/
  | sheets (sd : Side)
  | outs (sd : Side)
  | convs (sd : Side)
  | dma (sd : Side)
  | eyes (sd : Side)
  /-- When each FAULT was originated last. -/
  | raised (sd : Side)
  /-- The FAULTs passed on. -/
  | forwarded (sd : Side)
  | sram (sd : Side)
  /-- The step context of the DX-T. -/
  | step
  | die
  | sync
  | binds
  | syncAudit
  | lastCause
  | ckSeen
  | reps
  | kills
  /-- The DX-S48's role, number, quorum port, and whether the other root acts. -/
  | ident
  /-- The quality class and level that the DX-S48 received, and when. -/
  | quality
  | root
  | meas
  | instances
  | dones
  | defs
  | folds
  | jobs
  | prog
  | path
  | sess
  | quorum
  | binder
  | gaAudit
  | gaOver
  | mbox
  | host
  /-- The module and its management controller, less the flash. -/
  | module
  | flash
  /-- The counter of free values. -/
  | free
deriving DecidableEq, Repr

/-- A footprint: the components that an effect may write. -/
abbrev Foot := List Comp

def Foot.has (fp : Foot) (c : Comp) : Bool := fp.contains c

/-- The footprint of an effect that depends on the part at which it takes place. -/
def Foot.sided : Side → Foot → Foot → Foot
  | .dxt, t, _ => t
  | .dxs, _, s => s

/-- Everything of the DX-T but its SRAM, which a reset leaves as it is. -/
def Foot.dxtAll : Foot :=
  [.clk .dxt, .regs .dxt, .ports .dxt, .inbox .dxt, .sheets .dxt, .outs .dxt, .convs .dxt, .dma .dxt, .eyes .dxt,
   .raised .dxt, .forwarded .dxt, .step, .die, .sync, .binds, .syncAudit, .lastCause, .ckSeen, .reps,
   .kills]

/-- Everything of the DX-S48. The host memory is not a part of it. -/
def Foot.dxsAll : Foot :=
  [.clk .dxs, .regs .dxs, .ports .dxs, .inbox .dxs, .sheets .dxs, .outs .dxs, .convs .dxs, .dma .dxs, .eyes .dxs,
   .raised .dxs, .forwarded .dxs, .sram .dxs, .ident, .quality, .root, .meas, .instances, .dones, .defs, .folds, .jobs, .prog,
   .path, .sess, .quorum, .binder, .gaAudit, .gaOver, .mbox]

/-- The new value of a component in the footprint, the old one of any other. -/
def Foot.pick {α : Type} (fp : Foot) (c : Comp) (old new : α) : α := if fp.has c then new else old

def Foot.node (fp : Foot) (sd : Side) (o n : Node) : Node :=
  { clk := fp.pick (.clk sd) o.clk n.clk
    regs := fp.pick (.regs sd) o.regs n.regs
    ports := fp.pick (.ports sd) o.ports n.ports
    inbox := fp.pick (.inbox sd) o.inbox n.inbox
    rxSheets := fp.pick (.sheets sd) o.rxSheets n.rxSheets
    outs := fp.pick (.outs sd) o.outs n.outs
    convs := fp.pick (.convs sd) o.convs n.convs
    dma := fp.pick (.dma sd) o.dma n.dma
    eyes := fp.pick (.eyes sd) o.eyes n.eyes
    raised := fp.pick (.raised sd) o.raised n.raised
    forwarded := fp.pick (.forwarded sd) o.forwarded n.forwarded
    roc := fp.pick (.regs sd) o.roc n.roc }

def Foot.dxt (fp : Foot) (o n : Dxt) : Dxt :=
  { node := fp.node .dxt o.node n.node
    step := fp.pick .step o.step n.step
    die := fp.pick .die o.die n.die
    sync := fp.pick .sync o.sync n.sync
    binds := fp.pick .binds o.binds n.binds
    syncAudit := fp.pick .syncAudit o.syncAudit n.syncAudit
    sram := fp.pick (.sram .dxt) o.sram n.sram
    lastCause := fp.pick .lastCause o.lastCause n.lastCause
    ckSeen := fp.pick .ckSeen o.ckSeen n.ckSeen
    reps := fp.pick .reps o.reps n.reps
    kills := fp.pick .kills o.kills n.kills }

def Foot.hub (fp : Foot) (o n : Hub) : Hub :=
  { ga := fp.pick .instances o.ga n.ga
    dones := fp.pick .dones o.dones n.dones
    gdefs := fp.pick .defs o.gdefs n.gdefs
    fd := fp.pick .folds o.fd n.fd
    jobs := fp.pick .jobs o.jobs n.jobs
    prog := fp.pick .prog o.prog n.prog
    path := fp.pick .path o.path n.path
    ss := fp.pick .sess o.ss n.ss
    fq := fp.pick .quorum o.fq n.fq
    bn := fp.pick .binder o.bn n.bn
    gaAudit := fp.pick .gaAudit o.gaAudit n.gaAudit
    gaOver := fp.pick .gaOver o.gaOver n.gaOver
    mbox := fp.pick .mbox o.mbox n.mbox
    host := fp.pick .host o.host n.host }

def Foot.dxs (fp : Foot) (o n : Dxs) : Dxs :=
  { node := fp.node .dxs o.node n.node
    role := fp.pick .ident o.role n.role
    nodeNo := fp.pick .ident o.nodeNo n.nodeNo
    quorum := fp.pick .ident o.quorum n.quorum
    peerActs := fp.pick .ident o.peerActs n.peerActs
    qlClass := fp.pick .quality o.qlClass n.qlClass
    qlSsm := fp.pick .quality o.qlSsm n.qlSsm
    qlRxAt := fp.pick .quality o.qlRxAt n.qlRxAt
    qlTxAt := fp.pick .quality o.qlTxAt n.qlTxAt
    root := fp.pick .root o.root n.root
    sw := fp.pick .meas o.sw n.sw
    sram := fp.pick (.sram .dxs) o.sram n.sram
    hub := fp.hub o.hub n.hub }

/-- The block after an effect with a footprint: the components outside the footprint are as they were, and no effect
moves the cycle count. -/
def Foot.keep (fp : Foot) (o n : Block) : Block :=
  { dxt := fp.dxt o.dxt n.dxt
    dxs := fp.dxs o.dxs n.dxs
    sm := { fp.pick .module o.sm n.sm with flash := fp.pick .flash o.sm.flash n.sm.flash }
    now := o.now
    free := fp.pick .free o.free n.free }

end Sys2Proof.Machine
end

