-- ==== Sys2Proof/Machine/Marks.lean ====
section
/-! DEFINITION. Marks on the lane: kinds, payload layout, the GF(4) check, and the stamps and tags in them (R14, R16, R47 to
R51). -/

namespace Sys2Proof.Machine

/-- The code of a kind (R51). -/
def Kind.code : Kind → Nat
  | .idle => 0x00 | .echoReq => 0x01 | .echoRsp => 0x02 | .go => 0x04 | .fault => 0x05 | .kill => 0x06 | .done => 0x08
  | .arrive => 0x09 | .count => 0x0A | .complete => 0x0B | .oppoint => 0x0C | .fence => 0x0D | .vote => 0x0E
  | .resync => 0x0F | .resyncAck => 0x10 | .retry => 0x14 | .remote => 0x18 | .ql => 0x19

/-- The kind of a code; none is unassigned. -/
def kindOf : Nat → Option Kind
  | 0x00 => some .idle | 0x01 => some .echoReq | 0x02 => some .echoRsp | 0x04 => some .go | 0x05 => some .fault
  | 0x06 => some .kill | 0x08 => some .done | 0x09 => some .arrive | 0x0A => some .count | 0x0B => some .complete
  | 0x0C => some .oppoint | 0x0D => some .fence | 0x0E => some .vote | 0x0F => some .resync | 0x10 => some .resyncAck
  | 0x14 => some .retry | 0x18 => some .remote | 0x19 => some .ql | _ => none

/-- The service class of a kind (R51). -/
def Kind.cls : Kind → Nat
  | .idle => 3 | .echoReq => 3 | .echoRsp => 3 | .go => 0 | .fault => 0 | .kill => 0 | .done => 1 | .arrive => 1
  | .count => 1 | .complete => 1 | .oppoint => 1 | .fence => 1 | .vote => 1 | .resync => 1 | .resyncAck => 1 | .retry => 2
  | .remote => 2 | .ql => 2

/-- Whether a kind is routed; the others are hop kinds (R51). -/
def Kind.routed : Kind → Bool
  | .idle => false | .echoReq => false | .echoRsp => false | .resync => false | .resyncAck => false | .retry => false
  | .go => true | .fault => true | .kill => true | .done => true | .arrive => true | .count => true | .complete => true
  | .oppoint => true | .fence => true | .vote => true | .remote => true | .ql => true

/-- The 88-bit payload of a mark (R49). -/
def Mark.payload (m : Mark) : Payload :=
  BitVec.ofNat 88 (m.kind.code * 2 ^ 82 + m.kind.cls * 2 ^ 80 + m.obj.toNat * 2 ^ 64 + m.tag.toNat * 2 ^ 48 +
    m.stamp.toNat * 2 ^ 16 + m.arg.toNat)

/-- The mark of a payload; none is malformed (R50): an unassigned kind, or a class that is not the kind's. -/
def markOf (p : Payload) : Option Mark :=
  let v := p.toNat
  match kindOf (bits v 87 82) with
  | some k =>
    if bits v 81 80 = k.cls then
      some ⟨k, BitVec.ofNat 16 (bits v 79 64), BitVec.ofNat 16 (bits v 63 48), BitVec.ofNat 32 (bits v 47 16),
        BitVec.ofNat 16 (bits v 15 0)⟩
    else none
  | none => none

/-! ### The check over GF(4) (R48): symbols of two bits, 10 is ω and 11 is ω² -/

def gfMask : Nat := 0x555555

/-- Twelve packed symbols times ω. -/
def gfOmega (v : Nat) : Nat :=
  let h := (v >>> 1) &&& gfMask
  let l := v &&& gfMask
  ((h ^^^ l) <<< 1) ||| h

/-- Twelve packed symbols times a symbol. -/
def gfScale (v s : Nat) : Nat :=
  if s = 0 then 0 else if s = 1 then v else if s = 2 then gfOmega v else gfOmega (gfOmega v)

/-- g(x) less its leading term: coefficients of x^11 down to 1. -/
def gfPoly : Nat :=
  [2, 3, 1, 0, 2, 1, 3, 2, 1, 3, 2, 1].foldl (fun a c => a * 4 + c) 0

/-- One symbol into the division by g(x). -/
def gfStep (st s : Nat) : Nat :=
  let fb := (st >>> 22) ^^^ s
  ((st <<< 2) &&& 0xFFFFFF) ^^^ gfScale gfPoly fb

/-- The symbols of a payload, symbol 55 first. -/
def payloadSyms (p : Payload) : List Nat := (List.range 44).map fun i => (p.toNat >>> (86 - 2 * i)) % 4

/-- The 24-bit check of a payload. -/
def checkOf (p : Payload) : Nat := (payloadSyms p).foldl gfStep 0

/-- The 112-bit mark of a payload. -/
def markBits (p : Payload) : BitVec 112 := BitVec.ofNat 112 (p.toNat * 2 ^ 24 + checkOf p)

/-- x^j mod g(x), for j from 0 to 55. -/
def gfPowers : List Nat :=
  ((List.range 55).foldl (fun (acc : List Nat × Nat) _ =>
    let n := ((acc.2 <<< 2) &&& 0xFFFFFF) ^^^ gfScale gfPoly (acc.2 >>> 22)
    (n :: acc.1, n)) ([1], 1)).1.reverse

/-- The single symbol errors: position, value, syndrome. -/
def gfSingles : List (Nat × Nat × Nat) :=
  ((List.range 56).zip gfPowers).flatMap fun (j, x) => [1, 2, 3].map fun v => (j, v, gfScale x v)

/-- The error pattern of at most two symbols with a syndrome, as a 112-bit number. -/
def gfFind (syn : Nat) : Option Nat :=
  if syn = 0 then some 0
  else match gfSingles.find? fun e => e.2.2 == syn with
    | some (j, v, _) => some (v * 4 ^ j)
    | none => gfSingles.findSome? fun (j, v, s) =>
        match gfSingles.find? fun e => e.2.2 == syn ^^^ s && j < e.1 with
        | some (k, u, _) => some (v * 4 ^ j ^^^ u * 4 ^ k)
        | none => none

/-- What a pair decodes to: undecodable, or a payload and whether it was corrected. -/
def decodePair (w : BitVec 112) : Option (Payload × Bool) :=
  let p := BitVec.ofNat 88 (w.toNat >>> 24)
  let syn := checkOf p ^^^ (w.toNat % 2 ^ 24)
  match gfFind syn with
  | some e => some (BitVec.ofNat 88 ((w.toNat ^^^ e) >>> 24), e != 0)
  | none => none

/-! ### Stamps and tags -/

/-- The 32-bit stamp of a hall time (R14, R49): units of 2^-12 ns. -/
def stampOf (t : Nat) : BitVec 32 := BitVec.ofNat 32 (t / 16)

/-- R14: the hall time closest to the receiver's own that agrees with a stamp. -/
def expandStamp (own : Nat) (st : BitVec 32) : Nat :=
  ((own / 16 : Int) + sx 32 (st - BitVec.ofNat 32 (own / 16)).toNat).toNat * 16

/-- R16: the SN that agrees with a folio tag and lies within -32,768 to +32,767 of the SN held. -/
def expandTag (sn : Int) (tag : BitVec 16) : Int :=
  sn + sx 16 (tag - BitVec.ofInt 16 sn).toNat

def mkMark (k : Kind) (obj tag : Nat) (t : Nat) (arg : Nat) : Mark :=
  ⟨k, BitVec.ofNat 16 obj, BitVec.ofNat 16 tag, stampOf t, BitVec.ofNat 16 arg⟩

end Sys2Proof.Machine
end

