-- ==== Sys2Proof/Machine/Ops.lean ====
section
/-! DEFINITION. The named operations that many commands share: time passing, ports, offering marks, taking received marks and
sheets, sending messages, originating faults. -/

namespace Sys2Proof.Machine

/-! ### Acting -/

/-- HT counts 2^-48 ns modulo 2^48 seconds (R5). -/
def htMod : Nat := 2 ^ 48 * 1000000000 * 2 ^ 48

/-- A count of 2^-48 ns brought into the counter. -/
def htWrap (v : Int) : Nat := (v % (htMod : Int)).toNat

/-- R78, R100: in each time-clock cycle HT advances by 1 ns and the frequency word. -/
def Clock.run (c : Clock) (dt : Nat) : Clock :=
  { c with ht := htWrap ((c.ht : Int) + dt * ((2 : Int) ^ 48 + c.fw48)) }

/-- The period of a part's slow clock in time-clock cycles: 31.25 MHz in DX-T, 25 MHz in DX-S48 (R347). -/
def slowPeriod : Side → Nat
  | .dxt => 32
  | .dxs => 40

/-- What a part's monitors read at the slow-clock edge numbered `e`. -/
def Block.monitors (b : Block) (sd : Side) (e : Nat) : Roc :=
  match sd with
  | .dxt => ⟨w32 (Config.monitor 3 e % 65536), w32 (Config.monitor 2 e % 65536)⟩
  | .dxs => ⟨w32 (b.sm.c16 % 65536).toNat, w32 (Config.monitor 1 e % 65536 * 65536 + Config.monitor 0 e % 65536)⟩

/-- The ROC copies of a part after `dt` cycles: taken anew where a slow-clock edge has passed (R347). -/
def Block.rocAfter (b : Block) (sd : Side) (dt : Nat) : Roc :=
  let e := (b.now + dt) / slowPeriod sd
  if e = b.now / slowPeriod sd then (b.node sd).roc else b.monitors sd e

/-- `dt` time-clock cycles pass: both hall times advance, and the slow clocks refresh the ROC registers. Nothing else happens
by time alone (log entry 1, DESIGN CHOICE). -/
def Block.elapse (b : Block) (dt : Nat) : Block :=
  { (b.updNode .dxt fun n => { n with clk := n.clk.run dt, roc := b.rocAfter .dxt dt }).updNode .dxs fun n =>
      { n with clk := n.clk.run dt, roc := b.rocAfter .dxs dt } with now := b.now + dt }

/-- What every command does: time passes, then its effect, which writes within its footprint `fp`. -/
def State.act (s : State) (dt : Nat) (fp : Foot) (f : Block → Block) : Host.Outcome State Fault Refusal :=
  let b := s.hall.elapse dt
  .next { s with hall := fp.keep b (f b) }

def Block.on (b : Block) (c : Bool) (f : Block → Block) : Block := if c then f b else b

/-- Applies an operation for each element. -/
def Block.each {α : Type} (b : Block) (l : List α) (f : Block → α → Block) : Block := l.foldl f b

/-- A fresh free value is used up. -/
def Block.useFree (b : Block) (n : Nat := 1) : Block := { b with free := b.free + n }

def Block.updHub (b : Block) (f : Hub → Hub) : Block := { b with dxs := { b.dxs with hub := f b.dxs.hub } }

/-! ### Clocks -/

def Block.clk (b : Block) (sd : Side) : Clock := (b.node sd).clk

def Block.updClk (b : Block) (sd : Side) (f : Clock → Clock) : Block :=
  b.updNode sd fun n => { n with clk := f n.clk }

/-- The hall time of a part, in 2^-16 ns. -/
def Block.ht (b : Block) (sd : Side) : Nat := (b.clk sd).ht / 2 ^ 32

/-- Sets the hall time of a part. -/
def Block.setHT (b : Block) (sd : Side) (t : Int) : Block :=
  b.updClk sd fun c => { c with ht := htWrap (t * 2 ^ 32) }

/-- `fw` of R78: the upper bits of the frequency word. -/
def Clock.fw (c : Clock) : Int := c.fw48 >>> 16

/-! ### Ports -/

def portReset (_ : Nat) : Port := Port.reset

def nPorts : Side → Nat
  | .dxt => 2
  | .dxs => 48

def Block.port (b : Block) (sd : Side) (p : Nat) : Port := nget portReset (b.node sd).ports p

def Block.updPort (b : Block) (sd : Side) (p : Nat) (f : Port → Port) : Block :=
  b.updNode sd fun n => { n with ports := nupd portReset n.ports p f }

def Block.updTx (b : Block) (sd : Side) (p : Nat) (f : PortTx → PortTx) : Block :=
  b.updPort sd p fun q => { q with tx := f q.tx }

def Block.updRx (b : Block) (sd : Side) (p : Nat) (f : PortRx → PortRx) : Block :=
  b.updPort sd p fun q => { q with rx := f q.rx }

def Block.updSh (b : Block) (sd : Side) (p : Nat) (f : PortSheets → PortSheets) : Block :=
  b.updPort sd p fun q => { q with sh := f q.sh }

def Block.updEcho (b : Block) (sd : Side) (p : Nat) (f : Echo → Echo) : Block :=
  b.updPort sd p fun q => { q with echo := f q.echo }

def Block.upPort (b : Block) (sd : Side) (p : Nat) : Bool := (b.port sd p).st == .up

/-- The roles of a DX-S48's ports (R42, R75). -/
def roleDown : Nat := 0
def roleUp : Nat := 1
def roleCross : Nat := 2

def Block.portRole (b : Block) (p : Nat) : Nat := b.rf .dxs Reg.SP_CTRL 5 4 p

/-- The DX-S48's ports of a role. -/
def Block.portsOf (b : Block) (role : Nat) : List Nat := (List.range 48).filter fun p => b.portRole p == role

/-! ### Offering marks (R52, R53, R71) -/

def PortTx.queue (t : PortTx) : Nat → List QMark
  | 0 => t.q0
  | 1 => t.q1
  | 2 => t.q2
  | _ => t.q3

def PortTx.setQueue (t : PortTx) (c : Nat) (q : List QMark) : PortTx :=
  match c with
  | 0 => { t with q0 := q }
  | 1 => { t with q1 := q }
  | 2 => { t with q2 := q }
  | _ => { t with q3 := q }

/-- The class queues' depth (R52). -/
def queueDepth : Nat := 64

def Port.noteQueues (q : Port) : Port :=
  { q with mqMax := (List.range 4).map fun c => max (q.mqMax.getD c 0) (q.tx.queue c).length }

/-- Whether a port discards the routed marks offered to it (R71). -/
def LinkState.discards : LinkState → Bool
  | .up => false
  | .down => false
  | .off => true
  | .train => true
  | .hunt => true
  | .lost => true
  | .timeOnly => true

/-- A mark offered to a port: queued in its class, or left waiting in the offering block while the queue is full; a port
that discards takes no routed mark. -/
def Block.offerQ (b : Block) (sd : Side) (p : Nat) (q : QMark) : Block :=
  let c := q.mark.kind.cls
  let t := (b.port sd p).tx
  if q.mark.kind.routed && (b.port sd p).st.discards then b
  else if (t.queue c).length < queueDepth && !(t.waiting.any fun w => w.mark.kind.cls == c) then
    b.updPort sd p fun x => { x with tx := x.tx.setQueue c (x.tx.queue c ++ [q]) }.noteQueues
  else (b.updTx sd p fun t => { t with waiting := t.waiting ++ [q] }).bump sd Reg.SP_QFULL_CNT p

def Block.offer (b : Block) (sd : Side) (p : Nat) (m : Mark) : Block := b.offerQ sd p ⟨m, 0⟩

/-- Offers a mark to each of a list of ports. -/
def Block.offerAll (b : Block) (sd : Side) (ps : List Nat) (m : Mark) : Block := b.each ps fun b p => b.offer sd p m

/-! ### Received marks and sheets that wait for their command -/

/-- The first received mark of a kind, and the part without it. -/
def Block.takeMark (b : Block) (sd : Side) (k : Kind) : Option (RxMark × Block) :=
  (takeFirst (fun (r : RxMark) => r.mark.kind == k) (b.node sd).inbox).map fun r =>
    (r.1, b.updNode sd fun n => { n with inbox := r.2 })

/-- Runs an effect on the first received mark of a kind; without one nothing happens. -/
def Block.withMark (b : Block) (sd : Side) (k : Kind) (f : RxMark → Block → Block) : Block :=
  match b.takeMark sd k with
  | some (r, b') => f r b'
  | none => b

def Block.pushMark (b : Block) (sd : Side) (r : RxMark) : Block :=
  b.updNode sd fun n => { n with inbox := n.inbox ++ [r] }

def bumpAt (l : List Nat) (i n : Nat) : List Nat := l.set i ((l.getD i 0 + n) % 65536)

/-- Frees `n` receive buffers of a channel (R64). -/
def Block.freeCredits (b : Block) (sd : Side) (p chan n : Nat) : Block :=
  b.updSh sd p fun s =>
    { s with freed := bumpAt s.freed chan n, held := s.held.set chan (s.held.getD chan 0 - n) }

/-- A received message: its port, OBJECT and TAG of its first sheet, and its bytes. -/
structure Message where
  port : Nat
  obj : Nat
  tag : Nat
  bytes : List Byte
deriving DecidableEq, Repr

/-- The sheets of one stream up to LAST, and the rest; none if LAST has not arrived. -/
def untilLast (port typ obj : Nat) : List RxSheet → Option (List Sheet × List RxSheet)
  | [] => none
  | r :: rs =>
    if r.port == port && r.sheet.typ == typ && r.sheet.obj == obj then
      if r.sheet.last then some ([r.sheet], rs)
      else (untilLast port typ obj rs).map fun x => (r.sheet :: x.1, x.2)
    else (untilLast port typ obj rs).map fun x => (x.1, r :: x.2)

/-- The first complete message of a sheet type (sheets FIRST to LAST of one port and object), among the sheets `rs`. -/
def findMessage (typ : Nat) : List RxSheet → Option (Message × Nat × List RxSheet)
  | [] => none
  | r :: rs =>
    let later := (findMessage typ rs).map fun (m, c, rest) => (m, c, r :: rest)
    if r.sheet.typ == typ && r.sheet.first then
      match untilLast r.port typ r.sheet.obj (r :: rs) with
      | some (ss, rest) =>
        some (⟨r.port, r.sheet.obj, r.sheet.tag, ss.flatMap fun s => s.body.take s.len⟩, r.sheet.chan, rest)
      | none => later
    else later

/-- How many of a list of sheets hold a buffer of the present books. -/
def bookedOf (l : List RxSheet) : Nat := (l.filter RxSheet.booked).length

/-- Takes the first complete message of a type, freeing its buffers. -/
def Block.takeMessage (b : Block) (sd : Side) (typ : Nat) : Option (Message × Block) :=
  (findMessage typ (b.node sd).rxSheets).map fun (m, c, rest) =>
    let n := bookedOf (b.node sd).rxSheets - bookedOf rest
    (m, (b.updNode sd fun x => { x with rxSheets := rest }).freeCredits sd m.port c n)

/-- Takes the first received sheet of a type, freeing its buffer. -/
def Block.takeSheet (b : Block) (sd : Side) (typ : Nat) : Option (RxSheet × Block) :=
  (takeFirst (fun (r : RxSheet) => r.sheet.typ == typ) (b.node sd).rxSheets).map fun r =>
    (r.1, (b.updNode sd fun n => { n with rxSheets := r.2 }).freeCredits sd r.1.port r.1.sheet.chan (b2n r.1.booked))

/-- The sheet types (R63). -/
def tFoldIn : Nat := 0x01
def tFoldOut : Nat := 0x02
def tCommit : Nat := 0x03
def tSessionList : Nat := 0x04
def tDecision : Nat := 0x05
def tRemoteReq : Nat := 0x06
def tRemoteRsp : Nat := 0x07
def tLog : Nat := 0x08

/-- The virtual channel of a type (R63). -/
def chanOf : Nat → Nat
  | 0x01 => 0
  | 0x02 => 0
  | 0x03 => 1
  | 0x04 => 1
  | 0x05 => 1
  | 0x06 => 2
  | 0x07 => 2
  | 0x08 => 3
  | _ => 0

/-- The bytes a sheet body carries. -/
def bodyBytes : Nat := 236

/-- A message cut into bodies of 236 bytes: at least one. -/
def bodiesFuel : Nat → List Byte → List (List Byte)
  | 0, _ => []
  | n + 1, bs => if bs.length ≤ bodyBytes then [bs] else bs.take bodyBytes :: bodiesFuel n (bs.drop bodyBytes)

def bodies (bs : List Byte) : List (List Byte) := bodiesFuel (bs.length / bodyBytes + 1) bs

/-- The sheets of a message; `byOffset` numbers the sheets in TAG from `tag` instead of repeating it. -/
def sheetsOf (typ obj tag : Nat) (byOffset : Bool) (bs : List Byte) : List Sheet :=
  let parts := bodies bs
  (parts.zip (List.range parts.length)).map fun (p, i) =>
    ⟨typ, chanOf typ, i == 0, i + 1 == parts.length, p.length, obj, if byOffset then tag + i else tag, p⟩

/-- Queues sheets at a port that permits DATA sheets at all; a port in LOST, TIME_ONLY or before UP takes none (R69). -/
def Block.queueSheets (b : Block) (sd : Side) (p : Nat) (ss : List Sheet) : Block :=
  if (b.port sd p).st.discards then b else b.updSh sd p fun s => { s with queue := s.queue ++ ss }

def Block.sendMessage (b : Block) (sd : Side) (p typ obj tag : Nat) (byOffset : Bool) (bs : List Byte) : Block :=
  b.queueSheets sd p (sheetsOf typ obj tag byOffset bs)

/-! ### The die's job (R17) and faults (R286) -/

/-- The cause codes of R285. -/
def Cause.partnerLost : Nat := 0x01
def Cause.hbMiss : Nat := 0x02
def Cause.markUncorr : Nat := 0x03
def Cause.pathUp : Nat := 0x04
def Cause.creditAudit : Nat := 0x05
def Cause.calFail : Nat := 0x06
def Cause.cfgDrift : Nat := 0x07
def Cause.selfReport : Nat := 0x08
def Cause.timeLost : Nat := 0x09
def Cause.timeRange : Nat := 0x0A
def Cause.colophonBad : Nat := 0x10
def Cause.ltFail : Nat := 0x11
def Cause.xcalFail : Nat := 0x12
def Cause.goLate : Nat := 0x13
def Cause.goSeq : Nat := 0x14
def Cause.descBad : Nat := 0x15
def Cause.relockFail : Nat := 0x1A
def Cause.vreqTimeout : Nat := 0x1B
def Cause.marginCrit : Nat := 0x1C
def Cause.recLate : Nat := 0x1D
def Cause.applyConflict : Nat := 0x1E
def Cause.xingResidue : Nat := 0x20
def Cause.seamRate : Nat := 0x21
def Cause.parkedTraffic : Nat := 0x22
def Cause.oppInvalid : Nat := 0x23
def Cause.syncBad : Nat := 0x24
def Cause.syncOverrun : Nat := 0x25
def Cause.syncAudit : Nat := 0x26
def Cause.reportLen : Nat := 0x27
def Cause.commitLen : Nat := 0x28
def Cause.gathSeq : Nat := 0x30
def Cause.gathKind : Nat := 0x31
def Cause.gathOver : Nat := 0x32
def Cause.gathAudit : Nat := 0x33
def Cause.foldLen : Nat := 0x34
def Cause.foldMissing : Nat := 0x35
def Cause.foldKat : Nat := 0x36
def Cause.foldAudit : Nat := 0x37
def Cause.sessAudit : Nat := 0x38

/-- "No port" in a FAULT mark. -/
def noPort : Nat := 127

/-- A PATH cause (R285). -/
def pathCause (c : Nat) : Bool := c == 0x01 || c == 0x02 || c == 0x03 || c == 0x04

/-- R286: a node originates at most one FAULT for each cause and port per 1,048,576 ns. -/
def suppressNs : Nat := 1048576

/-- The port number that marks, in the inbox of a triad member, a FAULT it raised itself. -/
def ownPort : Nat := 255

/-- The ports on which a DX-S48 sends a FAULT: its UP ports; a timing root's CROSS ports and its quorum port (R286). -/
def Block.faultPorts (b : Block) : List Nat :=
  if isRoot b.dxs.role then b.portsOf roleCross ++ b.dxs.quorum.toList else b.portsOf roleUp

/-- Whether the cause was originated for this port less than 1,048,576 ns ago. -/
def Block.faultHeld (b : Block) (sd : Side) (cause port : Nat) : Bool :=
  (b.node sd).raised.any fun (c, p, t) => c == cause && p == port && b.now < t + suppressNs

/-- Notes when a (cause, port) was originated. -/
def Block.noteRaised (b : Block) (sd : Side) (cause port : Nat) : Block :=
  b.updNode sd fun n =>
    { n with raised := (cause, port, b.now) :: n.raised.filter fun (c, p, _) => !(c == cause && p == port) }

/-- A DX-T originates a FAULT on each of its ports that is UP (R286). -/
def Block.raiseDxt (b : Block) (cause : Nat) (port : Nat := noPort) : Block :=
  let b := { b with dxt := { b.dxt with lastCause := cause } }.bump .dxt Reg.DXT_FQ_FAULT_CNT
  if b.faultHeld .dxt cause port then b.bump .dxt Reg.DXT_FQ_SUPPRESS_CNT
  else
    let tag := if b.dxt.step.st == .unbound then 0 else b.dxt.step.next - 1
    let m := mkMark .fault (b.reg .dxt Reg.FP_DIE).toNat tag (b.ht .dxt) (port * 256 + cause)
    (b.noteRaised .dxt cause port).offerAll .dxt ((List.range 2).filter fun p => b.upPort .dxt p) m

/-- A DX-S48 originates a FAULT; `job` is the job of a JOB cause. A triad member also takes it as evidence of its own. -/
def Block.raiseDxs (b : Block) (cause : Nat) (port : Nat := noPort) (job : Option Nat := none) : Block :=
  if b.faultHeld .dxs cause port then b.bump .dxs Reg.DXS_FQ_SUPPRESS_CNT
  else
    let m := mkMark .fault b.dxs.nodeNo 0 (b.ht .dxs) (0x8000 + port * 256 + cause)
    let info := (match job with | some j => 0x1000000 + j * 65536 | none => 0) + port * 256 + cause
    let b := ((b.noteRaised .dxs cause port).hw .dxs Reg.DXS_FQ_FR_INFO 0 (w32 info)).bump .dxs Reg.DXS_FQ_FAULT_TX_CNT
    let b := b.offerAll .dxs b.faultPorts m
    if isTriad b.dxs.role then b.pushMark .dxs ⟨ownPort, b.ht .dxs, m, false⟩ else b

/-- Originates a FAULT at either part. A DX-T names a port only in a PATH cause (R286). -/
def Block.raise (b : Block) (sd : Side) (cause : Nat) (port : Nat := noPort) : Block :=
  match sd with
  | .dxt => b.raiseDxt cause (if pathCause cause then port else noPort)
  | .dxs => b.raiseDxs cause port

/-! ### Faults that wait for a port (R146, R153) -/

def Block.updDie (b : Block) (f : DieClk → DieClk) : Block := { b with dxt := { b.dxt with die := f b.dxt.die } }

/-- Raises a cause as soon as a spine port is UP: now if one is. -/
def Block.raiseWhenUp (b : Block) (cause : Nat) : Block :=
  if b.upPort .dxt 0 || b.upPort .dxt 1 then b.raiseDxt cause
  else b.updDie fun d => { d with heldFaults := d.heldFaults ++ [cause] }

/-- A port reached UP: the causes that waited are raised. -/
def Block.raiseHeldFaults (b : Block) : Block :=
  let l := b.dxt.die.heldFaults
  (b.updDie fun d => { d with heldFaults := [] }).each l fun b c => b.raiseDxt c

end Sys2Proof.Machine
end

