-- ==== Sys2Proof/Machine/Guard.lean ====
section
/-! DEFINITION. Guarded pairs (R345, R346): opening, completing, failing. What a completed pair does is the caller's. -/

namespace Sys2Proof.Machine

/-- The value offsets of the guarded pairs (R346). -/
def guardedPairs : Side → List Nat
  | .dxt => [Reg.TT_HTLOAD_NS, Reg.TT_HTLOAD_S, Reg.TT_HTLOAD_SH, Reg.DC_SEAM_OVR, Reg.DC_L_OVR]
  | .dxs => [Reg.RF_HTSET_NS, Reg.RF_HTSET_S, Reg.RF_HTSET_SH, Reg.RF_HTSTEP, Reg.RF_FORCE, Reg.SP_EPOCH, Reg.DXS_FQ_QUORUM,
      Reg.BN_PCOMMIT]

/-- The value offset of the pair that an offset belongs to. -/
def pairOf (sd : Side) (off : Nat) : Option Nat := (guardedPairs sd).find? fun v => v == off || v + 4 == off

/-- 64 cycles of the block's slow clock in time-clock cycles: 31.25 MHz in DX-T, 25 MHz in DX-S48. -/
def guardWindow : Side → Nat
  | .dxt => 2048
  | .dxs => 2560

def guardNone (_ : Nat) : Option GuardOpen := none

def Block.guard (b : Block) (sd : Side) (page : Nat) : Option GuardOpen := nget guardNone (b.node sd).regs.guards page

def Block.setGuard (b : Block) (sd : Side) (page : Nat) (g : Option GuardOpen) : Block :=
  b.updRegs sd fun r => { r with guards := nset guardNone r.guards page g }

/-- Reasons of a failed pair. -/
def Guard.complement : Nat := 1
def Guard.timeout : Nat := 2
def Guard.abandoned : Nat := 3
def Guard.condition : Nat := 4

/-- A pair fails: the reason and its value offset are posted and the failure counted. -/
def Block.guardFail (b : Block) (sd : Side) (reason v : Nat) : Block :=
  (b.hw sd Reg.CM_GUARD_ST 0 (w32 (reason * 2 ^ 24 + v))).bump sd Reg.CM_GUARD_FAIL_CNT

/-- An open pair whose window has passed fails by TIMEOUT. -/
def Block.guardExpire (b : Block) (sd : Side) (page : Nat) : Block :=
  match b.guard sd page with
  | some g => if b.now > g.openedAt + guardWindow sd then
      (b.setGuard sd page none).guardFail sd Guard.timeout ((pairOf sd g.off).getD g.off)
    else b
  | none => b

/-- Hardware writes a guarded register: an open pair on it is abandoned. -/
def Block.guardAbandon (b : Block) (sd : Side) (v : Nat) (idx : Nat) : Block :=
  match b.guard sd (v / 4096) with
  | some g => if pairOf sd g.off == some v && g.idx == idx then
      (b.setGuard sd (v / 4096) none).guardFail sd Guard.abandoned v
    else b
  | none => b

/-- The defined fields of a guarded register. -/
def guardMask (sd : Side) (v : Nat) : Nat :=
  match rowAt sd v with
  | some r => r.mask
  | none => 0

/-- A write to the value or complement address of a guarded pair. `done v idx w` is what the completed value does, none where
its condition refuses it. -/
def Block.guardWrite (b : Block) (sd : Side) (off idx : Nat) (w : Word)
    (done : Block → Nat → Nat → Word → Option Block) : Block :=
  match pairOf sd off with
  | none => b
  | some v =>
    let page := v / 4096
    let b := b.guardExpire sd page
    let m := guardMask sd v
    let opened (b : Block) := b.setGuard sd page (some ⟨off, idx, w, b.now⟩)
    match b.guard sd page with
    | none => opened b
    | some g =>
      if pairOf sd g.off == some v && g.idx == idx && g.off != off then
        let b := b.setGuard sd page none
        let val := if off == v then w else g.w
        if ((g.w.toNat ^^^ w.toNat) &&& m) == m then
          match done b v idx (w32 (val.toNat &&& m)) with
          | some b' => b'
          | none => b.guardFail sd Guard.condition v
        else b.guardFail sd Guard.complement v
      else opened (b.guardFail sd Guard.abandoned ((pairOf sd g.off).getD g.off))

/-- The selector index that a register shows. -/
def Block.selIdx (b : Block) (sd : Side) (r : RegRow) : Nat :=
  match r.sel with
  | some s => (b.reg sd s).toNat
  | none => 0

/-- The instance that a guarded register's selector shows. -/
def Block.guardIdx (b : Block) (sd : Side) (off : Nat) : Nat :=
  match rowAt sd off with
  | some r => b.selIdx sd r
  | none => 0

/-- Sets a guarded register: its value, read back as it is in effect. -/
def Block.setGuarded (b : Block) (sd : Side) (v idx : Nat) (w : Word) : Block := b.hwBoth sd v idx w

end Sys2Proof.Machine
end

