-- ==== Sys2Proof/Machine/DieOps.lean ====
section
/-! DEFINITION. The die's regions, crossings, seam and operating points: geometry, conditions and the steps that several
commands share (R142 to R166). -/

namespace Sys2Proof.Machine

/-! ### Access -/

def Block.updStep (b : Block) (f : StepCtx → StepCtx) : Block := { b with dxt := { b.dxt with step := f b.dxt.step } }

def regionReset (_ : Nat) : Region := Region.reset

def crossingReset (_ : Nat) : Crossing := Crossing.reset

def DieClk.region (d : DieClk) (r : Nat) : Region := nget regionReset d.regions r

def DieClk.xing (d : DieClk) (x : Nat) : Crossing := nget crossingReset d.xings x

def Block.region (b : Block) (r : Nat) : Region := b.dxt.die.region r

def Block.updRegion (b : Block) (r : Nat) (f : Region → Region) : Block :=
  b.updDie fun d => { d with regions := nupd regionReset d.regions r f }

def Block.updXing (b : Block) (x : Nat) (f : Crossing → Crossing) : Block :=
  b.updDie fun d => { d with xings := nupd crossingReset d.xings x f }

def Block.bound (b : Block) : Bool := b.dxt.step.st != .unbound

/-- A region is critical while one of its monitors keeps it so (R165). -/
def Region.crit (x : Region) : Bool := x.critMon.any id

/-! ### Geometry (R142, R147, R148) -/

def halfOf (r : Nat) : Nat := r / 32

def DieClk.isDisabled (d : DieClk) (r : Nat) : Bool := bit d.disabled r

/-- The logical coordinates of a physical region. -/
def DieClk.logical (d : DieClk) (r : Nat) : Option (Nat × Nat) :=
  if d.isDisabled r || r ≥ 64 then none
  else some (r / 8, ((List.range (r % 8)).filter fun c => !d.isDisabled (r / 8 * 8 + c)).length)

/-- Logical regions of a row: 8 in L64, 7 in L56. -/
def DieClk.rowLen (d : DieClk) : Nat := if d.geom = 1 then 7 else 8

def DieClk.logicalIdx (d : DieClk) (r : Nat) : Nat :=
  match d.logical r with
  | some (i, j) => d.rowLen * i + j
  | none => 0xFF

/-- The physical region of a logical index. -/
def DieClk.physical (d : DieClk) (l : Nat) : Option Nat := (List.range 64).find? fun r => d.logicalIdx r == l

/-- Row and column steps of the direction codes 0 to 9: E, W, N, S, E2, W2, NE, NW, SE, SW. -/
def dirStep : Nat → Int × Int
  | 0 => (0, 1)
  | 1 => (0, -1)
  | 2 => (-1, 0)
  | 3 => (1, 0)
  | 4 => (0, 2)
  | 5 => (0, -2)
  | 6 => (-1, 1)
  | 7 => (-1, -1)
  | 8 => (1, 1)
  | _ => (1, -1)

/-- A region moved by whole rows and columns, if it stays in the grid. -/
def moveRegion (r : Nat) (s : Int × Int) : Option Nat :=
  let row := (r / 8 : Int) + s.1
  let col := (r % 8 : Int) + s.2
  if 0 ≤ row && row < 8 && 0 ≤ col && col < 8 then some (row * 8 + col).toNat else none

def xingNo (src dir : Nat) : Nat := 16 * src + dir

def xingDst (x : Nat) : Option Nat := if x % 16 < 10 && x < 1024 then moveRegion (x / 16) (dirStep (x % 16)) else none

/-- Whether the geometry uses a crossing: its regions are logical neighbours. -/
def DieClk.xUsed (d : DieClk) (x : Nat) : Bool :=
  match (xingDst x).bind d.logical, d.logical (x / 16) with
  | some (i, j), some (k, l) => (i == k && (j == l + 1 || l == j + 1)) || (j == l && (i == k + 1 || k == i + 1))
  | _, _ => false

/-- Classes: 0 neighbour, 1 seam, 2 remapped. -/
def xClass (x : Nat) : Nat :=
  match xingDst x with
  | some r => if halfOf r != halfOf (x / 16) then 1 else if x % 16 < 4 then 0 else 2
  | none => 0

/-- The used crossings into a region. -/
def DieClk.inbound (d : DieClk) (r : Nat) : List Nat :=
  ((List.range 10).filterMap fun dir =>
    (moveRegion r (-(dirStep dir).1, -(dirStep dir).2)).map fun s => xingNo s dir).filter d.xUsed

/-- The used crossings out of a region. -/
def DieClk.outbound (d : DieClk) (r : Nat) : List Nat := ((List.range 10).map fun dir => xingNo r dir).filter d.xUsed

/-- Every used crossing. -/
def DieClk.usedXings (d : DieClk) : List Nat := (List.range 64).flatMap d.outbound

/-! ### Latencies, seam, operating points (R149, R155, R158, R161) -/

/-- Whether the latency override is in effect. -/
def Block.lOvr (b : Block) : Bool := wbit (b.reg .dxt Reg.DC_L_OVR) 31

/-- The release latency of a class. -/
def Block.classL (b : Block) (cls : Nat) : Nat :=
  let w := b.reg .dxt Reg.DC_L_OVR
  if b.lOvr then (match cls with | 0 => fld w 3 0 | 1 => fld w 7 4 | _ => fld w 11 8)
  else (match cls with | 0 => 6 | 1 => 10 | _ => 9)

/-- Whether the seam override is in effect. -/
def Block.seamOvr (b : Block) : Bool := wbit (b.reg .dxt Reg.DC_SEAM_OVR) 3

def Block.oppValid (b : Block) (e : Nat) : Bool := wbit (b.reg .dxt Reg.DC_OPP_FREQ e) 31

/-- The seam code of an operating point, or the override's. -/
def Block.oppSeam (b : Block) (e : Nat) : Nat :=
  if b.seamOvr then fld (b.reg .dxt Reg.DC_SEAM_OVR) 2 0 else b.rf .dxt Reg.DC_OPP_FREQ 18 16 e

/-- The voltage request code of an operating point for the die's grade. -/
def Block.oppVolt (b : Block) (e : Nat) : Nat :=
  let g := b.dxt.die.grade
  b.rf .dxt Reg.DC_OPP_VREQ (8 * g + 7) (8 * g) e

/-- Whether a seam code parks a half. -/
def parks (seam half : Nat) : Bool := (seam == 3 && half == 0) || (seam == 4 && half == 1)

/-- Whether a seam code runs a half at half rate. -/
def halves (seam half : Nat) : Bool := (seam == 1 && half == 1) || (seam == 2 && half == 0)

/-- Whether a region's clock runs: it is enabled and its half is not parked. -/
def DieClk.clocked (d : DieClk) (r : Nat) : Bool := r < 64 && !d.isDisabled r && !parks d.targetSeam (halfOf r)

/-- The regions of the running halves. -/
def DieClk.runningRegions (d : DieClk) : List Nat :=
  (List.range 64).filter fun r => !d.isDisabled r && !parks d.seam (halfOf r)

/-- The operating point and seam that will be in effect at the launch of a folio (R160). -/
def Block.oppAt (b : Block) (folio : Nat) : Nat :=
  match b.dxt.step.opp with
  | some (j, e) => if j == folio then e else b.dxt.die.opp
  | none => b.dxt.die.opp

/-! ### What a folio's launch will find (R160, R161) -/

/-- An APPLY record for the folio whose steps have not begun names the die-clocking block. -/
def Block.oppRecord (b : Block) (folio : Nat) : Bool :=
  !b.dxt.step.applyBegun &&
    b.dxt.step.recs.any fun r => r.rtype == 1 && r.folio == folio && bit (r.a32 % 65536) (Reg.DC_OPP_FREQ / 4096)

/-- The value that a register of the operating-point table will have at the launch of a folio: staged where a record of the
folio will apply it, else waiting for the launch, else in effect. -/
def Block.oppRegAt (b : Block) (folio off e : Nat) : Word :=
  if b.oppRecord folio then b.staged .dxt off e
  else match b.dxt.die.atLaunch.reverse.find? fun x => x.1 == regKey e off with
    | some x => x.2
    | none => b.reg .dxt off e

def Block.oppValidAt (b : Block) (folio e : Nat) : Bool := wbit (b.oppRegAt folio Reg.DC_OPP_FREQ e) 31

def Block.oppSeamAt (b : Block) (folio e : Nat) : Nat :=
  if b.seamOvr then fld (b.reg .dxt Reg.DC_SEAM_OVR) 2 0 else fld (b.oppRegAt folio Reg.DC_OPP_FREQ e) 18 16

def Block.oppVoltAt (b : Block) (folio e : Nat) : Nat :=
  let g := b.dxt.die.grade
  fld (b.oppRegAt folio Reg.DC_OPP_VREQ e) (8 * g + 7) (8 * g)

/-! ### Voltage and retarget (R38, R162) -/

/-- The OPPOINT that governs the folio after the running one. -/
def Block.nextOpp (b : Block) : Option Nat :=
  match b.dxt.step.opp with
  | some (j, e) => if j == b.dxt.step.next && b.oppValid e then some e else none
  | none => none

/-- Sends a voltage request to the power controller. -/
def Block.requestVolt (b : Block) (code : Nat) (higher : Bool) : Block :=
  b.updDie fun d => { d with vreq := some (code, b.now, higher), vcode := code, vreqLate := false }

/-- At the end of folio j-1 where the point of folio j, by an OPPOINT or by an APPLYAT of its entry, requests a higher voltage:
the request goes first (R38, R161). -/
def Block.requestHigher (b : Block) : Block :=
  let j := b.dxt.step.next
  let e := b.oppAt j
  if b.dxt.step.st == .ended && b.oppValidAt j e && b.oppVoltAt j e > b.dxt.die.vcode then b.requestVolt (b.oppVoltAt j e) true
  else b

/-- A higher-voltage request is outstanding. -/
def Block.voltPending (b : Block) : Bool :=
  match b.dxt.die.vreq with
  | some (_, _, h) => h
  | none => false

/-- After DONE: the oscillators are set to the new point and the halves' clocks start or stop with it. -/
def Block.retarget (b : Block) (e : Nat) : Block :=
  b.updDie fun d => { d with target := e, targetSeam := b.oppSeam e, relockFrom := some b.now }

/-- Relock is complete: its length is recorded, and a lower voltage is requested. -/
def Block.relocked (b : Block) : Block :=
  match b.dxt.die.relockFrom with
  | none => b
  | some t =>
    let b := (b.updDie fun d => { d with relockFrom := none }).hwMax .dxt Reg.DC_RELOCK_MAX 0 (satU 16 (b.now - t))
    let e := b.dxt.die.target
    if b.oppVolt e < b.dxt.die.vcode then b.requestVolt (b.oppVolt e) false else b

/-! ### The step descriptor (R159, R160) -/

/-- The step-descriptor code of a refusal. -/
inductive DescCheck where
  | ok
  | descBad
  | geom
  | seam
  | opp
  | lat
  | oppInvalid
  | relock
deriving DecidableEq, Repr

def DescCheck.code : DescCheck → Nat
  | .ok => 0
  | .descBad => 1
  | .geom => 2
  | .seam => 3
  | .opp => 4
  | .lat => 5
  | .oppInvalid => 6
  | .relock => 7

/-- The cause that a refusal raises. -/
def DescCheck.cause : DescCheck → Nat
  | .ok => 0
  | .descBad => 0x15
  | .geom => 0x16
  | .seam => 0x17
  | .opp => 0x18
  | .lat => 0x19
  | .oppInvalid => 0x23
  | .relock => 0x1A

/-- Whether the 32 bytes of a descriptor hold together (code 1). -/
def descGood (bs : List Byte) (job sn : Nat) : Bool :=
  let seam := bits (leAt bs 3 1) 2 0
  bs.length == 32 && crc32c (bs.take 28) == leAt bs 28 4 && leAt bs 0 2 == 1 && leAt bs 2 1 == job && leAt bs 8 8 == sn &&
    seam ≤ 4 && (parks seam 0 == (leAt bs 16 4 == 0)) && (parks seam 1 == (leAt bs 20 4 == 0))

/-- The checks for the folio about to be armed, against what its launch will find: an operating point that is not valid (R163),
then those of R160 in their order. -/
def Block.checkDesc (b : Block) (sn : Nat) : DescCheck :=
  let e := b.oppAt sn
  if !b.oppValidAt sn e then .oppInvalid
  else match b.dxt.die.desc with
  | none => .descBad
  | some bs =>
    if !descGood bs b.dxt.step.job sn then .descBad
    else if bits (leAt bs 7 1) 1 0 != b.dxt.die.geom then .geom
    else if bits (leAt bs 3 1) 2 0 != b.oppSeamAt sn e then .seam
    else if bits (leAt bs 3 1) 7 4 != e then .opp
    else if bits (leAt bs 4 1) 3 0 != b.classL 0 || bits (leAt bs 5 1) 3 0 != b.classL 1 ||
      bits (leAt bs 6 1) 3 0 != b.classL 2 then .lat
    else .ok

/-- A launch is refused: withheld, recorded, counted, raised. -/
def Block.refuseLaunch (b : Block) (c : DescCheck) (sn : Nat) : Block :=
  ((((b.updStep fun s => { s with withheld := true, refused := true }).hw .dxt Reg.DC_REFUSE 0 (w32 (sn % 65536 * 65536 + c.code))).bump .dxt
    Reg.DC_WITHHOLD_CNT)).raiseDxt c.cause

def Block.sramRead (b : Block) (a n : Nat) : List Byte := memReadN b.dxt.sram a n

def Block.sramWrite (b : Block) (a : Nat) (bs : List Byte) : Block :=
  { b with dxt := { b.dxt with sram := memWriteN b.dxt.sram a bs } }

def chanReset (_ : Nat) : Chan := Chan.reset

def Block.chan (b : Block) (sd : Side) (c : Nat) : Chan := nget chanReset (b.node sd).dma.chans c

/-- The window offset of a register of DMA channel `c`, from its offset in channel 0's block. -/
def chanReg (sd : Side) (c rel : Nat) : Nat := chanBase sd c + rel

/-- Whether a hardware user's transfer can run on a channel: enabled, not in chain mode in DX-T, not
halted or draining; in DX-S48 with its PCIe port out of reset. -/
def Block.chanAble (b : Block) (sd : Side) (c : Nat) : Bool :=
  let cfg := b.reg sd (chanReg sd c 0)
  wbit cfg 31 && (sd == .dxs || !wbit cfg 30) && (sd == .dxt || b.sm.perst) && (b.chan sd c).st != .halted &&
    (b.chan sd c).st != .draining

/-- A hardware user's transfer of `n` bytes on a channel is counted. -/
def Block.countXfer (b : Block) (sd : Side) (c rd wr : Nat) : Block :=
  (b.updNode sd fun n => { n with dma := { n.dma with rdBytes := (n.dma.rdBytes + rd) % 2 ^ 64,
                                                       wrBytes := (n.dma.wrBytes + wr) % 2 ^ 64 } }).bump sd (chanReg sd c 0x28)

/-- The fetch of the descriptor of a folio into DX-T, by channel 0; none where the channel cannot run. -/
def Block.fetchDesc (b : Block) (sn : Nat) : Block :=
  let a := (b.reg .dxt Reg.DC_DESC_BASE).toNat + 32 * (sn % b.dxt.die.descCount)
  if b.chanAble .dxt 0 then
    (b.updDie fun d => { d with desc := some (b.sramRead a 32) }).countXfer .dxt 0 32 0
  else b.updDie fun d => { d with desc := none }

end Sys2Proof.Machine
end

