-- ==== Sys2Proof/Machine/SyncOps.lean ====
section
/-! DEFINITION. Sync objects and fold bindings of a DX-T: arrivals, waits, completion, and the slot's clearing at a launch
(R173 to R178, R188, R207, R208). -/

namespace Sys2Proof.Machine

/-! ### Access -/

def syncReset (_ : Nat) : SyncObj := SyncObj.reset

def bindReset (_ : Nat) : Bind := Bind.reset

def SyncObj.slot (o : SyncObj) (s : Nat) : SyncSlot := if s % 2 == 0 then o.s0 else o.s1

def SyncObj.setSlot (o : SyncObj) (s : Nat) (v : SyncSlot) : SyncObj := if s % 2 == 0 then { o with s0 := v } else { o with s1 := v }

def Bind.slot (o : Bind) (s : Nat) : BindSlot := if s % 2 == 0 then o.s0 else o.s1

def Bind.setSlot (o : Bind) (s : Nat) (v : BindSlot) : Bind := if s % 2 == 0 then { o with s0 := v } else { o with s1 := v }

def Block.syncSlot (b : Block) (obj s : Nat) : SyncSlot := (nget syncReset b.dxt.sync obj).slot s

def Block.updSlot (b : Block) (obj s : Nat) (f : SyncSlot → SyncSlot) : Block :=
  { b with dxt := { b.dxt with sync := nupd syncReset b.dxt.sync obj fun o => o.setSlot s (f (o.slot s)) } }

def Block.bindSlot (b : Block) (fb s : Nat) : BindSlot := (nget bindReset b.dxt.binds fb).slot s

def Block.updBind (b : Block) (fb s : Nat) (f : BindSlot → BindSlot) : Block :=
  { b with dxt := { b.dxt with binds := nupd bindReset b.dxt.binds fb fun o => o.setSlot s (f (o.slot s)) } }

def objKind (b : Block) (obj : Nat) : Nat := b.rf .dxt Reg.SY_OBJ_CFG 2 0 obj

def objTarget (b : Block) (obj : Nat) : Nat := b.rf .dxt Reg.SY_OBJ_CFG 31 16 obj

/-- The slot of the folio most recently launched. -/
def Block.curSlot (b : Block) : Nat := (b.dxt.step.next + 1) % 2

/-- The tag of the folio most recently launched. -/
def Block.curTag (b : Block) : Nat := (b.dxt.step.next + 65535) % 65536

/-- The valid fold binding of an object. -/
def Block.bindingOf (b : Block) (obj : Nat) : Option Nat :=
  (List.range 64).find? fun f => wbit (b.reg .dxt Reg.DXT_FD_B_CFG f) 31 && b.rf .dxt Reg.DXT_FD_B_CFG 13 0 f == obj

/-- The objects whose register `off` is listed in the register file: every object not UNUSED is among them. -/
def Block.listedObjs (b : Block) (off : Nat) : List Nat :=
  (b.dxt.node.regs.file.eff.filter fun e => e.1 % 2 ^ 21 == off).map fun e => e.1 / 2 ^ 21

/-- The HALL_ENDPOINT objects of a gathering. -/
def Block.endpoints (b : Block) (gid : Nat) : List Nat :=
  (b.listedObjs Reg.SY_OBJ_CFG).filter fun o => objKind b o == 3 && b.rf .dxt Reg.SY_OBJ_GID 15 0 o == gid

/-- Whether an object is done in a slot (R173). -/
def Block.objDone (b : Block) (obj s : Nat) : Bool :=
  let v := b.syncSlot obj s
  match objKind b obj with
  | 1 => v.count ≥ 1
  | 2 => v.count ≥ objTarget b obj
  | 3 => v.done
  | 4 => (b.syncSlot obj 0).count ≥ objTarget b obj
  | _ => false

/-! ### Arrivals (R174, R176, R207) -/

def Block.syncBad (b : Block) : Block := (b.bump .dxt Reg.SY_BAD_CNT).raiseDxt Cause.syncBad

def Block.syncOverrun (b : Block) : Block := (b.bump .dxt Reg.SY_OVERRUN_CNT).raiseDxt Cause.syncOverrun

/-- A mark offered on both of the die's ports. -/
def Block.offerBoth (b : Block) (m : Mark) : Block := b.offerAll .dxt [0, 1] m

/-- An endpoint's slot has reached TARGET: the arrival mark goes out on both ports, and a bound contribution is read. -/
def Block.sendArrival (b : Block) (obj s : Nat) : Block :=
  let t := b.ht .dxt
  let k := if wbit (b.reg .dxt Reg.SY_OBJ_CFG obj) 4 then Kind.count else Kind.arrive
  let b := b.offerBoth (mkMark k (b.rf .dxt Reg.SY_OBJ_GID 15 0 obj) b.curTag t 1)
  let b := ((b.updSlot obj s fun v => { v with sent := true }).hwHT .dxt Reg.SY_OBJ_STAMP obj t).hw .dxt Reg.SY_OBJ_TAG obj
    (w32 b.curTag)
  let b := b.bump .dxt Reg.SY_SENT_CNT
  match b.bindingOf obj with
  | some f => b.updBind f s fun v => { v with reading := true }
  | none => b

/-- An arrival that counts towards TARGET. -/
def Block.countArrival (b : Block) (obj s inc : Nat) : Block :=
  let v := b.syncSlot obj s
  let target := objTarget b obj
  let n := v.count + inc
  let b := b.updSlot obj s fun v => { v with used := true, count := min n target }
  let b := if n > target then b.syncOverrun else b
  if objKind b obj == 3 && n ≥ target && !v.sent then b.sendArrival obj s else b

/-- An arrival at an object. -/
def Block.arrive (b : Block) (obj inc : Nat) : Block :=
  let b := b.bump .dxt Reg.SY_ARRIVE_CNT
  let s := b.curSlot
  match objKind b obj with
  | 1 => b.updSlot obj s fun v => { v with used := true, count := min (v.count + inc) 65535 }
  | 2 => b.countArrival obj s inc
  | 3 => b.countArrival obj s inc
  | 4 =>
    let n := (b.syncSlot obj 0).count + inc
    let b := b.updSlot obj 0 fun v => { v with used := true, count := min n 65535 }
    if n > 65535 then b.syncOverrun else b
  | _ => b.syncBad

/-- A completion pulse at an object. -/
def Block.pulse (b : Block) (obj : Nat) : Block := b.arrive obj 1

/-! ### Waits (R175) -/

/-- Releases a wait of a region: a DMA_EVENT is consumed, and the slot's outcome is presented. -/
def Block.releaseWait (b : Block) (r : Nat) (w : Wait) : Block :=
  let out := (b.syncSlot w.obj w.slot).outcome
  let b := if objKind b w.obj == 4 then
      b.updSlot w.obj 0 fun v => { v with count := v.count - objTarget b w.obj }
    else b
  b.updRegion r fun x => { x with waits := x.waits.erase w, outcome := out }

/-- Evaluates a region's waits that are due before its next edge: those that are done are released, the others hold it. -/
def Block.evalWaits (b : Block) (r : Nat) : Block :=
  (b.each ((b.region r).waits.filter fun w => w.since + 4 ≤ (b.region r).cyc) fun b w =>
    if b.objDone w.obj w.slot then b.releaseWait r w
    else b.updRegion r fun x => { x with waits := x.waits.map fun y => if y == w then { y with held := true } else y })

def Region.waitHeld (x : Region) : Bool := x.waits.any fun w => w.held

/-! ### Outcomes (R177, R208) -/

/-- Whether a bound slot's result is whole. -/
def Block.resultWhole (b : Block) (f s : Nat) : Bool :=
  let v := b.bindSlot f s
  v.acked && v.bytes ≥ b.rf .dxt Reg.DXT_FD_B_RLEN 20 0 f

/-- Marks a slot done once a COMPLETE has come and, where its binding has a result, the whole result is written. -/
def Block.finishSlot (b : Block) (obj s : Nat) : Block :=
  match b.bindingOf obj with
  | some f =>
    if b.rf .dxt Reg.DXT_FD_B_RLEN 20 0 f > 0 && !((b.bindSlot f s).complete && b.resultWhole f s) then b
    else b.updSlot obj s fun v => { v with done := true }
  | none => b.updSlot obj s fun v => { v with done := true }

/-- Whether a slot already has its COMPLETE. -/
def Block.hasComplete (b : Block) (obj s : Nat) : Bool :=
  (b.syncSlot obj s).outcome != 0

/-- The first COMPLETE of a slot's instance. -/
def Block.takeComplete (b : Block) (obj s outcome stamp : Nat) : Block :=
  if b.hasComplete obj s then b
  else
    let b := (b.updSlot obj s fun v => { v with outcome := outcome, stamp := stamp }).bump .dxt Reg.SY_COMPLETE_CNT
    let b := match b.bindingOf obj with
      | some f => b.updBind f s fun v => { v with complete := true }
      | none => b
    b.finishSlot obj s

/-- The live folio of a tag: the last launched or the one before. -/
def Block.liveFolio (b : Block) (tag : BitVec 16) : Option Nat :=
  let last : Int := (b.dxt.step.next : Int) - 1
  let sn := expandTag last tag
  if 0 ≤ sn && (sn == last || sn == last - 1) then some sn.toNat else none

/-! ### Audit and clearing at a launch (R173, R188) -/

/-- Whether a slot about to be cleared passes the audit. -/
def Block.slotAudit (b : Block) (obj s : Nat) : Bool :=
  let v := b.syncSlot obj s
  match objKind b obj with
  | 2 => v.count ≤ objTarget b obj
  | 3 => !v.used || v.done
  | _ => true

/-- At the launch of a folio in slot `s`: the audit, then the clearing of every folio-slotted object and binding. -/
def Block.clearSlots (b : Block) (s : Nat) : Block :=
  let objs := b.dxt.sync.map Prod.fst
  let ok := objs.all fun o => b.slotAudit o s
  let b := { b with dxt := { b.dxt with syncAudit := !ok } }
  let b := if ok then b else (b.bump .dxt Reg.SY_AUDIT_CNT).raiseDxt Cause.syncAudit
  let b := b.each objs fun b o => if objKind b o == 4 then b else b.updSlot o s fun _ => SyncSlot.reset
  b.each (b.dxt.binds.map Prod.fst) fun b f => b.updBind f s fun _ => BindSlot.reset

/-- Whether every endpoint slot of a folio that has a local arrival is done (R178). -/
def Block.endpointsDone (b : Block) (folio : Nat) : Bool :=
  b.dxt.sync.all fun e => !(objKind b e.1 == 3) || !(e.2.slot folio).used || (e.2.slot folio).done

/-! ### The conditions on DONE (R22, R34, R38, R178, R249) -/

/-- Whether the commit list before the running folio's has been applied. -/
def StepCtx.listApplied (s : StepCtx) : Bool := s.list ≥ s.next

def Block.usesSess (b : Block) : Bool := wbit (b.reg .dxt Reg.DXT_SS_CTRL) 0

/-- The endpoints of the folio before the one that has ended are done. -/
def Block.endsOk (b : Block) : Bool := b.dxt.step.next < 2 || b.endpointsDone b.dxt.step.next

/-- Every condition on the running folio's DONE holds. -/
def Block.doneReady (b : Block) : Bool :=
  b.dxt.step.listApplied && b.endsOk && !b.voltPending && (!b.usesSess || b.dxt.step.reported)

/-- Counts, once per folio, that DONE is withheld for a commit list or an endpoint. -/
def Block.countHolds (b : Block) (listOk endsOk : Bool) : Block :=
  let s := b.dxt.step
  let b := if !listOk && !s.holdSeen then b.bump .dxt Reg.STEP_HOLD_CNT else b
  let b := if !endsOk && !s.endptSeen then b.bump .dxt Reg.SY_ENDPT_HOLD_CNT else b
  b.updStep fun s => { s with holdSeen := s.holdSeen || !listOk, endptSeen := s.endptSeen || !endsOk }

/-- After any event that a condition on DONE may turn on, once the regions have ended: DONE withheld is counted, and the hall
time at which the last condition became true is noted as the origin stamp. -/
def Block.watchDone (b : Block) : Block :=
  if b.dxt.step.st != .ended then b
  else if b.doneReady then b.updStep fun s => { s with doneAt := s.doneAt.orElse fun _ => some (b.ht .dxt) }
  else (b.countHolds b.dxt.step.listApplied b.endsOk).updStep fun s => { s with doneAt := none }

end Sys2Proof.Machine
end

