-- ==== Sys2Proof/Machine/FoldDie.lean ====
section
/-! DEFINITION. The die's side of folds: contributions read and sent, result sheets written (R201, R207, R208). -/

namespace Sys2Proof.Machine

/-- Data bytes in a fold sheet: the body less its 8-byte sub-header (R201). -/
def foldData : Nat := 228

/-- The forms of a fold message (R201). -/
def formLeaf : Nat := 0
def formPartial : Nat := 1
def formResult : Nat := 2

/-- A message's data cut into pieces of 228 bytes: at least one. -/
def piecesFuel : Nat → List Byte → List (List Byte)
  | 0, _ => []
  | n + 1, bs => if bs.length ≤ foldData then [bs] else bs.take foldData :: piecesFuel n (bs.drop foldData)

def pieces (bs : List Byte) : List (List Byte) := piecesFuel (bs.length / foldData + 1) bs

/-- The sub-header of a fold sheet. -/
def foldHeader (who spanM1 ofs form : Nat) : List Byte := leBytes 2 who ++ leBytes 2 spanM1 ++ leBytes 3 ofs ++ leBytes 1 form

/-- The sheets of a fold message. -/
def foldSheets (typ gid tag who spanM1 form : Nat) (bs : List Byte) : List Sheet :=
  let ps := pieces bs
  (ps.zip (List.range ps.length)).map fun (p, i) =>
    ⟨typ, chanOf typ, i == 0, i + 1 == ps.length, p.length + 8, gid, tag, foldHeader who spanM1 (i * foldData) form ++ p⟩

/-- The sub-header and data of a received fold sheet: WHO, SPAN_M1, OFS, FORM, data. -/
structure FoldPiece where
  who : Nat
  spanM1 : Nat
  ofs : Nat
  form : Nat
  data : List Byte
deriving DecidableEq, Repr

def foldPiece (s : Sheet) : FoldPiece :=
  ⟨leAt s.body 0 2, leAt s.body 2 2, leAt s.body 4 3, leAt s.body 7 1 % 4, (s.body.take s.len).drop 8⟩

/-- The folio that owns a slot: the last launched, or the one before. -/
def Block.slotFolio (b : Block) (s : Nat) : Nat :=
  let n := b.dxt.step.next
  if (n + 1) % 2 == s % 2 then n - 1 else n - 2

/-- The slot of a binding whose contribution is being read, the older folio's first. -/
def Block.readingSlot (b : Block) (f : Nat) : Option Nat :=
  [(b.curSlot + 1) % 2, b.curSlot].find? fun s => (b.bindSlot f s).reading

/-- The last byte of a contribution has been read: it goes out on both ports, and the event object is pulsed. -/
def foldLeafReadDone (f : Nat) (b : Block) : Block :=
  let cfg := b.reg .dxt Reg.DXT_FD_B_CFG f
  if !b.chanAble .dxt (fld cfg 18 16) then b
  else match b.readingSlot f with
    | none => b
    | some s =>
      let len := b.rf .dxt Reg.DXT_FD_B_LEN 18 0 f
      let a := (b.reg .dxt Reg.DXT_FD_B_SRC f).toNat + s * (b.reg .dxt Reg.DXT_FD_B_STRIDE f).toNat
      let gid := b.rf .dxt Reg.SY_OBJ_GID 15 0 (fld cfg 13 0)
      let ss := foldSheets tFoldIn gid (b.slotFolio s % 65536) 0 0 formLeaf (b.sramRead a len)
      let b := (b.countXfer .dxt (fld cfg 18 16) len 0).updBind f s fun v => { v with reading := false, sent := true }
      let b := ((b.queueSheets .dxt 0 ss).queueSheets .dxt 1 ss).bump .dxt Reg.DXT_FD_SENT_CNT
      let evt := b.reg .dxt Reg.DXT_FD_B_EVT f
      if wbit evt 31 then b.pulse (fld evt 13 0) else b

/-- The binding that a gathering's results belong to. -/
def Block.bindingOfGid (b : Block) (gid : Nat) : Option Nat := ((b.endpoints gid).filterMap b.bindingOf).head?

/-- Writes a result sheet's data into its slot (R208). -/
def Block.takeResult (b : Block) (f s : Nat) (p : FoldPiece) : Block :=
  let rlen := b.rf .dxt Reg.DXT_FD_B_RLEN 20 0 f
  if (b.bindSlot f s).got.contains p.ofs then b.bump .dxt Reg.DXT_FD_DUP_CNT
  else
    let part := p.data.take (rlen - p.ofs)
    let a := (b.reg .dxt Reg.DXT_FD_B_DST f).toNat + s * (b.reg .dxt Reg.DXT_FD_B_STRIDE f).toNat + p.ofs
    let b := (b.sramWrite a part).updBind f s fun v => { v with got := v.got ++ [p.ofs], bytes := v.bytes + part.length }
    let b := b.countXfer .dxt (b.rf .dxt Reg.DXT_FD_B_CFG 18 16 f) 0 part.length
    if part.length < p.data.length then (b.bump .dxt Reg.DXT_FD_LEN_CNT).raiseDxt Cause.foldLen else b

def foldOutReceive (b : Block) : Block :=
  match b.takeSheet .dxt tFoldOut with
  | none => b
  | some (r, b') =>
    match b'.bindingOfGid r.sheet.obj, b'.liveFolio (BitVec.ofNat 16 r.sheet.tag) with
    | some f, some k =>
      if b'.chanAble .dxt (b'.rf .dxt Reg.DXT_FD_B_CFG 18 16 f) then b'.takeResult f (k % 2) (foldPiece r.sheet) else b
    | _, _ => b'.bump .dxt Reg.DXT_FD_NOBIND_CNT

/-- The fabric acknowledges the last result write of a slot. -/
def foldResultAck (f s : Nat) (b : Block) : Block :=
  let rlen := b.rf .dxt Reg.DXT_FD_B_RLEN 20 0 f
  let v := b.bindSlot f s
  if rlen == 0 || v.bytes < rlen || v.acked then b
  else
    let b := (b.updBind f s fun v => { v with acked := true }).bump .dxt Reg.DXT_FD_RES_CNT
    if v.complete then b.finishSlot (b.rf .dxt Reg.DXT_FD_B_CFG 13 0 f) s else b

def execFoldLeafReadDone (dt f : Nat) (s : State) : Host.Outcome State Fault Refusal :=
  s.act dt [.regs .dxt, .ports .dxt, .dma .dxt, .raised .dxt, .sync, .binds, .lastCause] (foldLeafReadDone f)

def execFoldOutReceive (dt : Nat) (s : State) : Host.Outcome State Fault Refusal :=
  s.act dt [.regs .dxt, .ports .dxt, .sheets .dxt, .dma .dxt, .raised .dxt, .sram .dxt, .binds, .lastCause]
    foldOutReceive

def execFoldResultAck (dt f slot : Nat) (s : State) : Host.Outcome State Fault Refusal :=
  s.act dt [.regs .dxt, .step, .sync, .binds] fun b => (foldResultAck f slot b).watchDone

end Sys2Proof.Machine
end

