-- ==== Sys2Proof/Machine/Dma.lean ====
section
/-! DEFINITION. The DMA engine's chain channels (R359 to R373): rings and descriptors, bursts, completion, halts. -/

namespace Sys2Proof.Machine

/-! ### Access -/

def Block.updDma (b : Block) (sd : Side) (f : Dma → Dma) : Block := b.updNode sd fun n => { n with dma := f n.dma }

def Block.updChan (b : Block) (sd : Side) (c : Nat) (f : Chan → Chan) : Block :=
  b.updDma sd fun d => { d with chans := nupd chanReset d.chans c f }

def Block.updXfer (b : Block) (sd : Side) (c : Nat) (f : Transfer → Transfer) : Block :=
  b.updChan sd c fun x => { x with cur := x.cur.map f }

/-- A register of a channel. -/
def Block.cReg (b : Block) (sd : Side) (c rel : Nat) : Word := b.reg sd (chanReg sd c rel)

/-- The bytes of the on-chip SRAM of a DX-S48 (R359). -/
def chipBytes : Nat := 0x3000000

/-- Bytes of a space: 0 the bus side (die SRAM, host memory), 1 the local side of a DX-S48. -/
def Block.spaceRead (b : Block) (sd : Side) (space a n : Nat) : List Byte :=
  match sd with
  | .dxt => memReadN b.dxt.sram a n
  | .dxs => if space == 0 then memReadN b.dxs.hub.host a n else memReadN b.dxs.sram a n

def Block.spaceWrite (b : Block) (sd : Side) (space a : Nat) (bs : List Byte) : Block :=
  match sd with
  | .dxt => { b with dxt := { b.dxt with sram := memWriteN b.dxt.sram a bs } }
  | .dxs =>
    if space == 0 then b.updHub fun h => { h with host := memWriteN h.host a bs }
    else { b with dxs := { b.dxs with sram := memWriteN b.dxs.sram a bs } }

/-- The space a ring and its lists lie in (R359, R361). -/
def ringSpace : Side → Nat
  | .dxt => 0
  | .dxs => 1

/-! ### The buffer (R365) -/

/-- Blocks of the shared buffer, and those each channel owns. -/
def bufBlocks : Side → Nat
  | .dxt => 64
  | .dxs => 256

def ownBlocks : Nat := 2

def poolBlocks (sd : Side) : Nat := bufBlocks sd - ownBlocks * nChans sd

/-- A transfer's blocks of the buffer: each with the bytes it holds, and whether it lies in a lent block. -/
def Chan.blocks (x : Chan) : List (Nat × Bool) :=
  match x.cur with
  | some t => t.blocks
  | none => []

/-- Blocks of the channel's own and of the pool. -/
def Chan.plain (x : Chan) : Nat := (x.blocks.filter fun k => !k.2).length

/-- Blocks that lie in lent ones, and the 4 KiB blocks lent for them. -/
def Chan.inLent (x : Chan) : Nat := (x.blocks.filter fun k => k.2).length
def Chan.units (x : Chan) : Nat := (x.inLent + 15) / 16

/-- The blocks held, a lent one counted as 16 (R373). -/
def Chan.held (x : Chan) : Nat := x.plain + 16 * x.units

/-- Pool blocks that the channels hold. -/
def Block.poolUsed (b : Block) (sd : Side) : Nat := sumN ((b.node sd).dma.chans.map fun e => e.2.plain - ownBlocks)

/-- Fold blocks reserved by the gatherings defined here (R211). -/
def Block.rsvd (b : Block) : Nat := sumN (b.dxs.hub.gdefs.map fun g => match g.2 with
  | some d => d.blocks
  | none => 0)

def foldBlocks : Nat := 6144

/-- Lent blocks that the channels' transfers fill. -/
def Block.units (b : Block) (sd : Side) : Nat := sumN ((b.node sd).dma.chans.map fun e => e.2.units)

/-- Whether the fold buffer lends one block more (R212, R365). -/
def Block.mayLend (b : Block) : Bool := b.dxs.node.dma.lent + 1 ≤ min (b.rf .dxs Reg.DXS_FD_CTRL 27 16) (foldBlocks - b.rsvd)

/-- Lent blocks are taken and returned as the transfers fill and drain them; `was` is how many they filled before. -/
def Block.settleLent (b : Block) (sd : Side) (was : Nat) : Block :=
  let n := b.units sd
  let b := b.updDma sd fun d => { d with lent := d.lent + n - was }
  if sd == .dxs && n > was then b.bump .dxs (dmBase .dxs + Reg.DM_LEND_CNT) 0 (n - was) else b

/-! ### Halts (R371, R372) -/

def Halt.readErr : Nat := 1
def Halt.writeErr : Nat := 2
def Halt.descBad : Nat := 3
def Halt.descErr : Nat := 4

/-- Writes already issued when a channel stops may have landed: each is free to (log entry 5, DESIGN CHOICE). -/
def Block.landWrites (b : Block) (sd : Side) (ws : List (Nat × Nat × List Byte)) : Block :=
  b.each ws fun b w =>
    (if Config.freeValue b.free % 2 == 0 then b.spaceWrite sd w.1 w.2.1 w.2.2 else b).useFree

/-- A channel stops: its bursts finish without effect and its blocks are free. -/
def Block.dropXfer (b : Block) (sd : Side) (c : Nat) : Block :=
  match (b.chan sd c).cur with
  | none => b
  | some t =>
    ((b.landWrites sd t.wrOpen).updChan sd c fun x =>
      { x with cur := none, left := t.rdOpen.length, leftWr := t.wrOpen.length }).settleLent sd (b.units sd)

/-- The channel halts with a cause, a direction and the address latched. -/
def Block.haltChan (b : Block) (sd : Side) (c cause dir addr : Nat) : Block :=
  ((b.dropXfer sd c).updChan sd c fun x => { x with st := .halted, cause := cause, dir := dir, err := addr }).bump sd
    (chanReg sd c 0x2C)

/-- Whether a channel runs a ring: enabled, and in DX-T in chain mode. -/
def Block.chains (b : Block) (sd : Side) (c : Nat) : Bool :=
  let cfg := b.cReg sd c 0
  wbit cfg 31 && (sd == .dxs || wbit cfg 30)

/-- The address of the descriptor at the tail. -/
def Block.tailAddr (b : Block) (sd : Side) (c : Nat) : Nat :=
  (b.cReg sd c 0x08).toNat + (b.cReg sd c 0x0C).toNat * 2 ^ 32 + (b.cReg sd c 0x18).toNat

def Block.ringEmpty (b : Block) (sd : Side) (c : Nat) : Bool := b.cReg sd c 0x14 == b.cReg sd c 0x18

/-- The state of a channel that has nothing in flight: ACTIVE where it runs a ring that is not empty. -/
def Block.restState (b : Block) (sd : Side) (c : Nat) : ChanState := if b.chains sd c && !b.ringEmpty sd c then .active else .idle

/-- An applied change of a channel's EN (R372): taken to 0 it drains; taken to 1 it resumes at the tail. -/
def Block.chanEnabled (b : Block) (sd : Side) (c : Nat) (old : Word) : Block :=
  let en := wbit (b.cReg sd c 0) 31
  if wbit old 31 && !en then
    let b := b.dropXfer sd c
    b.updChan sd c fun x => { x with st := if x.left + x.leftWr == 0 then .idle else .draining }
  else if !wbit old 31 && en && (b.chan sd c).st == .idle then b.updChan sd c fun x => { x with st := b.restState sd c }
  else b

/-! ### Descriptors (R360 to R363) -/

/-- An address range beyond the on-chip SRAM. -/
def beyond (sd : Side) (s a n : Nat) : Bool := sd == .dxs && s == 1 && a + n > chipBytes

/-- A gather or scatter list from an address: its segments, or the halt's cause and the address of the entry that makes it bad or
that no memory holds. -/
def Block.readList (b : Block) (sd : Side) : Nat → Nat → Except (Nat × Nat) (List (Nat × Nat × Nat))
  | 0, a => .error (Halt.descBad, a)
  | n + 1, a =>
    if beyond sd (ringSpace sd) a 16 then .error (Halt.descErr, a)
    else
    let e := b.spaceRead sd (ringSpace sd) a 16
    let fl := leAt e 12 4
    let seg := (b2n (bit fl 1), leAt e 0 8, leAt e 8 4)
    if fl ≥ 4 || (sd == .dxt && bit fl 1) then .error (Halt.descBad, a)
    else if bit fl 0 then .ok [seg]
    else (b.readList sd n (a + 16)).map fun l => seg :: l

/-- The longest list. -/
def listMax : Nat := 65536

def segBytes (l : List (Nat × Nat × Nat)) : Nat := sumN (l.map fun s => s.2.2)

def swapUnit : Nat → Nat
  | 0 => 1
  | 1 => 2
  | _ => 4

/-- One side of a descriptor: its segments without empty ones. -/
def Block.descSide (b : Block) (sd : Side) (sg local_ : Bool) (a len at_ : Nat) : Except (Nat × Nat) (List (Nat × Nat × Nat)) :=
  if sg then
    match b.readList sd listMax a with
    | .error e => .error e
    | .ok l => if segBytes l == len then .ok (l.filter fun s => s.2.2 != 0) else .error (Halt.descBad, at_)
  else .ok [(b2n local_, a, len)]

/-- What the descriptor at an address asks for: a halt with the cause and the address to latch, a skip with its EVT, or a
transfer. -/
inductive DescKind where
  | bad (cause addr : Nat)
  | skip (evt : Bool)
  | run (t : Transfer)
deriving DecidableEq, Repr

def Block.readDesc (b : Block) (sd : Side) (a : Nat) : DescKind :=
  let d := b.spaceRead sd (ringSpace sd) a 32
  let fl := leAt d 20 4
  let len := leAt d 16 4
  let swap := bits fl 5 4
  if beyond sd (ringSpace sd) a 32 then .bad Halt.descErr a
  else if fl ≥ 512 || leAt d 24 8 != 0 || (sd == .dxt && (bit fl 2 || bit fl 3)) || len % swapUnit swap != 0 ||
    (len == 0 && !bit fl 8) then .bad Halt.descBad a
  else if bit fl 8 then .skip (bit fl 6)
  else match b.descSide sd (bit fl 0) (bit fl 2) (leAt d 0 8) len a, b.descSide sd (bit fl 1) (bit fl 3) (leAt d 8 8) len a with
    | .ok s, .ok t => .run ⟨s, t, swap, bit fl 6, [], [], [], [], [], [], b2n (bit fl 7)⟩
    | .error (c, e), _ => .bad c e
    | _, .error (c, e) => .bad c e

/-! ### Completion (R367, R368) -/

/-- The completion pulse of a chain descriptor with EVT = 1: to a sync object of a DX-T; a DX-S48's goes to a sequencer
condition or a binder event line, which no instruction of the manual reads. -/
def Block.chainPulse (b : Block) (sd : Side) (c : Nat) (evt : Bool) : Block :=
  let w := b.cReg sd c 0x04
  if evt && wbit w 31 && sd == .dxt then b.pulse (fld w 13 0) else b

/-- A descriptor is complete: counted, the tail past it, the pulse sent. -/
def Block.finishDesc (b : Block) (sd : Side) (c : Nat) (evt : Bool) : Block :=
  let size := max 32 (b.cReg sd c 0x10).toNat
  let b := b.updChan sd c fun x => { x with cur := none }
  let b := (b.hw sd (chanReg sd c 0x18) 0 (w32 (((b.cReg sd c 0x18).toNat + 32) % size))).bump sd (chanReg sd c 0x28)
  let b := b.updChan sd c fun x => { x with st := if b.ringEmpty sd c then .idle else .active }
  b.chainPulse sd c evt

/-! ### Arbitration (R365, R366) -/

/-- Whether a channel can take a block of its own or of the pool. -/
def Block.poolRoom (b : Block) (sd : Side) (c : Nat) : Bool :=
  let h := (b.chan sd c).plain
  h < ownBlocks || (h - ownBlocks < b.rf sd (chanReg sd c 0) 15 8 && b.poolUsed sd < poolBlocks sd)

/-- Whether a channel can fill a lent block: the pool is empty, none is recalled, and it holds one that is not full or takes one
(log entry 184, DEDUCED). -/
def Block.lentRoom (b : Block) (sd : Side) (c : Nat) : Bool :=
  sd == .dxs && b.poolUsed sd ≥ poolBlocks sd && b.dxs.hub.fd.recalled == 0 && ((b.chan sd c).inLent % 16 != 0 || b.mayLend)

/-- Whether a channel can take one more block. -/
def Block.roomFor (b : Block) (sd : Side) (c : Nat) : Bool := b.poolRoom sd c || b.lentRoom sd c

/-- The bursts that an engine may have outstanding, and those it has (R359). -/
def maxBursts : Side → Nat
  | .dxt => 32
  | .dxs => 64

def Chan.bursts (x : Chan) (wr : Bool) : Nat :=
  match wr, x.cur with
  | false, some t => x.left + t.rdOpen.length
  | false, none => x.left
  | true, some t => x.leftWr + t.wrOpen.length
  | true, none => x.leftWr

def Block.bursts (b : Block) (sd : Side) (wr : Bool) : Nat := sumN ((b.node sd).dma.chans.map fun e => e.2.bursts wr)

/-- The bytes of a burst from an address: to the next 256-byte boundary. -/
def burstLen (a left : Nat) : Nat := min left (256 - a % 256)

/-- Whether pacing lets a burst of `n` bytes start (R366). -/
def Block.paced (b : Block) (sd : Side) (c n last : Nat) : Bool :=
  let rate := b.rf sd (chanReg sd c 0) 23 16
  let r := if rate == 0 then 256 else rate
  (b.now + 1 - last) * r * 32 ≥ n * 256 || last == 0

/-- The next read burst of a channel, if it has one: space, address, length. -/
def Block.nextRead (b : Block) (sd : Side) (c : Nat) : Option (Nat × Nat × Nat) :=
  match (b.chan sd c).cur with
  | some t => t.src.head?.map fun (s, a, l) => (s, a, burstLen a l)
  | none => none

/-- The next write burst: as much as is read. -/
def Block.nextWrite (b : Block) (sd : Side) (c : Nat) : Option (Nat × Nat × Nat) :=
  match (b.chan sd c).cur with
  | some t => t.dst.head?.bind fun (s, a, l) =>
      let n := min (burstLen a l) t.data.length
      if n == 0 || (n < burstLen a l && !(t.src.isEmpty && t.rdOpen.isEmpty)) then none else some (s, a, n)
  | none => none

def Chan.runs (x : Chan) : Bool := x.st == .idle || x.st == .active

/-- Whether a channel may issue on an engine now. A channel without a transfer may take the descriptor at its tail. -/
def Block.eligible (b : Block) (sd : Side) (c : Nat) (wr : Bool) : Bool :=
  let x : Chan := b.chan sd c
  if !b.chains sd c || !x.runs || (sd == .dxs && !b.sm.perst) || b.bursts sd wr ≥ maxBursts sd then false
  else if wr then match b.nextWrite sd c with
    | some (s, _, n) => s == 1 || b.paced sd c n x.wrAt
    | none => false
  else if x.cur.isNone then !b.ringEmpty sd c
  else match b.nextRead sd c with
    | some (s, _, n) => b.roomFor sd c && (s == 1 || b.paced sd c n x.rdAt)
    | none => false

/-- The channel an engine serves next: channel 0 of a DX-T first, then round robin. -/
def Block.nextChan (b : Block) (sd : Side) (wr : Bool) : Option Nat :=
  let d := (b.node sd).dma
  let n := nChans sd
  let rr := (List.range n).map fun i => ((if wr then d.wrTurn else d.turn) + 1 + i) % n
  ((if sd == Side.dxt then [0] else []) ++ rr).find? fun c => b.eligible sd c wr

/-! ### Bursts -/

/-- Drops `n` bytes from the front of a list of segments. -/
def dropFront (n : Nat) : List (Nat × Nat × Nat) → List (Nat × Nat × Nat)
  | [] => []
  | (s, a, l) :: r => if l ≤ n then r else (s, a + n, l - n) :: r

def Block.issueRead (b : Block) (sd : Side) (c : Nat) : Block :=
  match b.nextRead sd c with
  | some (s, a, n) =>
    if beyond sd s a n then b.haltChan sd c Halt.readErr 0 a
    else ((b.updXfer sd c fun t =>
        { t with src := dropFront n t.src, rdOpen := t.rdOpen ++ [(s, a, n)], rdTimes := t.rdTimes ++ [b.now],
                 blocks := t.blocks ++ [(n, !b.poolRoom sd c)] }).updChan sd c fun x =>
        { x with rdAt := if s == 0 then b.now + 1 else x.rdAt }).settleLent sd (b.units sd)
  | none => b

def Block.issueWrite (b : Block) (sd : Side) (c : Nat) : Block :=
  match b.nextWrite sd c with
  | some (s, a, n) =>
    if beyond sd s a n then b.haltChan sd c Halt.writeErr 1 a
    else (b.updXfer sd c fun t =>
        { t with dst := dropFront n t.dst, wrOpen := t.wrOpen ++ [(s, a, t.data.take n)], data := t.data.drop n }).updChan sd c
        fun x => { x with wrAt := if s == 0 then b.now + 1 else x.wrAt }
  | none => b

/-- Takes the descriptor at the tail (R363). -/
def Block.takeDesc (b : Block) (sd : Side) (c : Nat) : Block :=
  match b.readDesc sd (b.tailAddr sd c) with
  | .bad k a => b.haltChan sd c k 0 a
  | .skip e => b.finishDesc sd c e
  | .run t => (b.updChan sd c fun x => { x with st := .active, cur := some t }).issueRead sd c

def dmaRingHeadWrite (sd : Side) (c : Nat) (w : Word) (b : Block) : Block :=
  if c ≥ nChans sd then b
  else
    let b := b.hw sd (chanReg sd c 0x14) 0 (w32 (w.toNat / 32 * 32))
    if b.chains sd c && !b.ringEmpty sd c && (b.chan sd c).st == .idle then b.updChan sd c fun x => { x with st := .active }
    else b

def dmaBurstIssue (sd : Side) (c : Nat) (wr : Bool) (b : Block) : Block :=
  if b.nextChan sd wr != some c then b
  else
    let b := b.updDma sd fun d => if wr then { d with wrTurn := c } else { d with turn := c }
    if wr then b.issueWrite sd c
    else if (b.chan sd c).cur.isNone then b.takeDesc sd c
    else b.issueRead sd c

/-- R362: whole units of a stream transformed; the rest waits. -/
def swapFuel (swap : Nat) : Nat → List Byte → List Byte × List Byte
  | 0, bs => ([], bs)
  | n + 1, bs =>
    match swap, bs with
    | 0, _ => (bs, [])
    | 1, x :: y :: r => let (d, p) := swapFuel swap n r; (y :: x :: d, p)
    | 2, x :: y :: z :: u :: r => let (d, p) := swapFuel swap n r; (u :: z :: y :: x :: d, p)
    | 3, x :: y :: z :: u :: r => let (d, p) := swapFuel swap n r; (z :: u :: x :: y :: d, p)
    | _, _ => ([], bs)

def swapBytes (swap : Nat) (bs : List Byte) : List Byte × List Byte := swapFuel swap (bs.length + 1) bs

/-- Frees the blocks that `n` drained bytes empty. -/
def drainBlocks (n : Nat) : List (Nat × Bool) → List (Nat × Bool)
  | [] => []
  | (k, l) :: r => if k ≤ n then drainBlocks (n - k) r else (k - n, l) :: r

/-- A read burst returns its data; a flush read returns none. -/
def Block.readDone (b : Block) (sd : Side) (c : Nat) : Block :=
  match (b.chan sd c).cur with
  | none => b
  | some t => match t.rdOpen with
    | [] => b
    | (s, a, n) :: rest =>
      let (d, p) := if t.flush == 2 then (([] : List Byte), ([] : List Byte)) else swapBytes t.swap (t.part ++ b.spaceRead sd s a n)
      (b.updXfer sd c fun t => { t with rdOpen := rest, rdTimes := t.rdTimes.drop 1, data := t.data ++ d, part := p }).updDma sd fun x =>
        { x with rdBytes := (x.rdBytes + n) % 2 ^ 64 }

/-- The transfer after its oldest write burst, of `n` bytes to an address, has landed. The last write to host memory of a transfer
with FLUSH is followed by a read of the last double word written (R367); the fabric of a DX-T acknowledges its writes. -/
def Transfer.landed (t : Transfer) (sd : Side) (space a n now : Nat) : Transfer :=
  let t := { t with wrOpen := t.wrOpen.drop 1, blocks := drainBlocks n t.blocks }
  if t.flush == 1 && sd == .dxs && space == 0 && t.src.isEmpty && t.dst.isEmpty && t.rdOpen.isEmpty && t.wrOpen.isEmpty then
    { t with rdOpen := [(0, (a + n - 1) / 4 * 4, 4)], rdTimes := [now], flush := 2 }
  else t

/-- A write burst lands. -/
def Block.writeDone (b : Block) (sd : Side) (c : Nat) : Block :=
  match (b.chan sd c).cur with
  | none => b
  | some t => match t.wrOpen with
    | [] => b
    | (s, a, bs) :: _ =>
      (((b.spaceWrite sd s a bs).updXfer sd c fun t => t.landed sd s a bs.length b.now).updDma sd fun x =>
        { x with wrBytes := (x.wrBytes + bs.length) % 2 ^ 64 }).settleLent sd (b.units sd)

/-- A burst of a stopped channel finishes: its data are discarded; a draining channel that has none left is IDLE. -/
def Block.burstLeft (b : Block) (sd : Side) (c : Nat) (wr : Bool) : Block :=
  let b := b.updChan sd c fun x => if wr then { x with leftWr := x.leftWr - 1 } else { x with left := x.left - 1 }
  b.updChan sd c fun x => { x with st := if x.st == .draining && x.left + x.leftWr == 0 then b.restState sd c else x.st }

def dmaBurstComplete (sd : Side) (c : Nat) (wr : Bool) (b : Block) : Block :=
  let x := b.chan sd c
  if x.cur.isNone then b.burstLeft sd c wr else if wr then b.writeDone sd c else b.readDone sd c

/-- Whether a transfer has issued its last write, the port has accepted it, and a flush read has returned. -/
def Transfer.finished (t : Transfer) : Bool :=
  t.src.isEmpty && t.dst.isEmpty && t.rdOpen.isEmpty && t.wrOpen.isEmpty && t.data.isEmpty && t.part.isEmpty

def dmaTransferComplete (sd : Side) (c : Nat) (b : Block) : Block :=
  match (b.chan sd c).cur with
  | some t => if t.finished then b.finishDesc sd c t.evt else b
  | none => b

/-- A bus error of cause 1, 2 or 4 halts an enabled channel. -/
def dmaBusError (sd : Side) (c cause addr : Nat) (b : Block) : Block :=
  if c < nChans sd && wbit (b.cReg sd c 0) 31 && (b.chan sd c).runs &&
    (cause == Halt.readErr || cause == Halt.writeErr || cause == Halt.descErr) then
    b.haltChan sd c cause (b2n (cause == Halt.writeErr)) (addr % 2 ^ 64)
  else b

/-- PCIe completions missing 10 ms after the request: a read error, or a flush read that fails (R371). -/
def dmaCompletionTimeout (c : Nat) (b : Block) : Block :=
  match (b.chan .dxs c).cur with
  | none => b
  | some t =>
    match (t.rdOpen.zip t.rdTimes).find? fun r => r.1.1 == 0 with
    | some ((_, a, _), at_) =>
      if b.now < at_ + 10000000 then b
      else if t.flush == 2 then b.haltChan .dxs c Halt.writeErr 1 a
      else b.haltChan .dxs c Halt.readErr 0 a
    | none => b

/-! ### The commands -/

def execDmaRingHeadWrite (dt : Nat) (sd : Side) (ch : Nat) (w : Word) (s : State) : Host.Outcome State Fault Refusal :=
  s.act dt [.regs sd, .dma sd] (dmaRingHeadWrite sd ch w)

def execDmaBurstIssue (dt : Nat) (sd : Side) (ch : Nat) (wr : Bool) (s : State) : Host.Outcome State Fault Refusal :=
  s.act dt (Foot.sided sd [.regs .dxt, .ports .dxt, .dma .dxt, .raised .dxt, .sram .dxt, .sync, .binds, .lastCause,
    .free] [.regs .dxs, .dma .dxs, .sram .dxs, .host, .free]) (dmaBurstIssue sd ch wr)

def execDmaBurstComplete (dt : Nat) (sd : Side) (ch : Nat) (wr : Bool) (s : State) : Host.Outcome State Fault Refusal :=
  s.act dt (Foot.sided sd [.dma .dxt, .sram .dxt] [.regs .dxs, .dma .dxs, .sram .dxs,
    .host]) (dmaBurstComplete sd ch wr)

def execDmaTransferComplete (dt : Nat) (sd : Side) (ch : Nat) (s : State) : Host.Outcome State Fault Refusal :=
  s.act dt (Foot.sided sd [.regs .dxt, .ports .dxt, .dma .dxt, .raised .dxt, .sync, .binds, .lastCause] [.regs .dxs,
    .dma .dxs]) (dmaTransferComplete sd ch)

def execDmaBusError (dt : Nat) (sd : Side) (ch cause addr : Nat) (s : State) : Host.Outcome State Fault Refusal :=
  s.act dt (Foot.sided sd [.regs .dxt, .dma .dxt, .sram .dxt, .free] [.regs .dxs, .dma .dxs, .sram .dxs, .host,
    .free]) (dmaBusError sd ch cause addr)

def execDmaCompletionTimeout (dt ch : Nat) (s : State) : Host.Outcome State Fault Refusal :=
  s.act dt [.regs .dxs, .dma .dxs, .sram .dxs, .host, .free] (dmaCompletionTimeout ch)

end Sys2Proof.Machine
end

