-- ==== Sys2Proof/Machine/Converters.lean ====
section
/-! DEFINITION. The time-to-digital converters: who uses which, calibration, stamps (R126 to R130, R136, R137). -/

namespace Sys2Proof.Machine

/-- The converters of a part (R136): a DX-T's are its two ports' and the launch tree's. -/
def nConvs : Side → Nat
  | .dxt => 3
  | .dxs => 54

/-- The converter of a spine port (R136). -/
def portConv (sd : Side) (p : Nat) : Nat :=
  match sd with
  | .dxt => p
  | .dxs => 4 + p

/-- The launch tree's converter of a DX-T (R136). -/
def treeConv : Nat := 2

/-- The converter of an Ethernet port (R136). -/
def ethConv (eth : Nat) : Nat := 52 + eth

def convReset (_ : Nat) : Conv := Conv.reset

def Block.conv (b : Block) (sd : Side) (c : Nat) : Conv := nget convReset (b.node sd).convs c

def Block.updConv (b : Block) (sd : Side) (c : Nat) (f : Conv → Conv) : Block :=
  b.updNode sd fun n => { n with convs := nupd convReset n.convs c f }

/-- The last tap: a code lies between 0 and 639 (R126). -/
def lastTap : Nat := 639

/-- The elapsed time of a code in ps, as a numerator over 65,536 * (d2 - d1), and that denominator (R129); lin is in 2^-16
taps. -/
def Conv.elapsed (c : Conv) (code : Nat) : Int × Int :=
  let code := min code lastTap
  let taps : Int := (c.d2 : Int) - c.d1
  (500 * (65536 * (taps + code - c.d1) + c.lin.getD code 0), 65536 * taps)

/-- The stamp of an edge sampled at hall time `h` (2^-16 ns) with code `code` and frequency word `fw` (R129). With two equal
calibration codes the manual's scale has no value: the stamp is free. -/
def Conv.stamp (c : Conv) (h code : Nat) (fw : Int) (free : Nat) : Nat :=
  let (n, d) := c.elapsed code
  if d = 0 then Config.freeValue free
  else
    let s : Int := if d < 0 then -1 else 1
    let den : Nat := 1000 * d.natAbs * 2 ^ 32
    (roundEven ((h : Int) * den - s * n * 65536 * ((2 : Int) ^ 32 + fw)) den).toNat

/-- The raw stamp of R129, in time-clock periods, as numerator and denominator. -/
def Conv.raw (c : Conv) (cycle code : Nat) : Int × Nat :=
  let (n, d) := c.elapsed code
  let s : Int := if d < 0 then -1 else 1
  ((cycle : Int) * (1000 * d.natAbs : Nat) - s * n, 1000 * d.natAbs)

/-- R130: whether calibration codes are good. -/
def calIsGood (d1 d2 : Nat) : Bool := d1 + 120 ≤ d2 && d2 ≤ d1 + 320 && d2 ≤ lastTap

/-- The age in cycles beyond which no measurement uses a calibration (R128). -/
def calMaxAge : Nat := 1024

/-- Whether a stamp taken now counts: the last calibration was good and is not too old, and the first linearity table is complete
(R128, R130, R131). Any other stamp is a missing measurement (log entry 160, DESIGN CHOICE). -/
def Block.stampOk (b : Block) (sd : Side) (cv : Nat) : Bool :=
  let c := b.conv sd cv
  c.calGood && b.now ≤ c.calAt + calMaxAge && c.linValid

/-- The stamp of an edge that reaches a converter now. -/
def Block.stampNow (b : Block) (sd : Side) (cv code : Nat) : Nat :=
  (b.conv sd cv).stamp (b.ht sd) code (b.clk sd).fw b.free

/-- The hall time that a node's counter reaches `n` cycles from now, or reached `-n` cycles ago (2^-16 ns). -/
def Block.htAfter (b : Block) (sd : Side) (n : Int) : Nat :=
  (((b.clk sd).ht : Int) + n * ((2 : Int) ^ 48 + (b.clk sd).fw48)).toNat / 2 ^ 32

/-- The delay, in 2^-16 ns, from a launch at a time-clock edge to an edge sampled `cycles` later with code `code`. -/
def Block.delayOf (b : Block) (sd : Side) (cv cycles code : Nat) : Int :=
  ((b.conv sd cv).stamp (b.htAfter sd cycles) code (b.clk sd).fw b.free : Int) - b.ht sd

/-- A measurement closes on a converter: counted, and the converter rests for 8 ns (R133, R141). -/
def Block.measured (b : Block) (sd : Side) (cv : Nat) (n : Nat := 1) : Block :=
  (b.bump sd (tmBase sd + Reg.TM_CV_MEAS_CNT) cv n).updConv sd cv fun c => { c with closedAt := some b.now }

/-- Whether a converter can open a measurement of a lower user: 8 ns have passed since the last close (R133, R137). -/
def Block.convFree (b : Block) (sd : Side) (cv : Nat) : Bool :=
  match (b.conv sd cv).closedAt with
  | some t => b.now ≥ t + 8
  | none => true

/-- An edge is noted: from it the converter predicts the next. -/
def Block.sawEdge (b : Block) (sd : Side) (cv : Nat) : Block := b.updConv sd cv fun c => { c with edgeAt := some b.now }

/-- The period in cycles at which a converter predicts edges: a REFIN input in use at a root is a 10 MHz or a 1PPS (R136). -/
def Block.convPeriod (b : Block) (sd : Side) (cv : Nat) : Option Nat :=
  let use := b.rf .dxs Reg.RF_P_CFG 1 0 cv
  if sd == .dxs && cv < 4 && isRoot b.dxs.role then
    (if use ≥ 2 then some 100 else if use == 1 then some 1000000000 else none)
  else none

/-- Whether a converter predicts an edge within `n` cycles. -/
def Block.edgeWithin (b : Block) (sd : Side) (cv n : Nat) : Bool :=
  match b.convPeriod sd cv, (b.conv sd cv).edgeAt with
  | some per, some t => (per - (b.now - t) % per) % per < n
  | _, _ => false

end Sys2Proof.Machine
end

