-- ==== Sys2Proof/Machine/LinkOps.lean ====
section
/-! DEFINITION. The spine link's operations: sending and receiving mark pairs and sheets, recovery of lost marks, credits, and
the link states (R42 to R75). -/

namespace Sys2Proof.Machine

/-! ### Configuration of a port -/

def Block.portCtrl (b : Block) (sd : Side) (p : Nat) : Nat := (b.reg sd Reg.SP_CTRL p).toNat

def Block.rejoinGen (b : Block) (sd : Side) (p : Nat) : Nat := b.rf sd Reg.SP_CTRL 15 8 p

def Block.portEpoch (b : Block) (sd : Side) (p : Nat) : Nat := b.rf sd Reg.SP_EPOCH 15 0 p

/-- DWELL in time-clock cycles: columns of 8 ns. -/
def Block.dwell (b : Block) (sd : Side) (p : Nat) : Nat := 8 * b.rf sd Reg.SP_DWELL 9 0 p

/-- The four fields of CRED_INIT, FOLD first. -/
def credFields (w : Word) : List Nat := [fld w 7 0, fld w 15 8, fld w 23 16, fld w 31 24]

/-- Raises a PATH cause on a port and notes that PATH evidence stands on it (R289). -/
def Block.raisePath (b : Block) (sd : Side) (cause p : Nat) : Block :=
  (b.raise sd cause p).updPort sd p fun q => { q with pathOut := true }

/-! ### The lock state in IDLE marks (R51, R109) -/

def LockState.code : LockState → Nat
  | .free => 0
  | .acquire => 1
  | .coarse => 2
  | .locked => 3
  | .overcast => 4

/-- Whether the DX-S48 acts as the root of the hall's time: root A, or root B as acting root (R109, R114). A root A that
left reset while root B acts does not. -/
def Block.actingRoot (b : Block) : Bool := isRoot b.dxs.role && b.dxs.root.acting

/-- The state a node reports in IDLE: an acting root reports LOCKED in COARSE too (R109). -/
def Block.reportedLock (b : Block) (sd : Side) : Nat :=
  let l := (b.clk sd).lock
  if sd == .dxs && b.actingRoot && l == .coarse then LockState.locked.code else l.code

/-! ### Sending a pair (R52 to R58) -/

/-- Picoseconds as 2^-16 ns (log entry 3: the rounding is open). -/
def psTo16 (ps : Int) : Int := divR (ps * 65536) 1000

/-- The hall time at a pair's boundary on the sender's side: HT plus TXLAT (R51, R81). -/
def Block.txBoundary (b : Block) (sd : Side) (p : Nat) : Nat :=
  ((b.ht sd : Int) + psTo16 (b.port sd p).echo.txlat).toNat

/-- The first mark in service order, and the queues without it (R52). -/
def PortTx.next (t : PortTx) : Option (QMark × PortTx) :=
  let pick (k : Kind) := takeFirst (fun (q : QMark) => q.mark.kind == k) t.q0
  match pick .go with
  | some (q, r) => some (q, { t with q0 := r })
  | none => match pick .fault with
    | some (q, r) => some (q, { t with q0 := r })
    | none => match pick .kill with
      | some (q, r) => some (q, { t with q0 := r })
      | none => match t.q1 with
        | q :: r => some (q, { t with q1 := r })
        | [] => match t.q2 with
          | q :: r => some (q, { t with q2 := r })
          | [] => match t.q3 with
            | q :: r => some (q, { t with q3 := r })
            | [] => none

def pairsPerFrame : Nat := 680

/-- Puts a payload on the lane as the next pair. -/
def PortTx.emit (t : PortTx) (p : Payload) (copyable : Option Mark) (isIdle : Bool) : PortTx :=
  { t with out := markBits p, lastSent := some p, copySrc := copyable, pair := t.pair + 1,
           sinceIdle := if isIdle then 0 else t.sinceIdle + 1,
           history := t.history.filter fun h => t.pair < h.pair + pairsPerFrame }

/-- Sends IDLE: transmit epoch, pair index, boundary stamp, RX_DOWN and lock state. -/
def Block.sendIdle (b : Block) (sd : Side) (p : Nat) : Block :=
  let q := b.port sd p
  let rxDown := b2n (!(q.st == .up || q.st == .timeOnly))
  let m := mkMark .idle (b.portEpoch sd p) (q.tx.pair % pairsPerFrame) (b.txBoundary sd p)
    (rxDown + 2 * b.reportedLock sd)
  b.updTx sd p fun t => t.emit m.payload none true

/-- R79: an ECHO_RSP is discarded when more than 500,000 ns have passed since t2. -/
def echoTooOld (t2 t3 : Nat) : Bool := t2 + 500000 * 65536 < t3

/-- The mark as it leaves: t1 of an ECHO_REQ, t3 and turnaround of an ECHO_RSP are made at the pair that carries it. -/
def stampEcho (q : QMark) (t : Nat) : Mark :=
  match q.mark.kind with
  | .echoReq => { q.mark with stamp := stampOf t }
  | .echoRsp =>
    let turn := (t - q.t2) / 16
    { q.mark with stamp := stampOf t, tag := BitVec.ofNat 16 (turn / 65536), arg := BitVec.ofNat 16 turn }
  | .idle | .go | .fault | .kill | .done | .arrive | .count | .complete | .oppoint | .fence | .vote | .resync | .resyncAck
  | .retry | .remote | .ql => q.mark

def isEcho (k : Kind) : Bool := k == .echoReq || k == .echoRsp

/-- Sends an original: history for a routed one, the exchange opened for an ECHO_REQ, the answer counted for an
ECHO_RSP. -/
def Block.sendOriginal (b : Block) (sd : Side) (p : Nat) (q : QMark) (t : Nat) : Block :=
  let m := stampEcho q t
  let b := b.updTx sd p fun x =>
    let x := if m.kind.routed then { x with history := x.history ++ [⟨x.pair, m, false⟩] } else x
    x.emit m.payload (if isEcho m.kind then none else some m) false
  match m.kind with
  | .echoReq => b.updEcho sd p fun e => { e with out := e.out ++ [(m.obj.toNat, t)] }
  | .echoRsp => b.bump sd Reg.TT_P_ECHO_ANS_CNT p
  | .idle | .go | .fault | .kill | .done | .arrive | .count | .complete | .oppoint | .fence | .vote | .resync | .resyncAck
  | .retry | .remote | .ql => b

/-- Notes in the history that a copy followed the last original. -/
def noteCopied : List HistMark → List HistMark
  | [] => []
  | [h] => [{ h with copied := true }]
  | h :: hs => h :: noteCopied hs

/-- Sends the copy of the original in the pair before (R54). -/
def Block.sendCopy (b : Block) (sd : Side) (p : Nat) (m : Mark) : Block :=
  b.updTx sd p fun t =>
    { t with history := if m.kind.routed then noteCopied t.history else t.history }.emit m.payload none false

/-- Whether a class-0 mark waits. -/
def PortTx.class0 (t : PortTx) : Bool := !t.q0.isEmpty

/-- Drops the ECHO_RSPs that can no longer be answered in time. -/
def dropOldEcho (t3 : Nat) (l : List QMark) : List QMark :=
  l.filter fun q => !(q.mark.kind == .echoRsp && echoTooOld q.t2 t3)

/-- What a port in UP or TIME_ONLY sends in a pair: the first mark in service order, a copy, or IDLE; IDLE when none was
sent in 63 pairs and no class-0 mark waits, or as the separator of R55. -/
def Block.sendPair (b : Block) (sd : Side) (p : Nat) : Block :=
  let t3 := b.txBoundary sd p
  let b := b.updTx sd p fun t => { t with q3 := dropOldEcho t3 t.q3 }
  let t := (b.port sd p).tx
  if t.sinceIdle ≥ 63 && !t.class0 then b.sendIdle sd p
  else match t.next with
    | some (q, t') =>
      if t.lastSent == some (stampEcho q t3).payload then b.sendIdle sd p
      else (b.updTx sd p fun _ => t').sendOriginal sd p q t3
    | none => match t.copySrc with
      | some m => if bit (b.portCtrl sd p) 6 then b.sendCopy sd p m else b.sendIdle sd p
      | none => b.sendIdle sd p

/-! ### Link states (R69 to R72) -/

/-- The port of a domain: the one that REFS names; CROSS at a root (R88, R98). -/
def Block.refPort (b : Block) (sd : Side) (d : Nat) : Option Nat :=
  match sd with
  | .dxt => let p := if d == 0 then b.rf .dxt Reg.TT_REFS 5 0 else b.rf .dxt Reg.TT_REFS 13 8
    if p < 2 then some p else none
  | .dxs => match b.dxs.role with
    | .tier => let p := if d == 0 then b.rf .dxs Reg.TT_REFS 5 0 else b.rf .dxs Reg.TT_REFS 13 8
      if p < 48 then some p else none
    | .rootA | .rootB => if d == 0 then (b.portsOf roleCross).head? else none
    | .memberC => none

/-- Whether a port carries the selected domain of a node whose DCO follows one. The loop of an acting root follows its OCXO
(R99). -/
def Block.steersBy (b : Block) (sd : Side) (p : Nat) : Bool :=
  !(sd == .dxs && b.actingRoot) && b.refPort sd (b.clk sd).sel == some p

/-- The first missed column on the selected domain freezes the DCO control (R77). -/
def Block.freeze (b : Block) (sd : Side) (p : Nat) : Block :=
  if b.steersBy sd p then b.updClk sd fun c => { c with hold := true } else b

/-- The freeze ends when the port leaves the missed condition without entering DOWN (R77). -/
def Block.unfreeze (b : Block) (sd : Side) (p : Nat) : Block :=
  if b.steersBy sd p && (b.clk sd).lock != .overcast then b.updClk sd fun c => { c with hold := false } else b

/-- Entry to DOWN (R70): reported and counted; queues and replay are held. -/
def Block.linkDown (b : Block) (sd : Side) (p : Nat) : Block :=
  (b.updPort sd p fun q =>
    { q with st := .down, downAt := b.now, rx := { q.rx with missed := 0, told := 0, prev := none, badRange := none } }).bump sd
    Reg.SP_LINK_DOWN_CNT p

/-- Fresh books; what is no part of them stays: the latched CRED_INIT, the verdict of the last GO audit, the last slot sent. -/
def PortSheets.anew (s : PortSheets) : PortSheets :=
  { PortSheets.reset with credInit := s.credInit, audit := s.audit, out := s.out }

/-- What a port discards on entry to LOST: queues, waiting marks, history, replay and credits (R69, R71). -/
def Port.discard (q : Port) : Port :=
  { q with
    tx := { q.tx with q0 := [], q1 := [], q2 := [], q3 := [], waiting := [], history := [], handled := [], copySrc := none },
    rx := { q.rx with badRange := none, resync := [], prev := none, missed := 0, told := 0 },
    sh := q.sh.anew }

/-- A port's credit books are given up: the sheets it has accepted wait on for their commands and hold no buffer of the books
that follow (log entry 150, DESIGN CHOICE). -/
def Block.unbook (b : Block) (sd : Side) (p : Nat) : Block :=
  b.updNode sd fun n => { n with rxSheets := n.rxSheets.map fun r => if r.port == p then { r with booked := false } else r }

/-- A port discards what it holds and enters a state in which it has no books. -/
def Block.discardTo (b : Block) (sd : Side) (p : Nat) (st : LinkState) : Block :=
  (b.unbook sd p).updPort sd p fun q => { q.discard with st := st }

/-- Entry to LOST from DOWN: everything discarded, REJOIN_GEN latched, PARTNER_LOST declared (R71, R72). -/
def Block.enterLost (b : Block) (sd : Side) (p : Nat) : Block :=
  let gen := b.rejoinGen sd p
  ((b.discardTo sd p .lost).updPort sd p fun q => { q with rejoin := gen }).raisePath sd Cause.partnerLost p

/-- Return from TIME_ONLY to LOST: everything discarded, no new PARTNER_LOST, and the latched REJOIN_GEN stays (R71,
R72). -/
def Block.backToLost (b : Block) (sd : Side) (p : Nat) : Block :=
  b.discardTo sd p .lost

/-- The run of missed columns that stands once `told` says which columns of the present pair are missed. -/
def missedRun (before told : Nat) : Nat :=
  if told % 4 = 3 then before + 2 else if told % 4 = 2 then 1 else if told % 4 = 1 then before + 1 else 0

/-- A port has `run` missed columns in a row; `los`: its PMA loses signal (R69, R70, R72). -/
def Block.missedTo (b : Block) (sd : Side) (p run : Nat) (los : Bool) : Block :=
  match (b.port sd p).st with
  | .up =>
    let b := b.freeze sd p
    if run ≥ 3 || los then b.linkDown sd p else b
  | .timeOnly =>
    let b := b.freeze sd p
    if run ≥ 3 || los then b.backToLost sd p else b
  | .off | .train | .hunt | .down | .lost => b

/-- One column of the present pair is missed: its first, or its `second`. It counts once, however it is told. -/
def Block.missColumn (b : Block) (sd : Side) (p : Nat) (second los : Bool) : Block :=
  let b := b.updRx sd p fun r => { r with told := r.told ||| (if second then 2 else 1) }
  let r := (b.port sd p).rx
  b.missedTo sd p (missedRun r.missed r.told) los

/-- An interval (R85). -/
def intervalNs : Nat := 64000

/-- The echo state of a port that enters UP or TIME_ONLY: no gate on the first interval, no valid interval yet (R85,
R88). Exchanges that are open stay open: they end by a response, or lost after 32,000 ns (R80). The intervals of 64,000 ns count
from this entry (log entry 161, DESIGN CHOICE). -/
def Echo.restart (e : Echo) (now : Nat) : Echo :=
  { e with gateOff := true, validOnce := false, invalidRun := 0, closeAt := now + intervalNs }

/-- The books of a port at a fresh entry to UP: the receiver's counts start at CRED_INIT, the sender's at 0 (R64). -/
def PortSheets.fresh (s : PortSheets) (init : Word) : PortSheets :=
  { s.anew with credInit := init, freed := credFields init, reported := credFields init }

/-- MQ_MAX from an entry to UP on: what the queues hold (R75). -/
def Port.startMax (q : Port) : Port := { q with mqMax := [0, 0, 0, 0] }.noteQueues

/-- A fresh entry to UP, from HUNT or, by REJOIN_GEN, from TIME_ONLY. -/
def Block.enterUpFresh (b : Block) (sd : Side) (p : Nat) : Block :=
  let init := b.reg sd Reg.SP_CRED_INIT p
  (b.unbook sd p).updPort sd p fun q => { q with st := .up, sh := q.sh.fresh init, echo := q.echo.restart b.now, rx := { q.rx with askAt := b.now } }.startMax

/-- A port that reports UP again withdraws the PATH evidence it raised (R289). Only a DX-S48 raises PATH_UP. -/
def Block.pathUp (b : Block) (sd : Side) (p : Nat) : Block :=
  if (b.port sd p).pathOut && sd == .dxs then
    (b.raise .dxs Cause.pathUp p).updPort .dxs p fun q => { q with pathOut := false }
  else b

/-- A port that reaches UP: a die raises the causes that waited for it; a DX-S48 port that had lost its partner reports
PATH_UP. -/
def Block.reachedUp (b : Block) (sd : Side) (p : Nat) : Block :=
  let b := b.pathUp sd p
  if sd == .dxt then b.raiseHeldFaults else b

/-- A port in TIME_ONLY whose applied REJOIN_GEN differs from the latched one enters UP (R72). -/
def Block.tryRejoin (b : Block) (sd : Side) (p : Nat) : Block :=
  let q := b.port sd p
  if q.st == .timeOnly && b.rejoinGen sd p != q.rejoin then (b.enterUpFresh sd p).reachedUp sd p else b

def eyeReset (_ : Nat) : Eye := Eye.reset

/-- The eye sweeps of a port's lanes are void (R333). -/
def Block.voidEyes (b : Block) (sd : Side) (p : Nat) : Block :=
  b.updNode sd fun n => { n with eyes := nset eyeReset (nset eyeReset n.eyes (2 * p) Eye.reset) (2 * p + 1) Eye.reset }

/-- Entry to TRAIN: the partner fields read their reset values, a latency measurement is due, the eye sweeps are void (R75, R82,
R333). -/
def Block.enterTrain (b : Block) (sd : Side) (p : Nat) : Block :=
  ((b.voidEyes sd p).discardTo sd p .train).updPort sd p fun q =>
    { q with latFail := false, latDone := false,
             rx := { PortRx.reset with uncorrFault := q.rx.uncorrFault, uncorr := q.rx.uncorr } }

/-- Entry to OFF: the transmitter is silent. -/
def Block.enterOff (b : Block) (sd : Side) (p : Nat) : Block :=
  b.discardTo sd p .off

/-- What an applied change of CTRL does to a port: ENABLE (R69) and REJOIN_GEN (R72). -/
def Block.portCtrlChanged (b : Block) (sd : Side) (p : Nat) (old : Word) : Block :=
  let en := bit (b.portCtrl sd p) 0
  if !en && (b.port sd p).st != .off then b.enterOff sd p
  else if en && (b.port sd p).st == .off then b.enterTrain sd p
  else if fld old 15 8 != b.rejoinGen sd p then b.tryRejoin sd p
  else b

/-! ### RESYNC (R59, R60) -/

/-- Whether a pair index lies in a range of indices, which may run past 679. -/
def inPairRange (first last i : Nat) : Bool :=
  (i + pairsPerFrame - first) % pairsPerFrame ≤ (last + pairsPerFrame - first) % pairsPerFrame

def resyncMark (first last : Nat) : Mark := mkMark .resync first last 0 0

/-- Queues a RESYNC for a range of undecodable pairs. -/
def Block.sendResync (b : Block) (sd : Side) (p first last : Nat) : Block :=
  (b.offer sd p (resyncMark first last)).updPort sd p fun q =>
    { q with rx := { q.rx with resync := q.rx.resync ++ [⟨first, last, 1, q.tx.pair⟩] } }

/-- Repeats a RESYNC whose 32 pairs have passed, or declares LINK_DOWN after 8 sends. -/
def Block.repeatResync (b : Block) (sd : Side) (p : Nat) (r : Resync) : Block :=
  let q := b.port sd p
  if q.st != .up || q.tx.pair < r.sentAt + 32 then b
  else if r.sends ≥ 8 then b.linkDown sd p
  else (b.offer sd p (resyncMark r.first r.last)).updRx sd p fun x =>
    { x with resync := x.resync.map fun y =>
        if y.first == r.first && y.last == r.last then { y with sends := y.sends + 1, sentAt := q.tx.pair } else y }

/-- Puts resent marks ahead of the new marks of their class; what the queue has no room for waits, first. -/
def PortTx.resendHead (t : PortTx) (c : Nat) (ms : List QMark) : PortTx :=
  let q := ms ++ t.queue c
  { t.setQueue c (q.take queueDepth) with waiting := q.drop queueDepth ++ t.waiting }

/-- The marks of a range to resend, in order: every routed original, but for one in the last pair that a copy followed. -/
def resendMarks (h : List HistMark) (first last : Nat) : List Mark :=
  (h.filter fun x => inPairRange first last (x.pair % pairsPerFrame) &&
    !(x.copied && x.pair % pairsPerFrame == last)).map HistMark.mark

/-- Answers a RESYNC (R60). -/
def Block.answerResync (b : Block) (sd : Side) (p first last : Nat) : Block :=
  let t := (b.port sd p).tx
  if t.handled.contains (first, last) then b.offer sd p (mkMark .resyncAck first last 0 0)
  else
    let ms := resendMarks t.history first last
    let again (t : PortTx) : PortTx :=
      { ([0, 1, 2, 3].foldl (fun (t : PortTx) c =>
          t.resendHead c ((ms.filter fun m => m.kind.cls == c).map fun m => ⟨m, 0⟩)) t) with
        handled := ((first, last) :: t.handled).take 8 }
    let b := b.updPort sd p fun q => { q with tx := again q.tx }.noteQueues
    (b.bump sd Reg.SP_MARK_RESENT_CNT p ms.length).offer sd p (mkMark .resyncAck first last 0 ms.length)

/-! ### Receiving a pair (R56, R59, R73) -/

def Block.epochMismatch (b : Block) (sd : Side) (p : Nat) : Bool :=
  (b.port sd p).rx.epoch.toNat != b.portEpoch sd p

/-- The fields of an accepted IDLE (R75, R288); a DX-T counts its entries to EPOCH_MISMATCH (R307). -/
def Block.takeIdle (b : Block) (sd : Side) (p : Nat) (m : Mark) : Block :=
  let was := b.epochMismatch sd p
  let b := b.updRx sd p fun r =>
    { r with epoch := m.obj, lock := bits m.arg.toNat 3 1, askAt := if r.lock > 1 && bits m.arg.toNat 3 1 ≤ 1 then b.now else r.askAt,
             rxDown := bit m.arg.toNat 0, sinceIdle := 0, hbMiss := false,
             idx := (m.tag.toNat % 1024 + 1) % pairsPerFrame, lastIdx := m.tag.toNat % 1024 % pairsPerFrame }
  if sd == .dxt && !was && b.epochMismatch sd p then b.bump .dxt Reg.DXT_FQ_FENCE_CNT else b

/-- An accepted mark goes to the block that uses it. `t` is the receive stamp of an echo pair, which is a measurement of the port's
converter, and `bad` whether it counts as missing. RESYNC, RESYNC_ACK and RETRY are
neither routed marks nor sheets, so an epoch that differs does not drop them (log entry 151, DEDUCED). -/
def Block.acceptMark (b : Block) (sd : Side) (p : Nat) (m : Mark) (t : Nat) (bad : Bool) : Block :=
  match m.kind with
  | .idle => b.takeIdle sd p m
  | .echoReq | .echoRsp => (b.measured sd (portConv sd p)).pushMark sd ⟨p, t, m, bad⟩
  | .resync | .resyncAck | .retry => if b.upPort sd p then b.pushMark sd ⟨p, b.ht sd, m, false⟩ else b
  | .go | .fault | .kill | .done | .arrive | .count | .complete | .oppoint | .fence | .vote | .remote | .ql =>
    if !b.upPort sd p then b
    else if b.epochMismatch sd p then b.bump sd Reg.SP_EPOCH_DROP_CNT p
    else b.pushMark sd ⟨p, b.ht sd, m, false⟩

/-- An undecodable pair: counted, the range extended, both its columns missed (R58 to R61, R70). The pair that takes the count of
its window to UNCORR_LIM raises MARK_UNCORR; a limit of 0 disables that. -/
def Block.badPair (b : Block) (sd : Side) (p : Nat) : Block :=
  let b := (b.bump sd Reg.SP_MARK_UNCORR_CNT p).updRx sd p fun r =>
    { r with uncorr := r.uncorr + 1, prev := none, missed := r.missed + 2, told := 0,
             badRange := match r.badRange with
               | none => some (r.idx, r.idx)
               | some (f, _) => some (f, r.idx),
             idx := (r.idx + 1) % pairsPerFrame }
  let lim := b.rf sd Reg.SP_UNCORR_LIM 15 0 p
  let r := (b.port sd p).rx
  let b := if decide (lim ≠ 0) && r.uncorr == lim then
      (b.updRx sd p fun r => { r with uncorrFault := true }).raisePath sd Cause.markUncorr p
    else b
  b.missedTo sd p r.missed false

/-- A decoded pair. The pair after a range of undecodable ones lets the RESYNC go once it has decoded, whatever its mark is
(log entry 152, DEDUCED). -/
def Block.goodPair (b : Block) (sd : Side) (p : Nat) (w : Payload) (t : Nat) (bad : Bool) : Block :=
  let r := (b.port sd p).rx
  let run := if r.told % 4 = 1 then 0 else missedRun r.missed r.told
  let b := if r.missed + r.told > 0 && run == 0 then b.unfreeze sd p else b
  let b := b.updRx sd p fun r =>
    { r with missed := run, told := 0, prev := some w, lastIdx := r.idx, idx := (r.idx + 1) % pairsPerFrame, badRange := none }
  let b := match r.badRange with
    | some (f, l) => if b.upPort sd p then b.sendResync sd p f l else b
    | none => b
  if r.prev == some w then b.bump sd Reg.SP_MARK_COPY_CNT p
  else match markOf w with
    | some m => b.acceptMark sd p m t bad
    | none => b.bump sd Reg.SP_MALF_CNT p

/-- One received pair (R56): `w` as sampled, `code` the code with which the port's converter took the pair's boundary. Its receive
stamp is the converter's less the measured receive latency (R81). -/
def Block.receivePair (b : Block) (sd : Side) (p : Nat) (w : BitVec 112) (code : Nat) : Block :=
  let q := b.port sd p
  let cv := portConv sd p
  if q.st == .up || q.st == .timeOnly then
    let t := ((b.stampNow sd cv code : Int) - psTo16 q.echo.rxlat).toNat
    let bad := !b.stampOk sd cv
    let b := (b.useFree).updRx sd p fun r => { r with sinceIdle := r.sinceIdle + 1 }
    match decodePair w with
    | none => b.badPair sd p
    | some (m, corrected) => (if corrected then b.bump sd Reg.SP_MARK_CORR_CNT p else b).goodPair sd p m t bad
  else b

/-! ### Sheets (R62 to R68) -/

/-- Bytes 0 to 251 of a sheet and its CRC (R63). -/
def encodeSheet (typ flags seq ack credit crvc len epoch obj tag : Nat) (body : List Byte) : List Byte :=
  let h := leBytes 1 typ ++ leBytes 1 flags ++ leBytes 2 seq ++ leBytes 2 ack ++ leBytes 2 credit ++ leBytes 1 crvc ++
    leBytes 1 len ++ leBytes 2 epoch ++ leBytes 2 obj ++ leBytes 2 tag ++ padTo bodyBytes body
  h ++ leBytes 4 (crc32c h)

/-- The channel whose credit count goes into the next header: the first from `turn` that has changed, else `turn`. -/
def PortSheets.creditChan (s : PortSheets) : Nat :=
  let order := (List.range 4).map fun i => (s.turn + i) % 4
  match order.find? fun c => s.freed.getD c 0 != s.reported.getD c 0 with
  | some c => c
  | none => s.turn % 4

/-- Whether a channel has a credit (R64). -/
def PortSheets.hasCredit (s : PortSheets) (c : Nat) : Bool :=
  (s.credit.getD c 0 + 65536 - s.sent.getD c 0) % 65536 ≥ 1

/-- What a slot carries: a replayed sheet, the first queued DATA sheet whose channel has a credit, or a NULL sheet. -/
inductive SlotPick where
  | replay (seq : Nat) (s : Sheet)
  | data (s : Sheet) (rest : List Sheet)
  | null
deriving DecidableEq, Repr

/-- The replay buffer's size in sheets (R66). -/
def replaySize : Nat := 256

def PortSheets.pick (s : PortSheets) (dataOk : Bool) : SlotPick :=
  let again := s.resend.bind fun n => s.replay.find? fun r => (r.1 + 65536 - n) % 65536 < 32768
  match if dataOk then again else none with
  | some (n, sh) => .replay n sh
  | none =>
    if dataOk && s.replay.length < replaySize then
      match takeFirst (fun (x : Sheet) => s.hasCredit x.chan) s.queue with
      | some (x, rest) => .data x rest
      | none => .null
    else .null

/-- The slot's bytes for a sheet, with the credit report of the port; and the books after it. -/
def Block.emitSheet (b : Block) (sd : Side) (p seq : Nat) (sh : Option Sheet) : Block :=
  let s := (b.port sd p).sh
  let c := s.creditChan
  let ack := (s.expSeq + 65535) % 65536
  let ep := b.portEpoch sd p
  let out := match sh with
    | some x => encodeSheet (x.chan * 64 + x.typ) (b2n x.first + 2 * b2n x.last) seq ack (s.freed.getD c 0) c x.len ep x.obj
        x.tag x.body
    | none => encodeSheet 0 0 seq ack (s.freed.getD c 0) c 0 ep 0 0 []
  b.updSh sd p fun s =>
    { s with out := out, reported := s.reported.set c (s.freed.getD c 0), turn := (c + 1) % 4 }

/-- A sheet slot (R62): DATA only in UP, NULL in UP and TIME_ONLY, nothing else where no sheets run. -/
def Block.sendSlot (b : Block) (sd : Side) (p : Nat) : Block :=
  let q := b.port sd p
  match q.st with
  | .up =>
    match q.sh.pick (bit (b.portCtrl sd p) 1) with
    | .replay n x =>
      let later := q.sh.replay.any fun r => r.1 == (n + 1) % 65536
      ((b.emitSheet sd p n (some x)).updSh sd p fun s =>
        { s with resend := if later then some ((n + 1) % 65536) else none }).bump sd Reg.SP_SHEET_REPLAY_CNT p
    | .data x rest =>
      (b.emitSheet sd p q.sh.nextSeq (some x)).updSh sd p fun s =>
        { s with queue := rest, nextSeq := (s.nextSeq + 1) % 65536, replay := s.replay ++ [(s.nextSeq, x)],
                 sent := bumpAt s.sent x.chan 1 }
    | .null => b.emitSheet sd p q.sh.nextSeq none
  | .timeOnly => b.emitSheet sd p q.sh.nextSeq none
  | .off | .train | .hunt | .down | .lost => b

/-- Sends RETRY for the expected number and counts it (R67, R68). -/
def Block.sendRetry (b : Block) (sd : Side) (p : Nat) : Block :=
  let q := b.port sd p
  (b.offer sd p (mkMark .retry 0 0 0 q.sh.expSeq)).updSh sd p fun s =>
    { s with retryOut := true, retrySends := s.retrySends + 1, retryAt := q.tx.pair }

/-- A RETRY is due. In place of the ninth for one expected number the port declares LINK_DOWN (R68). -/
def Block.dueRetry (b : Block) (sd : Side) (p : Nat) : Block :=
  if (b.port sd p).sh.retrySends ≥ 8 then b.linkDown sd p else b.sendRetry sd p

def Block.needRetry (b : Block) (sd : Side) (p : Nat) : Block :=
  if (b.port sd p).sh.retryOut then b else b.dueRetry sd p

/-- Whether a replay from number `n` on has a sheet to send. -/
def PortSheets.holdsFrom (replay : List (Nat × Sheet)) (n : Nat) : Bool :=
  replay.any fun r => (r.1 + 65536 - n) % 65536 < 32768

/-- ACK and CREDIT of an intact header update the sender's books (R64, R66). A replay whose last sheet is acknowledged is over. -/
def PortSheets.takeHeader (s : PortSheets) (bs : List Byte) : PortSheets :=
  let ack := leAt bs 4 2
  let replay := s.replay.filter fun r => (ack + 65536 - r.1) % 65536 ≥ 32768
  { s with replay := replay, resend := s.resend.filter (PortSheets.holdsFrom replay),
           credit := s.credit.set (leAt bs 8 1 % 4) (leAt bs 6 2) }

/-- The DATA sheet that 256 bytes hold. -/
def sheetOf (bs : List Byte) : Sheet :=
  let ty := leAt bs 0 1
  let fl := leAt bs 1 1
  ⟨ty % 64, ty / 64, bit fl 0, bit fl 1, min (leAt bs 9 1) bodyBytes, leAt bs 12 2, leAt bs 14 2, slice bs 16 bodyBytes⟩

/-- Whether a sheet's bytes 0 to 251 agree with its CRC. -/
def sheetIntact (bs : List Byte) : Bool := bs.length == 256 && crc32c (bs.take 252) == leAt bs 252 4

/-- Accepts the expected DATA sheet. -/
def Block.acceptSheet (b : Block) (sd : Side) (p : Nat) (x : Sheet) : Block :=
  (b.updSh sd p fun s =>
    { s with expSeq := (s.expSeq + 1) % 65536, retryOut := false, retrySends := 0,
             accepted := bumpAt s.accepted x.chan 1, held := s.held.set x.chan (s.held.getD x.chan 0 + 1) }).updNode sd
    fun n => { n with rxSheets := n.rxSheets ++ [⟨p, x, true⟩] }

/-- One received sheet slot (R67, R73). A NULL header passes whatever the epoch, being no DATA sheet (log entry 151, DEDUCED). The
header of a sheet ahead of the expected number is read like that of a NULL (log entry 153, DEDUCED); one behind does nothing. -/
def Block.receiveSheet (b : Block) (sd : Side) (p : Nat) (bs : List Byte) (fecBad : Bool) : Block :=
  let q := b.port sd p
  if q.st != .up then b
  else if fecBad || !sheetIntact bs then (b.bump sd Reg.SP_SHEET_CRC_CNT p).needRetry sd p
  else
    let isNull := leAt bs 0 1 % 64 == 0
    let seq := leAt bs 2 2
    if isNull then
      b.updSh sd p fun s =>
        let s := s.takeHeader bs
        if seq == s.expSeq then { s with retryOut := false } else s
    else if b.epochMismatch sd p || leAt bs 10 2 != b.portEpoch sd p then b.bump sd Reg.SP_EPOCH_DROP_CNT p
    else
      let behind := (q.sh.expSeq + 65536 - seq) % 65536
      if 0 < behind && behind ≤ 32768 then b
      else
        let b := b.updSh sd p fun s => s.takeHeader bs
        if behind == 0 then b.acceptSheet sd p (sheetOf bs) else b.needRetry sd p

/-- Repeats an outstanding RETRY, or declares LINK_DOWN in place of the ninth (R68). -/
def Block.repeatRetry (b : Block) (sd : Side) (p : Nat) : Block :=
  let q := b.port sd p
  if q.st != .up || !q.sh.retryOut || q.tx.pair < q.sh.retryAt + b.rf sd Reg.SP_RETRY_TO 7 0 p then b
  else b.dueRetry sd p

/-! ### The credit audit (R65) -/

/-- The audit of a port's books at a GO. -/
def PortSheets.auditOk (s : PortSheets) : Bool :=
  let init := credFields s.credInit
  (List.range 4).all fun c =>
    (s.credit.getD c 0 + 65536 - s.sent.getD c 0) % 65536 ≤ init.getD c 0 &&
    (s.freed.getD c 0 + 65536 - s.accepted.getD c 0) % 65536 + s.held.getD c 0 == init.getD c 0

/-- Audits a port that a GO passes or reaches. A port that discards the GO has no books to audit (R71). -/
def Block.auditCredits (b : Block) (sd : Side) (p : Nat) : Block :=
  if (b.port sd p).st.discards then b else
  let ok := (b.port sd p).sh.auditOk
  let b := b.updSh sd p fun s => { s with audit := !ok }
  if ok then b else b.raise sd Cause.creditAudit p

end Sys2Proof.Machine
end

