-- ==== Sys2Proof/Machine/HubOps.lean ====
section
/-! DEFINITION. What the hub of a DX-S48 is made of: jobs, the topology table, host memory, rings, events, and REMOTE
transactions (R1, R235, R264, R308 to R322). -/

namespace Sys2Proof.Machine

/-! ### Access -/

def Block.hub (b : Block) : Hub := b.dxs.hub

def jobReset (_ : Nat) : Job := Job.reset

def Block.job (b : Block) (j : Nat) : Job := nget jobReset b.hub.jobs j

def Block.updJob (b : Block) (j : Nat) (f : Job → Job) : Block :=
  b.updHub fun h => { h with jobs := nupd jobReset h.jobs j f }

def Block.updSs (b : Block) (f : SessUnit → SessUnit) : Block := b.updHub fun h => { h with ss := f h.ss }
def Block.updFq (b : Block) (f : Quorum → Quorum) : Block := b.updHub fun h => { h with fq := f h.fq }
def Block.updBn (b : Block) (f : Binder → Binder) : Block := b.updHub fun h => { h with bn := f h.bn }
def Block.updFd (b : Block) (f : FoldUnit → FoldUnit) : Block := b.updHub fun h => { h with fd := f h.fd }
def Block.updPath (b : Block) (f : Path → Path) : Block := b.updHub fun h => { h with path := f h.path }

def engReset (_ : Nat) : Engine := Engine.reset

def Block.eng (b : Block) (e : Nat) : Engine := nget engReset b.hub.fd.engines e

def Block.updEng (b : Block) (e : Nat) (f : Engine → Engine) : Block :=
  b.updFd fun u => { u with engines := nupd engReset u.engines e f }

def Job.loaded (x : Job) : Bool := x.st != .unloaded

/-- A job between its start and its end: RUNNING or DECIDING. -/
def Job.active (x : Job) : Bool := x.st == .running || x.st == .deciding

def Block.loadedJobs (b : Block) : List Nat := b.hub.jobs.filterMap fun (j, x) => if x.loaded then some j else none

/-- Whether a job is stopped for restart or being restored (R296, R301). -/
def Job.stopped (x : Job) : Bool := x.rst.st == .stopped || x.rst.st == .restoring

/-- The merged report of a folio from tree A or B, if it is there (R250). -/
def Job.reportOf (x : Job) (treeB : Bool) (sn : Nat) : Option (List Byte) :=
  match if treeB then x.repB else x.repA with
  | some (t, es) => if t == sn % 65536 then some es else none
  | none => none

/-- A job replays from its header or while it catches up, until it goes live (R236, R302). -/
def Job.replays (x : Job) : Bool := x.replay || x.rst.st == .catchup

/-! ### The topology table (R321) -/

def PortEntry.unused : PortEntry := ⟨3, false, 0, 0, 0, 0⟩

def NodeRec.port (r : NodeRec) (p : Nat) : PortEntry := r.ports.getD p PortEntry.unused

def Topo.nodeOf (t : Topo) (n : Nat) : Option NodeRec := t.nodes.find? fun r => r.num == n

/-- The die record numbers beneath a port of a node, with `fuel` tiers below. -/
def Topo.beneath (t : Topo) : Nat → Nat → Nat → List Nat
  | 0, _, _ => []
  | f + 1, n, p =>
    match t.nodeOf n with
    | none => []
    | some r =>
      let e := r.port p
      if e.role != 0 then []
      else if e.kind == 2 then [e.nbr]
      else if e.kind == 1 then (List.range 48).flatMap fun q => t.beneath f e.nbr q
      else []

/-- Four tiers below a root, and the die. -/
def topoDepth : Nat := 5

def Topo.recsUnder (t : Topo) (n : Nat) : List Nat := (List.range 48).flatMap fun p => t.beneath topoDepth n p

/-- The DX-S48 node numbers beneath a port of a node. -/
def Topo.nodesBeneath (t : Topo) : Nat → Nat → Nat → List Nat
  | 0, _, _ => []
  | f + 1, n, p =>
    match t.nodeOf n with
    | none => []
    | some r =>
      let e := r.port p
      if e.role == 0 && e.kind == 1 then e.nbr :: (List.range 48).flatMap fun q => t.nodesBeneath f e.nbr q else []

def DieRec.none : DieRec := ⟨0, 0, 0, false, 0⟩

def Topo.die (t : Topo) (rec : Nat) : DieRec := t.dies.getD rec DieRec.none

/-- The table that the node holds; empty while it holds none. -/
def Topo.empty : Topo := ⟨0, 0, [], []⟩

def Block.topo (b : Block) : Topo := b.hub.bn.topo.getD Topo.empty

def Block.updTopo (b : Block) (f : Topo → Topo) : Block := b.updBn fun n => { n with topo := n.topo.map f }

/-- The port entry of one of the node's own ports. -/
def Block.entryOf (b : Block) (p : Nat) : PortEntry :=
  match b.topo.nodeOf b.dxs.nodeNo with
  | some r => r.port p
  | none => PortEntry.unused

/-- The dies beneath one of the node's ports. -/
def Block.recsAt (b : Block) (p : Nat) : List Nat := b.topo.beneath topoDepth b.dxs.nodeNo p

def Block.diesAt (b : Block) (p : Nat) : List DieRec := (b.recsAt p).map b.topo.die

def DieRec.ofJob (d : DieRec) (j : Nat) : Bool := d.bound && d.job == j

/-- The node's DOWN ports that carry a die of a job. -/
def Block.jobPorts (b : Block) (j : Nat) : List Nat :=
  (List.range 48).filter fun p => (b.diesAt p).any fun d => d.ofJob j

/-- The dies of a job beneath the node. -/
def Block.jobUnder (b : Block) (j : Nat) : Nat :=
  sumN ((List.range 48).map fun p => ((b.diesAt p).filter fun d => d.ofJob j).length)

/-- The logical indices of the dies that the table binds to a job, ascending. -/
def insertNat (x : Nat) : List Nat → List Nat
  | [] => [x]
  | y :: ys => if x ≤ y then x :: y :: ys else y :: insertNat x ys

def sortNat (l : List Nat) : List Nat := l.foldr insertNat []

def Block.jobDies (b : Block) (j : Nat) : List Nat :=
  sortNat ((b.topo.dies.filter fun d => d.ofJob j).map fun d => d.idx)

/-- The record number of the die that carries a logical index. -/
def Block.recOf (b : Block) (idx : Nat) : Option Nat :=
  let i := b.topo.dies.findIdx fun d => d.bound && d.idx == idx
  if i < b.topo.dies.length then some i else none

/-- The record number of the die at a position. -/
def Block.recAtPos (b : Block) (pos : Nat) : Option Nat :=
  let i := b.topo.dies.findIdx fun d => d.pos == pos
  if i < b.topo.dies.length then some i else none

/-- The block's own DX-T is the die of the table's first die record (log entry 8, DESIGN CHOICE). -/
def ownRec : Nat := 0

def Block.ownDie (b : Block) : DieRec := b.topo.die ownRec

/-- The port of the node towards a die record, or a node, beneath it. -/
def Block.portToRec (b : Block) (rec : Nat) : Option Nat := (List.range 48).find? fun p => (b.recsAt p).contains rec

def Block.portToNode (b : Block) (n : Nat) : Option Nat :=
  (List.range 48).find? fun p => (b.topo.nodesBeneath topoDepth b.dxs.nodeNo p).contains n

/-! ### The acting root and its partner -/

/-- The first CROSS port. -/
def Block.crossPort (b : Block) : Option Nat := (b.portsOf roleCross).head?

def Block.offerCross (b : Block) (m : Mark) : Block := b.offerAll .dxs (b.portsOf roleCross) m

/-- The node number of a triad member (R320). -/
def voterNode : Nat → Nat
  | n => n

def Role.voter : Role → Nat
  | .rootA => 0
  | .rootB => 1
  | .memberC => 2
  | .tier => 3

def Block.isA (b : Block) : Bool := b.dxs.role == .rootA

/-- The other root's node number. -/
def Block.otherRoot (b : Block) : Nat := if b.isA then 1 else 0

/-! ### Host memory through the DMA channels of R370 -/

def chanMbox : Nat := 0
def chanEvent : Nat := 1
def chanLog : Nat := 2
def chanParkWr : Nat := 3
def chanParkRd : Nat := 4
def chanVlog : Nat := 5
def chanCkpt : Nat := 6
def chanTrend : Nat := 7

def Block.hostRead (b : Block) (a n : Nat) : List Byte := memReadN b.hub.host a n

/-- A binder transfer into host memory on a channel, counted. -/
def Block.hostWrite (b : Block) (c a : Nat) (bs : List Byte) : Block :=
  (b.updHub fun h => { h with host := memWriteN h.host a bs }).countXfer .dxs c 0 bs.length

/-! ### Rings in host memory (R235, R264, R292, R328) -/

/-- A ring: its base, size, and producer and consumer offsets. -/
structure Ring where
  base : Nat
  size : Nat
  head : Nat
  tail : Nat
deriving DecidableEq, Repr

def Block.ring (b : Block) (lo hi size head tail idx : Nat) : Ring :=
  let r (o : Nat) : Nat := (b.reg .dxs o idx).toNat
  ⟨r lo + r hi * 2 ^ 32, r size, r head, r tail⟩

def Block.logRing (b : Block) (j : Nat) : Ring :=
  b.ring Reg.FS_C_LOG_BASE_LO Reg.FS_C_LOG_BASE_HI Reg.FS_C_LOG_SIZE Reg.FS_C_LOG_HEAD Reg.FS_C_LOG_TAIL j

def Block.evRing (b : Block) : Ring :=
  b.ring Reg.DXS_SS_EV_BASE_LO Reg.DXS_SS_EV_BASE_HI Reg.DXS_SS_EV_SIZE Reg.DXS_SS_EV_HEAD Reg.DXS_SS_EV_TAIL 0

def Block.vlogRing (b : Block) : Ring :=
  b.ring Reg.DXS_FQ_VLOG_BASE_LO Reg.DXS_FQ_VLOG_BASE_HI Reg.DXS_FQ_VLOG_SIZE Reg.DXS_FQ_VLOG_HEAD Reg.DXS_FQ_VLOG_TAIL 0

def Block.trendRing (b : Block) : Ring :=
  b.ring Reg.BN_TREND_BASE_LO Reg.BN_TREND_BASE_HI Reg.BN_TREND_SIZE Reg.BN_TREND_HEAD Reg.BN_TREND_TAIL 0

def Block.propRing (b : Block) : Ring :=
  b.ring Reg.BN_PROP_BASE_LO Reg.BN_PROP_BASE_HI Reg.BN_PROP_SIZE Reg.BN_PROP_HEAD Reg.BN_PROP_TAIL 0

/-- The bytes a ring holds. -/
def Ring.used (r : Ring) : Nat := (r.head + r.size - r.tail % r.size) % r.size

/-- The bytes a ring has room for, when the producer never reaches the consumer. -/
def Ring.room (r : Ring) (unit : Nat) : Nat := r.size - unit - r.used

/-- Bytes written into a ring from an offset, wrapping at its end. -/
def Block.ringWrite (b : Block) (c : Nat) (r : Ring) (bs : List Byte) : Block :=
  let o := r.head % r.size
  let n := min bs.length (r.size - o)
  (b.hostWrite c (r.base + o) (bs.take n)).on (decide (n < bs.length)) fun b =>
    b.updHub fun h => { h with host := memWriteN h.host r.base (bs.drop n) }

/-- The bytes of a ring from an offset. -/
def Block.ringRead (b : Block) (r : Ring) (at_ n : Nat) : List Byte :=
  (List.range n).map fun i => memRead b.hub.host (r.base + (at_ + i) % r.size)

/-- Puts bytes into a ring and advances its producer register. -/
def Block.ringPut (b : Block) (c : Nat) (r : Ring) (headReg idx : Nat) (bs : List Byte) : Block :=
  (b.ringWrite c r bs).hw .dxs headReg idx (w32 ((r.head + bs.length) % r.size))

/-! ### Hall times in structures (R15, R244) -/

/-- An HT group of 12 bytes. -/
def htBytes (t : Nat) : List Byte :=
  leBytes 4 (htNs t % 1000000000) ++ leBytes 4 (htSec t) ++ leBytes 4 ((htSec t / 2 ^ 32 % 65536) * 65536 + htFrac t)

def htOfBytes (bs : List Byte) (i : Nat) : Nat := htOfWords (w32 (leAt bs i 4)) (w32 (leAt bs (i + 4) 4)) (w32 (leAt bs (i + 8) 4))

/-- "No deadline": all bits 1. -/
def htNone (bs : List Byte) (i : Nat) : Bool := leAt bs i 12 == 2 ^ 96 - 1

def deadlineBytes : Option Nat → List Byte
  | some t => htBytes t
  | none => leBytes 12 (2 ^ 96 - 1)

def deadlineOf (bs : List Byte) (i : Nat) : Option Nat := if htNone bs i then none else some (htOfBytes bs i)

/-- A stamp of 64 bits: [63:16] bits [47:0] of N, [15:0] fraction. -/
def stamp64 (t : Nat) : Nat := t % 2 ^ 64

/-! ### Events (R264) -/

def Ev.end_ : Nat := 1
def Ev.cancelResult : Nat := 2
def Ev.parked : Nat := 3
def Ev.evicted : Nat := 4
def Ev.resumed : Nat := 5
def Ev.lost : Nat := 6
/-- The RESTART event of R296; R264 gives it no code (log entry 9, PRESUMED). -/
def Ev.restart : Nat := 7

def eventBytes (evt code job handle sn : Nat) (stamp : Nat) (value : Nat) : List Byte :=
  leBytes 1 evt ++ leBytes 1 code ++ leBytes 1 job ++ leBytes 1 0 ++ leBytes 4 handle ++ leBytes 8 sn ++ htBytes stamp ++
    leBytes 4 value

/-- The space in the event ring that decisions handed over have reserved (R264). -/
def Block.evReserved (b : Block) : Nat :=
  sumN (b.hub.jobs.map fun e => match e.2.dec with
    | some d => if d.dseq.isSome then d.need else 0
    | none => 0)

/-- The events that wait enter the ring, as far as it has room that no decision has reserved and its channel runs. -/
def Block.pumpEvents (b : Block) : Nat → Block
  | 0 => b
  | n + 1 =>
    match b.hub.ss.evq with
    | [] => b
    | e :: es =>
      if b.evRing.room 32 ≥ b.evReserved + 32 && b.chanAble .dxs chanEvent then
        ((b.ringPut chanEvent b.evRing Reg.DXS_SS_EV_HEAD 0 e).updSs fun u => { u with evq := es }).pumpEvents n
      else b

/-- The acting root posts an event that belongs to no decision. Without room it waits (log entry 172, DESIGN CHOICE). -/
def Block.postEvent (b : Block) (e : List Byte) : Block :=
  if b.actingRoot then (b.updSs fun u => { u with evq := u.evq ++ [e] }).pumpEvents (b.hub.ss.evq.length + 1) else b

/-! ### Deferred pauses (R226) -/

def Pstat.hostPause : Nat := 1
def Pstat.oppLate : Nat := 2
def Pstat.applyLate : Nat := 3
def Pstat.seedLate : Nat := 4
def Pstat.assert : Nat := 5
def Pstat.applyRefused : Nat := 6
def Pstat.replayEnd : Nat := 7
def Pstat.halted : Nat := 16
def Pstat.ipf : Nat := 17
def Pstat.order : Nat := 18
def Pstat.gathUndef : Nat := 19
def Pstat.noSess : Nat := 20
def Pstat.recFull : Nat := 21
def Pstat.diverge : Nat := 22
def Pstat.logBad : Nat := 23
def Pstat.pcRange : Nat := 24

/-- The first code raised is kept. -/
def Block.deferPause (b : Block) (j code : Nat) : Block :=
  b.updJob j fun x => { x with deferred := if x.deferred == 0 then code else x.deferred }

/-! ### REMOTE transactions of the origin (R315, R316, R318) -/

def maxRemote : Nat := 64

/-! ### Parts in service (R292) -/

def Vk.faulty : Nat := 1
def Vk.disputed : Nat := 2
def Vk.reinstate : Nat := 3
def Vk.seal : Nat := 4
def Vk.fallback : Nat := 5
def Vk.jobLost : Nat := 6
def Vk.jobFault : Nat := 7

def sinceReset (_ : Nat) : Nat := 0

/-- A DX-T bound to no job is, inside a voter, its die record number with 65,536 added (log entry 14, DESIGN CHOICE). -/
def unboundBase : Nat := 65536

def Part.dxt (idx : Nat) : Part := ⟨false, idx⟩
def Part.dxs (n : Nat) : Part := ⟨true, n⟩

/-- The part that a die record is. -/
def Block.partOfRec (b : Block) (rec : Nat) : Part :=
  let d := b.topo.die rec
  if d.bound then Part.dxt d.idx else Part.dxt (unboundBase + rec)

/-- The die record of a DX-T part. -/
def Block.recOfPart (b : Block) (p : Part) : Option Nat :=
  if p.isNode then none
  else if p.num ≥ unboundBase then some (p.num - unboundBase)
  else b.recOf p.num

/-- The first die record bound to no job that carries a logical index and meets a test. -/
def Block.unboundRec (b : Block) (idx : Nat) (p : Nat → Bool) : Option Nat :=
  (List.range b.topo.dies.length).find? fun r => !(b.topo.die r).bound && (b.topo.die r).idx == idx && p r

/-- The die that a logical index names: the one bound under it, else one bound to no job whose record carries it (log entry 179,
DESIGN CHOICE). -/
def Block.dieNamed (b : Block) (idx : Nat) : Part :=
  match b.recOf idx, b.unboundRec idx fun _ => true with
  | none, some r => Part.dxt (unboundBase + r)
  | _, _ => Part.dxt idx

/-- The logical index that a part's die record carries; a node's number. -/
def Block.subjOf (b : Block) (p : Part) : Nat :=
  if !p.isNode && p.num ≥ unboundBase then (b.topo.die (p.num - unboundBase)).idx else p.num

/-- The newest entry that settles whether a part is in service; for a logical index, only what came after its last rebinding. -/
def Block.newest (b : Block) (p : Part) : Option Verdict :=
  b.hub.fq.log.find? fun v => v.part == some p && (v.kind == Vk.faulty || v.kind == Vk.reinstate) &&
    (p.isNode || decide (nget sinceReset b.hub.fq.since p.num < v.seq))

/-- A part is FAULTY in the log; a die bound to no job by the newest entry on its position. -/
def Block.faulty (b : Block) (p : Part) : Bool :=
  if !p.isNode && p.num ≥ unboundBase then b.hub.fq.badRecs.contains (p.num - unboundBase)
  else
    match b.newest p with
    | some v => v.kind == Vk.faulty
    | none => false

/-- The table without the DX-S48 nodes that the log holds faulty. -/
def Block.liveTopo (b : Block) : Topo :=
  { b.topo with nodes := b.topo.nodes.filter fun r => r.num == b.dxs.nodeNo || !b.faulty ⟨true, r.num⟩ }

/-- The DOWN port of the node towards a REMOTE target beneath it, by a path of nodes in service. -/
def Block.portTowards (b : Block) (tkind target : Nat) : Option Nat :=
  let t := b.liveTopo
  let n := b.dxs.nodeNo
  let toRec (r : Nat) : Option Nat := (List.range 48).find? fun p => (t.beneath topoDepth n p).contains r
  match tkind with
  | 0 => (b.recOf target).bind toRec
  | 1 => (b.recAtPos target).bind toRec
  | _ => (List.range 48).find? fun p => (t.nodesBeneath topoDepth n p).contains target

/-- The port a REMOTE sheet for a target leaves by: towards the target beneath the node, a root's CROSS port, or the first
port of REFS that is UP. -/
def Block.routeRemote (b : Block) (tkind target : Nat) : Option Nat :=
  match b.portTowards tkind target with
  | some p => some p
  | none =>
    if isRoot b.dxs.role then
      if tkind == 2 && target == 2 then b.dxs.quorum else b.crossPort
    else
      let w := b.reg .dxs Reg.TT_REFS
      [fld w 5 0, fld w 13 8].find? fun p => p < 48 && b.upPort .dxs p

def reqBytes (t : RemTx) : List Byte :=
  leBytes 1 t.op ++ leBytes 1 t.tkind ++ leBytes 2 t.count ++ leBytes 4 t.target ++ leBytes 4 t.addr ++ leBytes 4 0 ++
    (if t.op == 1 then [] else t.words.flatMap fun w => leBytes 4 w.toNat)

/-- Sends the waiting transactions that may go: at most 64 outstanding, one to any one target, in issue order. One to the
node itself does not leave it. -/
def Block.pumpRemote (b : Block) : Block :=
  b.each (b.hub.bn.rem.filter fun t => t.sentAt.isNone) fun b t =>
    let out := b.hub.bn.rem.filter fun x => x.sentAt.isSome
    let same (x : RemTx) := x.tkind == t.tkind && x.target == t.target
    let first := (b.hub.bn.rem.find? same).map fun x => x.tag
    if out.length < maxRemote && !(out.any same) && first == some t.tag then
      let b := b.updBn fun n =>
        { n with rem := n.rem.map fun x => if x.tag == t.tag && x.sentAt.isNone then { x with sentAt := some b.now } else x }
      if t.tkind == 2 && t.target == b.dxs.nodeNo then
        b.updNode .dxs fun n =>
          { n with rxSheets := n.rxSheets ++ (sheetsOf tRemoteReq t.tag b.dxs.nodeNo false (reqBytes t)).map fun s => ⟨ownPort, s, false⟩ }
      else match b.routeRemote t.tkind t.target with
      | some p => b.sendMessage .dxs p tRemoteReq t.tag b.dxs.nodeNo false (reqBytes t)
      | none => b
    else b

/-- Queues a transaction under the next tag. -/
def Block.remoteIssue (b : Block) (op tkind target addr : Nat) (count : Nat) (ws : List Word) (use : RemUse) : Block :=
  let t := b.hub.bn.remTag
  (b.updBn fun n =>
    { n with remTag := (t + 1) % 65536, rem := n.rem ++ [⟨t, op, tkind, target, addr, count, ws, use, none, none, none⟩] }).pumpRemote

/-- The words of 32-bit registers in bytes. -/
def wordsOf : List Byte → List Word
  | a :: b :: c :: d :: r => w32 (ofLe [a, b, c, d]) :: wordsOf r
  | _ => []

/-- A die record of the table in its 16 bytes (R321). -/
def dieRecBytes (d : DieRec) : List Byte :=
  leBytes 4 d.pos ++ leBytes 2 d.idx ++ leBytes 1 d.job ++ leBytes 1 (b2n d.bound) ++ leBytes 2 d.buddy ++ leBytes 6 0

/-! ### Copies between binders (R170, R192, R204, R219, R322)

The rules have the binder copy what no register holds, and do not say by which REMOTE writes. In the model a copy is a series of
REMOTE writes at an offset of the binder's page that no register has: four words (what it is, its key, its length, the place of this
piece), then up to 51 words of it (log entry 120, DESIGN CHOICE). -/

def copyAddr : Nat := 0xC800

def copyPiece : Nat := 204

/-- What a copy is: a gathering definition, its end, a program image, the end of a job, a table or slice, a die record, a job's
SESS flag, and a job image with the shift of its deadlines. -/
def Ck.gdef : Nat := 1
def Ck.gend : Nat := 2
def Ck.prog : Nat := 3
def Ck.jend : Nat := 4
def Ck.topo : Nat := 5
def Ck.die : Nat := 6
def Ck.sess : Nat := 7
def Ck.image : Nat := 8

/-- Queues the writes of a copy to a node. -/
def Block.copyOne (b : Block) (use : RemUse) (node kind key : Nat) (bs : List Byte) : Block :=
  b.each (List.range (max 1 ((bs.length + copyPiece - 1) / copyPiece))) fun b i =>
    let at_ := i * copyPiece
    let ws := wordsOf ((slice bs at_ (min copyPiece (bs.length - at_)) ++ leBytes 3 0).take
      ((min copyPiece (bs.length - at_) + 3) / 4 * 4))
    b.remoteIssue 2 2 node copyAddr (4 + ws.length) ([w32 kind, w32 key, w32 bs.length, w32 at_] ++ ws) use

/-- The other nodes of the table. -/
def Block.otherNodes (b : Block) : List Nat := (b.topo.nodes.map NodeRec.num).filter fun n => n != b.dxs.nodeNo

/-- A copy to a set of nodes. -/
def Block.copyTo (b : Block) (use : RemUse) (ns : List Nat) (kind key : Nat) (bs : List Byte) : Block :=
  b.each ns fun b n => b.copyOne use n kind key bs

/-- The other root, where the table holds it. -/
def Block.mirror (b : Block) : List Nat := b.otherNodes.filter fun n => n == b.otherRoot

/-- Writes of a command that are not answered yet. -/
def Block.copying (b : Block) (mb : Nat) : Bool := b.hub.bn.rem.any fun t => t.for_ == .copy mb

def Block.remoteWriteNode (b : Block) (node addr : Nat) (ws : List Word) : Block :=
  b.remoteIssue 2 2 node addr ws.length ws .none

end Sys2Proof.Machine
end

