-- ==== Sys2Proof/Machine/TimeTransfer.lean ====
section
/-! DEFINITION. Time and frequency down the spine (R76 to R98): echo exchanges, intervals and the servo, domains, lock states,
seeds, snapshots, latency measurement, quality marks. -/

namespace Sys2Proof.Machine

/-! ### Echo exchanges (R79 to R84) -/

/-- The reference ports of a node (R79, R114): A and B of a DX-T, REFS of a tier node, CROSS of a root that does not act. -/
def Block.refPorts (b : Block) (sd : Side) : List Nat :=
  match sd with
  | .dxt => [0, 1]
  | .dxs => if b.actingRoot then [] else ((b.refPort .dxs 0).toList ++ (b.refPort .dxs 1).toList)

def LinkState.keepsTime (l : LinkState) : Bool := l == .up || l == .timeOnly

/-- Pairs between two ECHO_REQs of a port (R79). -/
def echoPairs : Nat := 250

/-- Whether a port may send an ECHO_REQ: never on a DOWN-role port (R79). -/
def Block.mayAsk (b : Block) (sd : Side) (p : Nat) : Bool := !(sd == .dxs && b.portRole p == roleDown)

def echoReqSend (sd : Side) (p : Nat) (b : Block) : Block :=
  let q := b.port sd p
  if (b.refPorts sd).contains p && b.mayAsk sd p && q.st.keepsTime && q.tx.pair ≥ q.echo.reqAt then
    (b.offer sd p (mkMark .echoReq q.echo.seq 0 0 0)).updEcho sd p fun e =>
      { e with seq := (e.seq + 1) % 65536, reqAt := q.tx.pair + echoPairs }
  else b

/-- A DX-S48 answers every ECHO_REQ whose t2 its converter measured; a DX-T discards it (R79, R130). -/
def echoReqReceive (sd : Side) (b : Block) : Block :=
  b.withMark sd .echoReq fun r b =>
    if sd == .dxs && !r.bad && (b.port sd r.port).st.keepsTime then
      b.offerQ sd r.port ⟨mkMark .echoRsp r.mark.obj.toNat 0 0 0, r.time⟩
    else b

/-- 32,000 ns in 2^-16 ns (R80). -/
def echoLostAfter : Nat := 32000 * 65536

/-- R84: θ and the mean path delay of an exchange, in 2^-16 ns. -/
def exchange (own t1 t4 : Nat) (m : Mark) (asym : Int) : Int × Int :=
  let turn : Int := ((m.tag.toNat * 65536 + m.arg.toNat) * 16 : Nat)
  let t3 : Int := expandStamp own m.stamp
  let t2 := t3 - turn
  (divR (((t4 : Int) - t3) - (t2 - t1) - asym) 2, divR (((t4 : Int) - t1) - turn) 2)

/-- CABLE_ASYM in effect of a port in 2^-16 ns (R83). -/
def Block.cableAsym (b : Block) (sd : Side) (p : Nat) : Int := psTo16 (sx 16 (b.rf sd Reg.TT_P_CABLE_ASYM 15 0 p))

/-- An ECHO_RSP that answers an outstanding request completes its exchange; a late one is lost; a stamp of a bad calibration
keeps nothing (R80, R84, R130). -/
def echoRspReceive (sd : Side) (b : Block) : Block :=
  b.withMark sd .echoRsp fun r b =>
    let p := r.port
    let e := (b.port sd p).echo
    match takeFirst (fun (x : Nat × Nat) => x.1 == r.mark.obj.toNat) e.out with
    | none => b
    | some ((_, t1), rest) =>
      let b := b.updEcho sd p fun e => { e with out := rest }
      if r.time ≥ t1 + echoLostAfter then b.bump sd Reg.TT_P_ECHO_LOST_CNT p
      else if r.bad then b.bump sd Reg.TT_P_ECHO_GATE_CNT p
      else
        let x := exchange (b.ht sd) t1 r.time r.mark e.asym
        let c := b.clk sd
        b.updEcho sd p fun e =>
          { e with got := e.got ++ [(if c.seeded || c.htValid then some x.1 else none, x.2)] }

def echoLost (sd : Side) (p : Nat) (b : Block) : Block :=
  let e := (b.port sd p).echo
  let late := e.out.filter fun x => x.2 + echoLostAfter ≤ b.ht sd
  (b.updEcho sd p fun e => { e with out := e.out.filter fun x => !(x.2 + echoLostAfter ≤ b.ht sd) }).bump sd
    Reg.TT_P_ECHO_LOST_CNT p late.length

/-! ### Means -/

def meanI (l : List Int) : Int := if l.isEmpty then 0 else divR (sumI l) l.length

def insertSorted (x : Int) : List Int → List Int
  | [] => [x]
  | y :: ys => if x ≤ y then x :: y :: ys else y :: insertSorted x ys

def sortI (l : List Int) : List Int := l.foldr insertSorted []

/-- The median; of an even number of values, the mean of the two in the middle. -/
def medianI (l : List Int) : Int :=
  let s := sortI l
  let n := s.length
  if n = 0 then 0
  else if n % 2 = 1 then s.getD (n / 2) 0
  else divR (s.getD (n / 2 - 1) 0 + s.getD (n / 2) 0) 2

/-! ### Intervals (R85) -/

/-- Whether a value in 2^-16 ns is at most `lim` ps in size. -/
def withinPs (v : Int) (lim : Nat) : Bool := decide (v.natAbs * 1000 ≤ lim * 65536)

/-- Whether a value in 2^-16 ns is more than `lim` ns in size. -/
def beyondNs (v : Int) (lim : Nat) : Bool := decide (v.natAbs > lim * 65536)

/-- The exchanges an interval keeps, given its gate in ps. After four invalid intervals in a row every interval goes without a gate
until one is valid: each of them is the first after four such (log entry 156, DEDUCED). -/
def keptOf (e : Echo) (gatePs : Nat) : List (Option Int × Int) :=
  if e.gateOff || e.invalidRun ≥ 4 then e.got else e.got.filter fun x => withinPs (x.2 - e.refMpd) gatePs

/-- θ of an interval: known when every kept exchange has one. -/
def thetaOf (kept : List (Option Int × Int)) : Option Int :=
  if kept.all fun x => x.1.isSome then some (meanI (kept.map fun x => x.1.getD 0)) else none

/-- The interval of a port closed: whether it is valid, its θ, and the port's new echo state. An ungated interval takes the
median as the reference delay, a gated one that is valid its mean. -/
def closeEcho (e : Echo) (gatePs : Nat) : Echo × Bool × Option Int :=
  let kept := keptOf e gatePs
  let open_ := e.gateOff || decide (e.invalidRun ≥ 4)
  let ref := if open_ && !e.got.isEmpty then medianI (e.got.map Prod.snd) else e.refMpd
  let e := { e with got := [], gateOff := false, kept := min kept.length 16 }
  if kept.length ≥ 8 then
    let mpd := meanI (kept.map Prod.snd)
    let th := thetaOf kept
    ({ e with refMpd := if open_ then ref else mpd, mpd := mpd, valid := true, validOnce := true, invalidRun := 0, theta := th.getD e.theta,
              thetas := match th with
                | some t => lastN 16 (e.thetas ++ [t])
                | none => e.thetas }, true, th)
  else ({ e with refMpd := ref, valid := false, invalidRun := e.invalidRun + 1 }, false, none)

/-! ### The frequency word and the servo (R78, R86) -/

/-- FW_LIM scaled to the frequency word's 48 fraction bits. -/
def Block.fwLim48 (b : Block) (sd : Side) : Int := (b.reg sd Reg.TT_FW_LIM).toNat * 65536

def Block.setFw48 (b : Block) (sd : Side) (v : Int) : Block :=
  let lim := b.fwLim48 sd
  b.updClk sd fun c => { c with fw48 := clampI lim v }

def Block.servoMode (b : Block) (sd : Side) : Bool := wbit (b.reg sd Reg.TT_CTRL) 3

/-- A lock rule sets the frequency word; with SERVO = 1 the word stays FW_SW (R86). -/
def Block.loadFw48 (b : Block) (sd : Side) (v : Int) : Block := if b.servoMode sd then b else b.setFw48 sd v

/-- The mean of the last 16 updates (FW_AVG). -/
def fwAverage (h : List Int) : Int := if h.isEmpty then 0 else divR (sumI h) (h.length * 65536) * 65536

/-- Notes an update of the frequency word. -/
def Clock.noteUpdate (c : Clock) : Clock :=
  let h := lastN 16 (c.fwHist ++ [c.fw48])
  { c with fwHist := h, fwAvg := fwAverage h }

/-- R86: the servo's update for an error `e` in 2^-16 ns. -/
def servoStep (iTerm e : Int) (kp ki : Nat) (lim : Int) : Int × Int :=
  let fw := -(e >>> kp) - ((iTerm + e) >>> ki)
  let i := if fw.natAbs ≤ lim.natAbs then iTerm + e else iTerm
  (clampI lim fw, i)

def Block.servoUpdate (b : Block) (sd : Side) (e : Int) : Block :=
  let cfg := b.reg sd Reg.TT_SERVO_CFG
  let lim : Int := (b.reg sd Reg.TT_FW_LIM).toNat
  b.updClk sd fun c =>
    let (fw, i) := servoStep c.iTerm e (fld cfg 3 0) (fld cfg 11 8) lim
    { c with fw48 := fw * 65536, iTerm := i }.noteUpdate

/-! ### Fitness and rank (R88) -/

def Block.domPort (b : Block) (sd : Side) (d : Nat) : Option Nat := b.refPort sd d

/-- Whether a domain is fit; `strict` asks for the valid-interval condition too. -/
def Block.fit (b : Block) (sd : Side) (d : Nat) (strict : Bool) : Bool :=
  match b.domPort sd d with
  | none => false
  | some p =>
    let q := b.port sd p
    q.st.keepsTime && (q.rx.lock == 3 || q.rx.lock == 4) && q.rx.missed == 0 &&
      (!strict || (q.echo.validOnce && q.echo.invalidRun < 4))

/-- The rank of a domain: 0 while its last QL mark reports LOCKED and is not stale. -/
def Block.rank (b : Block) (sd : Side) (d : Nat) : Nat :=
  match b.domPort sd d with
  | none => 1
  | some p => let e := (b.port sd p).echo
    if e.qlLock == 3 && !e.qlStale then 0 else 1

/-- The fit domains of the lowest rank present. -/
def Block.candidates (b : Block) (sd : Side) (strict : Bool) : List Nat :=
  let f := [0, 1].filter fun d => b.fit sd d strict
  let r0 := f.filter fun d => b.rank sd d == 0
  if r0.isEmpty then f else r0

/-! ### Lock state changes (R92) -/

def Block.echoOf (b : Block) (sd : Side) (d : Nat) : Echo :=
  match b.domPort sd d with
  | some p => (b.port sd p).echo
  | none => Echo.reset

def Block.updDom (b : Block) (sd : Side) (d : Nat) (f : Echo → Echo) : Block :=
  match b.domPort sd d with
  | some p => b.updEcho sd p f
  | none => b

def Block.clearBiases (b : Block) (sd : Side) : Block :=
  (b.updDom sd 0 fun e => { e with bias := 0 }).updDom sd 1 fun e => { e with bias := 0 }

/-- The counters of the lock rules start afresh. -/
def Clock.clearRuns (c : Clock) : Clock :=
  { c with inWin := 0, outWin := 0, overStep := 0, backIn := 0, backStep := 0, noFit := 0, lastTheta := none }

/-- Entry to ACQUIRE from a valid HT (RELOAD): HT_VALID and SEEDED clear, biases 0; a bound DX-T raises TIME_RANGE (R92,
R94). -/
def Block.reload (b : Block) (sd : Side) : Block :=
  let b := (b.clearBiases sd).updClk sd fun c =>
    { c.clearRuns with lock := .acquire, htValid := false, seeded := false, cuRun := 0, hold := false }
  let b := b.bump sd Reg.TT_RELOAD_CNT
  if sd == .dxt && b.dxt.step.st != .unbound then b.raiseDxt Cause.timeRange else b

/-- The lock states from the best to the worst (R96). -/
def lockOrder (c : Nat) : Nat :=
  match c with
  | 3 => 0
  | 4 => 1
  | 2 => 2
  | 1 => 3
  | _ => 4

def worseLock (a c : Nat) : Nat := if lockOrder a ≥ lockOrder c then a else c

/-- A QL mark (R51, R95). -/
def qlMark (cls ssm lock : Nat) (t : Nat) : Mark := mkMark .ql (cls + ssm * 256) 0 t lock

/-- The QL mark a DX-S48 sends of its own in OVERCAST: the last quality received, OVERCAST or worse (R96). -/
def Block.ownQl (b : Block) : Mark :=
  qlMark b.dxs.qlClass b.dxs.qlSsm (worseLock 4 (b.clk .dxs).lock.code) (b.ht .dxs)

/-- Entry to OVERCAST: FW_AVG in effect, DCO frozen, QL sent at once by a DX-S48 (R92, R96). R77 ends the freeze of the missed
column here and R92 freezes the DCO for OVERCAST: HOLD stays 1 (log entry 155, DEDUCED). Without a single update there is no
FW_AVG, and the word stays (log entry 159, DESIGN CHOICE). -/
def Block.enterOvercast (b : Block) (sd : Side) : Block :=
  let b := if (b.clk sd).fwHist.isEmpty then b else b.loadFw48 sd (b.clk sd).fwAvg
  let b := b.updClk sd fun c => { c.clearRuns with lock := .overcast, hold := true }
  let b := b.bump sd Reg.TT_OVERCAST_CNT
  if sd == .dxs then
    { b.offerAll .dxs (b.portsOf roleDown) b.ownQl with dxs := { (b.offerAll .dxs (b.portsOf roleDown) b.ownQl).dxs with
      qlTxAt := b.now } }
  else b

/-- Entry to COARSE from ACQUIRE: the frequency word from two θ, HT loaded, HT_VALID (R92). -/
def Block.enterCoarse (b : Block) (sd : Side) (t1 t2 : Int) : Block :=
  let fw := clampI (b.reg sd Reg.TT_FW_LIM).toNat (divR (-(t2 - t1) * 128) 125)
  let ki := fld (b.reg sd Reg.TT_SERVO_CFG) 11 8
  (b.loadFw48 sd (fw * 65536)).updClk sd fun c =>
    { c.clearRuns with lock := .coarse, htValid := true, iTerm := -(fw * (2 ^ ki : Nat)),
                       ht := htWrap ((c.ht : Int) - t2 * 2 ^ 32) }

/-- The servo goes on from the frequency word in effect: the integral term is preset to match (R92, log entry 132). -/
def Block.resumeServo (b : Block) (sd : Side) : Block :=
  let ki := fld (b.reg sd Reg.TT_SERVO_CFG) 11 8
  b.updClk sd fun c => { c with iTerm := -(c.fw48 / 65536 * (2 ^ ki : Nat)) }

/-- The clean-up loop counts as locked after 1,024 columns within ±50 ps (R92). -/
def Clock.cuLocked (c : Clock) : Bool := c.cuRun ≥ 1024

/-- The lock rules at a valid interval of the selected domain with its θ. For COARSE out of OVERCAST each of the two intervals lies
within STEP_LIM and not within LOCK_WIN. -/
def Block.lockOnValid (b : Block) (sd : Side) (th : Int) : Block :=
  let c := b.clk sd
  let cfg := b.reg sd Reg.TT_LOCK_CFG
  let e := th - (b.echoOf sd c.sel).bias
  let inW := withinPs e (fld cfg 11 0)
  let outW := !withinPs e (fld cfg 23 12)
  let beyond := beyondNs e (b.rf sd Reg.TT_STEP_LIM 15 0)
  match c.lock with
  | .free => b
  | .acquire =>
    match c.lastTheta with
    | some t1 => if c.cuLocked && c.seeded then b.enterCoarse sd t1 th
                 else b.updClk sd fun c => { c with lastTheta := some th }
    | none => b.updClk sd fun c => { c with lastTheta := some th }
  | .coarse =>
    let n := if inW then c.inWin + 1 else 0
    let o := if beyond then c.overStep + 1 else 0
    if o ≥ 4 then b.reload sd
    else if n ≥ fld cfg 31 24 && c.cuLocked then b.updClk sd fun c => { c.clearRuns with lock := .locked, lockedAt := b.now }
    else b.updClk sd fun c => { c with inWin := n, overStep := o }
  | .locked =>
    let n := if outW then c.outWin + 1 else 0
    let o := if beyond then c.overStep + 1 else 0
    if o ≥ 4 then b.reload sd
    else if n ≥ 4 then b.updClk sd fun c => { c.clearRuns with lock := .coarse, overStep := o }
    else b.updClk sd fun c => { c with outWin := n, overStep := o }
  | .overcast =>
    let fit := b.fit sd c.sel true
    let n := if inW && fit then c.backIn + 1 else 0
    let s := if !beyond && !inW && fit then c.backStep + 1 else 0
    let o := if beyond then c.overStep + 1 else 0
    if o ≥ 4 then b.reload sd
    else if n ≥ 2 then
      (b.resumeServo sd).updClk sd fun c => { c.clearRuns with lock := .locked, hold := false, lockedAt := b.now }
    else if s ≥ 2 then (b.resumeServo sd).updClk sd fun c => { c.clearRuns with lock := .coarse, hold := false }
    else b.updClk sd fun c => { c with backIn := n, backStep := s, overStep := o }

/-- Intervals of ACQUIRE with no domain fit: after four the loop is released (R92). -/
def Block.countNoFit (b : Block) (sd : Side) : Block :=
  if (b.clk sd).lock != .acquire then b
  else if (b.candidates sd true).isEmpty then
    if (b.clk sd).noFit + 1 ≥ 4 then b.updClk sd fun c => { c.clearRuns with lock := .free }
    else b.updClk sd fun c => { c with noFit := c.noFit + 1 }
  else b.updClk sd fun c => { c with noFit := 0 }

/-- Whether the servo of R86 runs: in COARSE and LOCKED, with SERVO = 0. -/
def Block.servoRuns (b : Block) (sd : Side) : Bool :=
  !b.servoMode sd && ((b.clk sd).lock == .coarse || (b.clk sd).lock == .locked)

/-- When the interval after one that closes now may close: the intervals keep their grid of 64,000 ns. -/
def nextClose (closeAt now : Nat) : Nat := now + intervalNs - (now - closeAt) % intervalNs

/-- The close of an interval of a reference port, 64,000 ns after the one before (R85, R86, R92); a CABLE_ASYM changed meanwhile
applies from here (R83). An invalid interval leaves the counts of consecutive valid intervals as they are, and ends only the pair
of ACQUIRE (log entry 158, DEDUCED). -/
def intervalClose (sd : Side) (p : Nat) (b : Block) : Block :=
  if !(b.refPorts sd).contains p || b.now < (b.port sd p).echo.closeAt then b
  else
    let asym := b.cableAsym sd p
    let b := b.updEcho sd p fun e => { e with asym := asym, closeAt := nextClose e.closeAt b.now }
    let e := (b.port sd p).echo
    let r := closeEcho e (fld (b.reg sd Reg.TT_SERVO_CFG) 31 16)
    let gone := e.got.length - (keptOf e (fld (b.reg sd Reg.TT_SERVO_CFG) 31 16)).length
    let b := (b.updEcho sd p fun _ => r.1).bump sd Reg.TT_P_ECHO_GATE_CNT p gone
    if b.refPort sd (b.clk sd).sel != some p then b
    else
      let b := b.countNoFit sd
      match r.2.1, r.2.2 with
      | true, some th =>
        let b := if b.servoRuns sd then b.servoUpdate sd (th - (b.echoOf sd (b.clk sd).sel).bias) else b
        b.lockOnValid sd th
      | _, _ => b.updClk sd fun c => { c with lastTheta := none }

/-! ### Domain selection (R89 to R91) -/

/-- The mean θ of a domain over its last 16 valid intervals. -/
def Echo.meanTheta (e : Echo) : Int := meanI e.thetas

/-- The bias that a switch from `d` to `d'` sets (R90). -/
def Block.switchBias (b : Block) (sd : Side) (d d' : Nat) : Int :=
  (b.echoOf sd d').meanTheta - ((b.echoOf sd d).meanTheta - (b.echoOf sd d).bias)

/-- The selection moves to another domain, whose bias absorbs the difference (R90); a node in OVERCAST keeps the bias of the domain
it returns to (R91). -/
def Block.switchTo (b : Block) (sd : Side) (d' : Nat) : Block :=
  let c := b.clk sd
  if c.sel == d' then b
  else
    let bias := b.switchBias sd c.sel d'
    let b := if c.lock != .overcast then b.updDom sd d' fun e => { e with bias := bias } else b
    let b := b.updDom sd c.sel fun e => { e with got := [] }
    (b.updClk sd fun c => { c with sel := d', hold := c.lock == .overcast, lastTheta := none }).bump sd Reg.TT_SWITCH_CNT

/-- When each domain became a candidate. -/
def Block.noteCandidates (b : Block) (sd : Side) (cs : List Nat) : Block :=
  b.each [0, 1] fun b d => b.updDom sd d fun e =>
    { e with candSince := if cs.contains d then (match e.candSince with | some t => some t | none => some b.now) else none }

/-- Whether a domain has been a candidate for WTR intervals of 64,000 ns. -/
def Block.waited (b : Block) (sd : Side) (d : Nat) : Bool :=
  match (b.echoOf sd d).candSince with
  | some t => b.now ≥ t + 64000 * b.rf sd Reg.TT_WTR 15 0
  | none => false

/-- The domain R89 selects among the candidates. -/
def Block.choose (b : Block) (sd : Side) (cs : List Nat) : Option Nat :=
  let ctrl := b.reg sd Reg.TT_CTRL
  let c := b.clk sd
  let man := b2n (wbit ctrl 1)
  if cs.isEmpty then none
  else if wbit ctrl 0 && cs.contains man && (c.sel == man || c.manNow || b.waited sd man) then some man
  else if cs.contains c.sel then
    if !wbit ctrl 0 && wbit ctrl 2 && cs.contains 0 && b.waited sd 0 then some 0 else some c.sel
  else if cs.contains 0 then some 0
  else some 1

/-- The domain that a node in FREE takes: MAN_REF in MANUAL, else the present one, else the first (R89). No domain has returned yet,
so none waits for WTR. -/
def Block.chooseFree (b : Block) (sd : Side) (cs : List Nat) : Option Nat :=
  let ctrl := b.reg sd Reg.TT_CTRL
  let man := b2n (wbit ctrl 1)
  if wbit ctrl 0 && cs.contains man then some man
  else if cs.contains (b.clk sd).sel then some (b.clk sd).sel
  else cs.head?

/-- FREE to ACQUIRE on a domain (R92): the loop locks to it, the biases are 0 (R91), and an HT that the laboratory loaded is valid no
longer (R98). A bound DX-T raises TIME_RANGE (R94). -/
def Block.leaveFree (b : Block) (sd : Side) (d : Nat) : Block :=
  let b := (b.switchTo sd d).clearBiases sd
  let b := if (b.clk sd).htValid then b.bump sd Reg.TT_RELOAD_CNT else b
  let b := b.updClk sd fun c => { c.clearRuns with lock := .acquire, htValid := false, cuRun := 0, hold := false }
  if sd == .dxt && b.dxt.step.st != .unbound then b.raiseDxt Cause.timeRange else b

/-- What follows when no domain is fit (R92). The table names no row for a last partner in COARSE: the state stays (log entry 157,
DEDUCED). -/
def Block.noneFit (b : Block) (sd : Side) : Block :=
  let c := b.clk sd
  let partner := match b.domPort sd c.sel with
    | some p => (b.port sd p).rx.lock
    | none => 0
  match c.lock with
  | .free | .acquire => b
  | .coarse | .locked =>
    if partner == 3 || partner == 4 then b.enterOvercast sd
    else if partner == 0 || partner == 1 then b.reload sd
    else b
  | .overcast => if partner == 0 || partner == 1 then b.reload sd else b

/-- The re-evaluation at a column boundary; `phaseOk`: the clean-up phase error lay within ±50 ps in the column. -/
def domainSelect (sd : Side) (phaseOk : Bool) (b : Block) : Block :=
  if sd == .dxs && (b.actingRoot || b.dxs.role == .memberC) then b
  else
    let b := b.updClk sd fun c => { c with cuRun := if phaseOk then c.cuRun + 1 else 0 }
    let cs := b.candidates sd true
    let b := b.noteCandidates sd cs
    if (b.clk sd).lock == .free then
      match b.chooseFree sd (b.candidates sd false) with
      | some d => b.leaveFree sd d
      | none => b
    else
      let b := match b.choose sd cs with
        | some d => b.switchTo sd d
        | none => b.noneFit sd
      b.updClk sd fun c => { c with manNow := false }

/-! ### Seeds, snapshots, latencies (R82, R93, R98) -/

/-- A write of SEED +0x8 completes the seed: it presets the counter while HT_VALID is 0. -/
def seedWrite (sd : Side) (w : Word) (b : Block) : Block :=
  let b := b.hw sd (Reg.TT_SEED + 8) 0 w
  if (b.clk sd).htValid then b
  else (b.setHT sd (b.regHT sd Reg.TT_SEED 0)).updClk sd fun c => { c with seeded := true, seedAt := b.now }

/-- SEEDED clears 1 s after the last seed write. -/
def seedExpire (sd : Side) (b : Block) : Block :=
  b.updClk sd fun c => if c.seeded && b.now ≥ c.seedAt + 1000000000 then { c with seeded := false } else c

def htSnapshot (sd : Side) (w : Word) (b : Block) : Block :=
  ((b.hw sd Reg.TT_SNAP 0 w).hwHT sd Reg.TT_HT_SNAP 0 (b.ht sd)).bump sd Reg.TT_SNAP_SEQ

/-- The marks of the loop half of a latency measurement. -/
def latencyMarks : Nat := 256

/-- A delay of 2^-16 ns in ps (log entry 3: the rounding is open). -/
def ps16 (v : Int) (n : Nat) : Int := divR (v * 1000) (65536 * n)

/-- The latencies that a measurement gives (R82): TXLAT from the pad-sense edge, RXLAT from the mean loop over 256 marks less TXLAT
and the loopback path delay stated for the PMA. An edge is the cycles from its launch to its sampling edge, and its code. None
where the measurement fails: an edge is missing, or the converter's stamps do not count. -/
def Block.latencies (b : Block) (sd : Side) (cv : Nat) (pad : Option (Nat × Nat)) (loop : List (Nat × Nat)) (path : Nat) :
    Option (Nat × Nat) :=
  match pad with
  | none => none
  | some e =>
    if loop.length != latencyMarks || !b.stampOk sd cv then none
    else
      let tx := ps16 (b.delayOf sd cv e.1 e.2) 1
      let rx := ps16 (sumI (loop.map fun x => b.delayOf sd cv x.1 x.2)) latencyMarks - tx - path
      some (satU 16 tx.toNat, satU 16 rx.toNat)

/-- The latency measurement of a port at reset, in OFF, or in TRAIN before training starts (R82). A failed one raises CAL_FAIL. -/
def latencyMeasure (sd : Side) (p : Nat) (pad : Option (Nat × Nat)) (loop : List (Nat × Nat)) (path : Nat) (b : Block) : Block :=
  let cv := portConv sd p
  if (b.port sd p).st != .train && (b.port sd p).st != .off then b
  else
    let b' := b.measured sd cv (1 + loop.length)
    match b.latencies sd cv pad loop path with
    | some (tx, rx) =>
      b'.updPort sd p fun q => { q with latDone := true, latFail := false, echo := { q.echo with txlat := tx, rxlat := rx } }
    | none => (b'.updPort sd p fun q => { q with latDone := true, latFail := true }).raise sd Cause.calFail p

/-! ### Quality marks (R95 to R97) -/

/-- Whether the QL mark of this port is forwarded: it came on the selected domain; at root B, on CROSS. -/
def Block.qlForwarded (b : Block) (p : Nat) : Bool :=
  !b.actingRoot && b.refPort .dxs (b.clk .dxs).sel == some p

def qlReceive (sd : Side) (b : Block) : Block :=
  b.withMark sd .ql fun r b =>
    let cls := bits r.mark.obj.toNat 7 0
    let ssm := bits r.mark.obj.toNat 11 8
    let lock := bits r.mark.arg.toNat 2 0
    let b := b.updEcho sd r.port fun e =>
      { e with qlClass := cls, qlSsm := ssm, qlLock := lock, qlAt := b.now, qlStale := false }
    match sd with
    | .dxt => b
    | .dxs =>
      let b := { b with dxs := { b.dxs with qlClass := cls, qlSsm := ssm, qlRxAt := b.now } }
      if b.qlForwarded r.port then
        let m := { r.mark with arg := BitVec.ofNat 16 (worseLock lock (b.clk .dxs).lock.code) }
        let b := b.offerAll .dxs (b.portsOf roleDown) m
        { b with dxs := { b.dxs with qlTxAt := b.now } }
      else b

/-- A DX-S48 that has received no QL mark for 2 ms sends its own every millisecond, in whatever state it is (R96). -/
def qlHoldoverSend (b : Block) : Block :=
  if b.actingRoot || b.now < b.dxs.qlRxAt + 2000000 || b.now < b.dxs.qlTxAt + 1000000 then b
  else
    let b := b.offerAll .dxs (b.portsOf roleDown) b.ownQl
    { b with dxs := { b.dxs with qlTxAt := b.now } }

/-- A port that has received no QL mark for 4 ms is stale (R97). -/
def qlStale (sd : Side) (p : Nat) (b : Block) : Block :=
  b.updEcho sd p fun e => if b.now ≥ e.qlAt + 4000000 then { e with qlStale := true } else e

/-! ### The commands -/

def execEchoReqSend (dt : Nat) (sd : Side) (p : Nat) (s : State) : Host.Outcome State Fault Refusal :=
  s.act dt [.regs sd, .ports sd] (echoReqSend sd p)

def execEchoReqReceive (dt : Nat) (sd : Side) (s : State) : Host.Outcome State Fault Refusal :=
  s.act dt (Foot.sided sd [.inbox .dxt] [.regs .dxs, .ports .dxs, .inbox .dxs]) (echoReqReceive sd)

def execEchoRspReceive (dt : Nat) (sd : Side) (s : State) : Host.Outcome State Fault Refusal :=
  s.act dt [.regs sd, .ports sd, .inbox sd] (echoRspReceive sd)

def execEchoLost (dt : Nat) (sd : Side) (p : Nat) (s : State) : Host.Outcome State Fault Refusal :=
  s.act dt [.regs sd, .ports sd] (echoLost sd p)

def execIntervalClose (dt : Nat) (sd : Side) (p : Nat) (s : State) : Host.Outcome State Fault Refusal :=
  s.act dt (Foot.sided sd [.clk .dxt, .regs .dxt, .ports .dxt, .raised .dxt, .lastCause] [.clk .dxs, .regs .dxs,
    .ports .dxs]) (intervalClose sd p)

def execSeedWrite (dt : Nat) (sd : Side) (w : Word) (s : State) : Host.Outcome State Fault Refusal :=
  s.act dt [.clk sd, .regs sd] (seedWrite sd w)

def execSeedExpire (dt : Nat) (sd : Side) (s : State) : Host.Outcome State Fault Refusal :=
  s.act dt [.clk sd] (seedExpire sd)

def execHtSnapshot (dt : Nat) (sd : Side) (w : Word) (s : State) : Host.Outcome State Fault Refusal :=
  s.act dt [.regs sd] (htSnapshot sd w)

def execQlReceive (dt : Nat) (sd : Side) (s : State) : Host.Outcome State Fault Refusal :=
  s.act dt (Foot.sided sd [.ports .dxt, .inbox .dxt] [.regs .dxs, .ports .dxs, .inbox .dxs, .quality]) (qlReceive sd)

def execQlHoldoverSend (dt : Nat) (s : State) : Host.Outcome State Fault Refusal :=
  s.act dt [.regs .dxs, .ports .dxs, .quality] qlHoldoverSend

def execQlStale (dt : Nat) (sd : Side) (p : Nat) (s : State) : Host.Outcome State Fault Refusal :=
  s.act dt [.ports sd] (qlStale sd p)

end Sys2Proof.Machine
end

