-- ==== Sys2Proof/Machine/Measure.lean ====
section
/-! DEFINITION. Converters, stamps and regressions, software measurements (R126 to R141). -/

namespace Sys2Proof.Machine

/-! ### Calibration (R127, R128, R130) -/

/-- The bad calibrations in a row that raise CAL_FAIL. -/
def calFailRun : Nat := 16

/-- Whether a software measurement is open on a converter: no calibration and no new table inside it (R128, R131). -/
def Block.convOpen (b : Block) (sd : Side) (cv : Nat) : Bool :=
  sd == .dxs && b.dxs.sw.st == .running && fld b.dxs.sw.ctrl 1 0 == cv

/-- The two shots end now. The converter places them outside a software measurement and at least 8 ns away from the next edge it
predicts: one commanded there does not take place. -/
def tdcCalibrate (sd : Side) (cv d1 d2 : Nat) (b : Block) : Block :=
  if cv ≥ nConvs sd || b.convOpen sd cv || b.edgeWithin sd cv 8 then b
  else
    let good := calIsGood d1 d2
    let run := (b.conv sd cv).badRun + 1
    let b := b.updConv sd cv fun c => { c with d1 := d1, d2 := d2, calGood := good, badRun := if good then 0 else run, calAt := b.now }
    if good then b
    else
      let b := b.bump sd (tmBase sd + Reg.TM_CV_CALFAIL_CNT) cv
      if run == calFailRun then b.raise sd Cause.calFail else b

/-! ### Linearity (R131, R326, R327) -/

/-- The largest |lin| of a table, in fs at the converter's scale. -/
def Conv.inlFs (c : Conv) (table : List Int) : Nat :=
  let m := maxN (table.map Int.natAbs)
  if c.d2 ≤ c.d1 then 0 else satU 16 (m * 500000 / (65536 * (c.d2 - c.d1)))

/-- Ten intervals of a test, given its interval in seconds. -/
def tenIntervals (sec : Nat) : Nat := 10 * sec * 1000000000

/-- The hits of a complete table. -/
def tableHits : Nat := 65536

/-- The shots of a burst (R131). -/
def burstShots : Nat := 16

def hitsReset (_ : Nat) : Nat := 0

/-- The table that a full count of hits gives, in 2^-16 taps: each tap's share of the hits is its width relative to the mean of the
taps that were hit, and a tap's correction is the sum of the deviations of the taps below it (log entry 164, DESIGN CHOICE). -/
def linTable (hits : NMap Nat) : List Int :=
  let n := ((List.range (lastTap + 1)).filter fun i => nget hitsReset hits i > 0).length
  ((List.range (lastTap + 1)).foldl (fun (acc : Int × List Int) i =>
    (acc.1 + ((nget hitsReset hits i * n : Nat) : Int) - (if nget hitsReset hits i > 0 then (tableHits : Int) else 0),
      acc.2 ++ [acc.1])) (0, [])).2

/-- Whether a converter's burst may run: the first table is built at reset, later ones while the test is enabled (R131, R326). -/
def Block.burstOn (b : Block) (sd : Side) (cv : Nat) : Bool :=
  !(b.conv sd cv).linValid || wbit (b.reg sd (isBase sd + Reg.IS_CTRL)) 3

/-- A burst of at most 16 shots, each with the tap it hit, or a burst given up because it would delay a higher user or stand within
64 ns of a predicted edge. The shot that completes 65,536 hits puts the new table in place; `residual` is what then remains. -/
def linearityBurst (sd : Side) (cv : Nat) (delayed : Bool) (taps : List Nat) (residual : Nat) (b : Block) : Block :=
  if cv ≥ nConvs sd || !b.burstOn sd cv then b
  else if delayed || b.convOpen sd cv || b.edgeWithin sd cv 64 then
    (b.bump sd (isBase sd + Reg.IS_ABANDON_CNT)).updConv sd cv fun c =>
      { c with linStale := c.linStale || b.now ≥ c.linAt + tenIntervals (b.rf sd (isBase sd + Reg.IS_INT) 23 16) }
  else
    let shots := taps.take (min burstShots (tableHits - (b.conv sd cv).shots))
    let b := b.updConv sd cv fun c =>
      { c with shots := c.shots + shots.length,
               hits := shots.foldl (fun h t => nupd hitsReset h (min t lastTap) fun n => n + 1) c.hits }
    if (b.conv sd cv).shots < tableHits then b
    else b.updConv sd cv fun c =>
      let t := linTable c.hits
      { c with lin := t, linValid := true, inlRaw := c.inlFs t, inlCorr := satU 16 residual, shots := 0, hits := [], linAt := b.now,
               linStale := false }

/-! ### Frequency by regression (R135) -/

/-- The nominal period of a 10 MHz input in time-clock periods. -/
def pNom : Nat := 100

/-- Edges of a 10 MHz input in a gate of `ms`. -/
def gateEdges (ms : Nat) : Nat := ms * 10000

/-- Every how many edges are stamped. -/
def gateStep (ms : Nat) : Nat := max 1 ((gateEdges ms + 65535) / 65536)

/-- A raw stamp as a rational number. -/
def ratOf (p : Int × Nat) : Rat := mkRat p.1 p.2

/-- Nearest whole number of a rational, ties away from zero (R4). -/
def roundRat (q : Rat) : Int := roundAway q.num q.den

/-- The sum of rationals. -/
def sumRat (l : List Rat) : Rat := l.foldl (· + ·) 0

/-- The regression of the raw stamps of a gate: the result in 2^-48 ns per ns, and whether it is valid. -/
def regress (ms : Nat) (stamps : List (Int × Nat)) : Int × Bool :=
  let m := gateStep ms
  let n := stamps.length
  let r := stamps.map ratOf
  match r with
  | [] => (0, false)
  | r0 :: _ =>
    let x := r.map fun v => ((roundRat ((v - r0) / (m * pNom : Nat)) : Int) : Rat)
    let xm := sumRat x / n
    let rm := sumRat r / n
    let sxx := sumRat (x.map fun v => (v - xm) * (v - xm))
    if sxx == 0 then (0, false)
    else
      let slope := sumRat ((x.zip r).map fun (a, v) => (a - xm) * (v - rm)) / sxx
      let y := slope / (m * pNom : Nat) - 1
      let resid := (x.zip r).map fun (a, v) => v - (rm + slope * (a - xm))
      let lim : Rat := (pNom : Rat) / 4
      (roundRat (-y * ((2 ^ 48 : Nat) : Rat)),
        decide (n * 10 ≥ gateEdges ms / m * 9) && resid.all fun e => decide (e ≤ lim) && decide (-lim ≤ e))

/-- Whether the converter takes an edge for a gate: every m-th, counted from the first. -/
def takesEdge (ms : Nat) (stamps : List (Int × Nat)) (r : Int × Nat) : Bool :=
  match stamps with
  | [] => true
  | r0 :: _ => roundRat ((ratOf r - ratOf r0) / (pNom : Rat)) % (gateStep ms : Int) == 0

/-- Adds the raw stamp of an edge to the converter's gate: a measurement with no stops. An edge whose stamp does not count, or that
would overlap the measurement of a higher user, is left out (R130, R135, R137). -/
def Block.addGateStamp (b : Block) (cv ms code : Nat) : Block :=
  let c := b.conv .dxs cv
  let r := c.raw b.now code
  if b.stampOk .dxs cv && b.convFree .dxs cv && c.reg.length < 65536 && takesEdge ms c.reg r then
    (b.updConv .dxs cv fun c => { c with reg := c.reg ++ [r] }).measured .dxs cv
  else b

/-! ### Software measurements (R133, R134, R139, R140) -/

def Block.updSw (b : Block) (f : SwMeas → SwMeas) : Block := { b with dxs := { b.dxs with sw := f b.dxs.sw } }

def MeasState.busy : MeasState → Bool
  | .armed => true
  | .running => true
  | .idle => false
  | .done => false
  | .refused => false

/-- The sources of a start, as TDC_EDGE names them: 0 1PPS, 1 10 MHz, 2 pad sense, 3 programmed HT. -/
def startSrc (ctrl : Word) : Nat :=
  match fld ctrl 5 4 with
  | 0 => 3
  | 1 => 0
  | _ => 1

def swGo (w : Word) (b : Block) : Block :=
  let b := b.hw .dxs (tmBase .dxs + Reg.TM_SW_GO) 0 w
  if b.dxs.sw.st.busy then b.bump .dxs (tmBase .dxs + Reg.TM_SW_BUSY_CNT)
  else
    let ctrl := b.reg .dxs (tmBase .dxs + Reg.TM_SW_CTRL)
    let start := b.regHT .dxs (tmBase .dxs + Reg.TM_SW_START) 0
    let late := fld ctrl 5 4 == 0 && start ≤ b.ht .dxs
    b.updSw fun m =>
      { m with st := if late then .refused else .armed, ctrl := ctrl, start := start, edges := [],
               window := (b.reg .dxs (tmBase .dxs + Reg.TM_SW_WINDOW)).toNat }

def fqGo (w : Word) (b : Block) : Block :=
  let b := b.hw .dxs (tmBase .dxs + Reg.TM_FQ_GO) 0 w
  if b.dxs.sw.fq.busy then b.bump .dxs (tmBase .dxs + Reg.TM_SW_BUSY_CNT)
  else
    let ctrl := b.reg .dxs (tmBase .dxs + Reg.TM_FQ_CTRL)
    (b.updSw fun m => { m with fq := .armed, fqCtrl := ctrl, fqFrom := b.now }).updConv .dxs (fld ctrl 1 0) fun c =>
      { c with reg := [] }

/-- The measurement closes. -/
def Block.closeSw (b : Block) : Block :=
  let cv := fld b.dxs.sw.ctrl 1 0
  (b.updSw fun m =>
    { m with st := .done, seq := (m.seq + 1) % 65536, calBad := m.edges.any fun e => e.bad }).measured .dxs cv

/-- The window from the start, in 2^-16 ns. -/
def SwMeas.windowEnd (m : SwMeas) : Nat := m.openAt + m.window * 4 * 65536

/-- The smallest distance of a resolved stop: 2.0 ns. -/
def mergeLimit : Nat := 2 * 65536

/-- A stop edge of the open measurement. -/
def Block.swStop (b : Block) (cv : Nat) (t : Nat) (bad : Bool) : Block :=
  let m := b.dxs.sw
  if t > m.windowEnd then b.closeSw
  else if t < m.openAt then b
  else
    let prev := (b.conv .dxs cv).lastEdge.getD m.openAt
    let merged := t < prev + mergeLimit
    let b := (b.updSw fun m => { m with edges := m.edges ++ [⟨if merged then 0 else t, merged, bad⟩] }).updConv .dxs cv
      fun c => { c with lastEdge := some t }
    let b := if merged then b.bump .dxs (tmBase .dxs + Reg.TM_CV_MERGED_CNT) cv else b
    if b.dxs.sw.edges.length > min 8 (fld m.ctrl 11 8) then b.closeSw else b

/-- The start edge opens the measurement. -/
def Block.swStart (b : Block) (cv : Nat) (t : Nat) (bad : Bool) : Block :=
  (b.updSw fun m => { m with st := .running, openAt := t, edges := [⟨t, false, bad⟩] }).updConv .dxs cv fun c =>
    { c with lastEdge := some t }

/-- The hall time of the first time-clock edge at or after a hall time that has passed (2^-16 ns): the edges lie one step of the
counter apart. -/
def Clock.edgeFrom (c : Clock) (start : Nat) : Nat :=
  let inc : Int := (2 : Int) ^ 48 + c.fw48
  let past : Int := (c.ht : Int) - start * 2 ^ 32
  ((c.ht : Int) - past / inc * inc).toNat / 2 ^ 32

/-- An edge as the software interval measurement sees it; its start waits until the converter is free (R137). A programmed start is
the first time-clock edge at or after SW_START, with that edge's HT for its stamp (R139). -/
def Block.swEdge (b : Block) (cv code src : Nat) : Block :=
  let m := b.dxs.sw
  let bad := !b.stampOk .dxs cv
  if fld m.ctrl 1 0 != cv then b
  else
    match m.st with
    | .armed =>
      if startSrc m.ctrl != src || !b.convFree .dxs cv then b
      else if src == 3 then (if b.ht .dxs ≥ m.start then b.swStart cv ((b.clk .dxs).edgeFrom m.start) bad else b)
      else b.useFree.swStart cv (b.stampNow .dxs cv code) bad
    | .running => if fld m.ctrl 7 6 == src then b.useFree.swStop cv (b.stampNow .dxs cv code) bad else b
    | .idle | .done | .refused => b

/-- An edge as the software frequency measurement sees it. -/
def Block.fqEdge (b : Block) (cv code src : Nat) : Block :=
  let m := b.dxs.sw
  if src == 1 && m.fq.busy && fld m.fqCtrl 1 0 == cv then
    let b := if m.fq == .armed then b.updSw fun m => { m with fq := .running, fqFrom := b.now } else b
    b.addGateStamp cv (fld m.fqCtrl 31 8) code
  else b

def tdcWindowExpire (sd : Side) (cv : Nat) (b : Block) : Block :=
  let m := b.dxs.sw
  if sd == .dxs && m.st == .running && fld m.ctrl 1 0 == cv && b.ht .dxs ≥ m.windowEnd then b.closeSw else b

/-- The gate of the software frequency measurement ends. -/
def freqGateEnd (cv : Nat) (b : Block) : Block :=
  let m := b.dxs.sw
  let ms := fld m.fqCtrl 31 8
  if m.fq.busy && fld m.fqCtrl 1 0 == cv && b.now ≥ m.fqFrom + ms * 1000000 then
    let stamps := (b.conv .dxs cv).reg
    let (f, ok) := regress ms stamps
    (b.updSw fun m =>
      { m with fq := .done, fqFreq := if ok then f else m.fqFreq, fqN := stamps.length, fqSeq := m.fqSeq + 1,
               fqInvalid := !ok }).updConv .dxs cv fun c => { c with reg := [] }
  else b

/-! ### The commands -/

def execTdcCalibrate (dt : Nat) (sd : Side) (cv d1 d2 : Nat) (s : State) : Host.Outcome State Fault Refusal :=
  s.act dt (Foot.sided sd [.regs .dxt, .ports .dxt, .convs .dxt, .raised .dxt, .lastCause] [.regs .dxs, .ports .dxs,
    .inbox .dxs, .convs .dxs, .raised .dxs]) (tdcCalibrate sd cv d1 d2)

def execTdcWindowExpire (dt : Nat) (sd : Side) (cv : Nat) (s : State) : Host.Outcome State Fault Refusal :=
  s.act dt (Foot.sided sd [] [.regs .dxs, .convs .dxs, .meas]) (tdcWindowExpire sd cv)

def execLinearityBurst (dt : Nat) (sd : Side) (cv : Nat) (delayed : Bool) (taps : List Nat) (residual : Nat)
    (s : State) : Host.Outcome State Fault Refusal :=
  s.act dt [.regs sd, .convs sd] (linearityBurst sd cv delayed taps residual)

def execFreqGateEnd (dt cv : Nat) (s : State) : Host.Outcome State Fault Refusal :=
  s.act dt [.convs .dxs, .meas] (freqGateEnd cv)

def execSwGo (dt : Nat) (w : Word) (s : State) : Host.Outcome State Fault Refusal :=
  s.act dt [.regs .dxs, .meas] (swGo w)

def execFqGo (dt : Nat) (w : Word) (s : State) : Host.Outcome State Fault Refusal :=
  s.act dt [.regs .dxs, .convs .dxs, .meas] (fqGo w)

end Sys2Proof.Machine
end

