-- ==== Sys2Proof/Machine/Outputs.lean ====
section
/-! DEFINITION. Time outputs and triggers (R119 to R125). -/

namespace Sys2Proof.Machine

def outReset (_ : Nat) : TimeOut := TimeOut.reset

def Block.outp (b : Block) (sd : Side) (o : Nat) : TimeOut := nget outReset (b.node sd).outs o

def Block.updOut (b : Block) (sd : Side) (o : Nat) (f : TimeOut → TimeOut) : Block :=
  b.updNode sd fun n => { n with outs := nupd outReset n.outs o f }

def nOuts : Side → Nat
  | .dxt => 4
  | .dxs => 9

/-- The window offset of a time-output register. -/
def toReg (sd : Side) (rel : Nat) : Nat := toBase sd + rel

def Block.outMode (b : Block) (sd : Side) (o : Nat) : Nat := b.rf sd (toReg sd Reg.TO_CTRL) 1 0 o

/-- The source of PPS_ALIGN. -/
def Block.outSrc (b : Block) (o : Nat) : Nat := b.rf .dxs (toReg .dxs Reg.TO_CTRL) 6 5 o

/-- WIDTH in 2^-16 ns. -/
def Block.outWidth (b : Block) (sd : Side) (o : Nat) : Nat := (b.reg sd (toReg sd Reg.TO_WIDTH) o).toNat * 65536

/-- PERIOD in 2^-16 ns. -/
def Block.outPeriod (b : Block) (sd : Side) (o : Nat) : Nat := (b.reg sd (toReg sd Reg.TO_PERIOD) o).toNat * 65536

/-- START; a DX-T ignores its fraction (R123). -/
def Block.outStart (b : Block) (sd : Side) (o : Nat) : Nat :=
  let t := b.regHT sd (toReg sd Reg.TO_START) o
  match sd with
  | .dxt => t / 65536 * 65536
  | .dxs => t

/-- OFFSET with its fraction, in 2^-16 ns. -/
def Block.outOffset (b : Block) (o : Nat) : Int :=
  sx 32 (b.reg .dxs (toReg .dxs Reg.TO_OFFSET) o).toNat * 65536 + b.rf .dxs (toReg .dxs Reg.TO_OFFSET_FR) 15 0 o

/-- One second in 2^-16 ns. -/
def sec16 : Nat := 1000000000 * 65536

/-- One microsecond in 2^-16 ns. -/
def usec16 : Nat := 1000 * 65536

/-- P_COMP of a REFIN in 2^-16 ns. -/
def Block.ppsComp (b : Block) (n : Nat) : Int := psTo16 (sx 32 (b.reg .dxs Reg.RF_P_COMP n).toNat)

def candReset : Candidate := Candidate.reset

def Block.cand (b : Block) (i : Nat) : Candidate := b.dxs.root.cands.getD i candReset

/-- The first edge of PPS_ALIGN after a hall time: the prediction of R119 at whole seconds, and OFFSET. -/
def Block.ppsDue (b : Block) (o : Nat) (after : Nat) : Option Nat :=
  (b.cand (b.outSrc o)).ppsAcc.map fun t =>
    let p := (t : Int) - b.ppsComp (b.outSrc o) + b.outOffset o
    ((after : Int) + 1 + (p - after - 1) % (sec16 : Int)).toNat

/-- The first START + k * PERIOD at or after a hall time. -/
def periodicFrom (start period after : Nat) : Nat :=
  if start ≥ after then start else start + (after - start + period - 1) / period * period

/-- What an apply that changed an output does (R119, R120): the pulse generator starts afresh. -/
def Block.outApplied (b : Block) (sd : Side) (o : Nat) : Block :=
  let soon := b.ht sd + usec16
  let start := b.outStart sd o
  let fresh (n : Option Nat) (late : Bool) := b.updOut sd o fun x =>
    { x with next := n, late := late, done := false, level := false }
  match b.outMode sd o with
  | 1 => fresh (some (b.ht sd)) false
  | 2 =>
    if b.outPeriod sd o == 0 then (if start < soon then fresh none true else fresh (some start) false)
    else fresh (some (periodicFrom start (b.outPeriod sd o) soon)) false
  | _ => fresh none false

/-- A rising edge goes out at programmed hall time `e`. -/
def Block.sendEdge (b : Block) (sd : Side) (o e : Nat) (next : Option Nat) : Block :=
  ((b.updOut sd o fun x => { x with next := next, edge := e, level := true }).hwHT sd (toReg sd Reg.TO_EDGE) o e).bump sd
    (toReg sd Reg.TO_EDGE_CNT) o

/-- Whether PPS_ALIGN is squelched: SQUELCH = 1 and the source's 1PPS is not accepted. -/
def Block.squelched (b : Block) (o : Nat) : Bool :=
  wbit (b.reg .dxs (toReg .dxs Reg.TO_CTRL) o) 4 && !(b.cand (b.outSrc o)).ppsOk

/-- Whether CLK10_PIN routes the 10 MHz square wave to an output (R122): TTOUT6 is output 7, TTOUT7 output 8. -/
def Block.clk10At (b : Block) (sd : Side) (o : Nat) : Bool :=
  let c := b.rf .dxs Reg.RF_CTRL 17 16
  sd == .dxs && isRoot b.dxs.role && ((c == 1 && o == 7) || (c == 2 && o == 8))

/-- A rising edge that is due. -/
def Block.risingEdge (b : Block) (sd : Side) (o : Nat) : Block :=
  let x := b.outp sd o
  match b.outMode sd o, x.next with
  | 1, some from_ =>
    match b.ppsDue o from_ with
    | some e =>
      if b.ht sd < e then b
      else if b.squelched o then b.updOut sd o fun x => { x with next := some (e + sec16 / 2) }
      else b.sendEdge sd o e (some (e + sec16 / 2))
    | none => b
  | 2, some e =>
    let next := if b.outPeriod sd o == 0 then none else some (e + b.outPeriod sd o)
    if b.ht sd < e then b
    else if (b.clk sd).htValid then b.sendEdge sd o e next
    else b.updOut sd o fun x => { x with next := next }
  | _, _ => b

/-- An output reaches a programmed hall time: the end of the active pulse, or the next rising edge. -/
def outputEdge (sd : Side) (o : Nat) (b : Block) : Block :=
  let x := b.outp sd o
  if o ≥ nOuts sd then b
  else if b.clk10At sd o then b.updOut sd o fun x => { x with level := b.ht sd / (50 * 65536) % 2 == 0 }
  else if x.level then
    if b.ht sd < x.edge + b.outWidth sd o then b
    else b.updOut sd o fun x =>
      { x with level := false, done := x.done || (b.outMode sd o == 2 && b.outPeriod sd o == 0) }
  else b.risingEdge sd o

/-- The level of an output's pin (R119): POL = 1 makes the active level low, and the pin rests at the inactive one. -/
def Block.outPin (b : Block) (sd : Side) (o : Nat) : Bool := (b.outp sd o).level != wbit (b.reg sd (toReg sd Reg.TO_CTRL) o) 3

/-- Whether an output is generating edges (R125): it has an edge to send, in TIMED while HT is valid, in PPS_ALIGN once there is a
prediction and no squelch. -/
def Block.outActive (b : Block) (sd : Side) (o : Nat) : Bool :=
  match b.outMode sd o, (b.outp sd o).next with
  | 1, some t => sd == .dxs && (b.ppsDue o t).isSome && !b.squelched o
  | 2, some _ => (b.clk sd).htValid
  | _, _ => false

def execOutputEdge (dt : Nat) (sd : Side) (out : Nat) (s : State) : Host.Outcome State Fault Refusal :=
  s.act dt [.regs sd, .outs sd] (outputEdge sd out)

end Sys2Proof.Machine
end

