-- ==== Sys2Proof/Machine/Ageing.lean ====
section
/-! DEFINITION. The ageing model of the OCXO (R112): natural logarithms to far below the resolution of the frequency word, and the
least-squares fit over the history. -/

namespace Sys2Proof.Machine

/-! ### Logarithms -/

/-- The scale of a logarithm: 2^160. -/
def lnOne : Nat := 2 ^ 160

/-- The terms s^(2i+1) / (2i+1) from the `i`-th on, `p` being s^(2i+1). -/
def atanhTerms (s2 : Nat) : Nat → Nat → Nat → Nat
  | 0, _, _ => 0
  | n + 1, i, p => p / (2 * i + 1) + atanhTerms s2 n (i + 1) (p * s2 / lnOne)

/-- atanh of `s` at the scale of a logarithm, for s at most 1/3: 60 terms leave less than 2^-190. -/
def atanhFix (s : Nat) : Nat := atanhTerms (s * s / lnOne) 60 0 s

/-- How often `n` / `d` can be halved and stay at least 1. -/
def halvings : Nat → Nat → Nat → Nat
  | 0, _, _ => 0
  | f + 1, n, d => if n ≥ 2 * d then halvings f n (2 * d) + 1 else 0

/-- ln(n / d) for n at least d > 0, at the scale 2^160. -/
def lnFix (n d : Nat) : Nat :=
  let k := halvings 256 n d
  let e := d * 2 ^ k
  k * (2 * atanhFix (lnOne / 3)) + 2 * atanhFix ((n - e) * lnOne / (n + e))

/-! ### Holdover -/

/-- The time since the fit's origin `t0`, which names the low 32 bits of a count of seconds. -/
def sinceOrigin (t t0 : Nat) : Nat := (t + 2 ^ 32 * sec16 - t0 % 2 ^ 32 * sec16) % (2 ^ 32 * sec16)

/-- The correction of R112 at hall time `t` after an entry at `te`, in 2^-48 ns per ns; the rounding is open (log entry 3). A time
constant of 0 gives no value: it is free (log entry 4). -/
def holdoverDelta (c1 : Int) (tau t0 te t free : Nat) : Int :=
  if tau = 0 then sx 32 (Config.freeValue free)
  else
    let at_ (x : Nat) : Nat := tau * sec16 + sinceOrigin x t0
    let l : Int := if at_ t ≥ at_ te then lnFix (at_ t) (at_ te) else -(lnFix (at_ te) (at_ t) : Int)
    divR (c1 * l) lnOne

/-! ### The fit -/

/-- The time constants: 0.25 d, 1 d, 4 d and 16 d. -/
def ageTaus : List Nat := [21600, 86400, 345600, 1382400]

/-- Sums of a least-squares line through (x, y): n, and n^2 times the covariances. -/
structure LineSums where
  n : Nat
  sxx : Int
  sxy : Int
  syy : Int
deriving DecidableEq, Repr

def lineSums (l : List (Int × Int)) : LineSums :=
  let n : Int := l.length
  let s (f : Int × Int → Int) : Int := sumI (l.map f)
  let x := s Prod.fst
  let y := s Prod.snd
  ⟨l.length, n * s (fun p => p.1 * p.1) - x * x, n * s (fun p => p.1 * p.2) - x * y, n * s (fun p => p.2 * p.2) - y * y⟩

/-- The mean square residual of the line. -/
def LineSums.residual (u : LineSums) : Rat :=
  (mkRat (u.syy * u.sxx - u.sxy * u.sxy) u.sxx.natAbs) / ((u.n * u.n : Nat) : Rat)

/-- The points of a fit: the logarithm of R112 at the scale 2^64 against the frequency word. -/
def agePoints (tau t0 : Nat) (hist : List (Nat × Int)) : List (Int × Int) :=
  hist.map fun (t, fw) => ((lnFix (tau * sec16 + sinceOrigin t t0) (tau * sec16) / 2 ^ 96 : Nat), fw)

/-- A fit: its coefficient, its time constant and its mean square residual. -/
def ageFitWith (hist : List (Nat × Int)) (t0 tau : Nat) : Option (Int × Nat × Rat) :=
  let u := lineSums (agePoints tau t0 hist)
  if u.sxx ≤ 0 then none else some (divR (u.sxy * 2 ^ 64) u.sxx.natAbs, tau, u.residual)

/-- The origin of a fit: the second of the oldest sample (log entry 163, DESIGN CHOICE). -/
def ageOrigin (hist : List (Nat × Int)) : Nat := ((hist.head?.map Prod.fst).getD 0) / sec16 % 2 ^ 32

/-- The fit of the least residual among the four time constants. -/
def bestAge (hist : List (Nat × Int)) : Option (Int × Nat × Rat) :=
  (ageTaus.filterMap (ageFitWith hist (ageOrigin hist))).foldl (fun best x => match best with
    | none => some x
    | some y => if x.2.2 < y.2.2 then some x else some y) none

/-- The largest mean square residual of a usable fit: 0.02 ppb, squared, in the units of the frequency word. -/
def ageRmsLimit : Rat := mkRat (2 * 2 ^ 48) 100000000000 * mkRat (2 * 2 ^ 48) 100000000000

/-- The samples of 48 h of LOCKED history, one every 60 s. -/
def ageMinSamples : Nat := 2880

end Sys2Proof.Machine
end

