-- ==== Sys2Proof/Machine/RootRefs.lean ====
section
/-! DEFINITION. The root references, the root servo and its lock states, holdover, and the root's quality marks (R95, R99 to
R118, R382). -/

namespace Sys2Proof.Machine

/-! ### Access -/

def Block.updRoot (b : Block) (f : Root → Root) : Block := { b with dxs := { b.dxs with root := f b.dxs.root } }

def Block.updCand (b : Block) (i : Nat) (f : Candidate → Candidate) : Block :=
  b.updRoot fun r => { r with cands := r.cands.set i (f (r.cands.getD i candReset)) }

/-- USE of a candidate. -/
def Block.candUse (b : Block) (i : Nat) : Nat := b.rf .dxs Reg.RF_P_CFG 1 0 i

/-- Whether a REFIN uses its 1PPS, its 10 MHz. -/
def Block.usesPps (b : Block) (i : Nat) : Bool := i < 4 && b.candUse i % 2 == 1
def Block.usesTen (b : Block) (i : Nat) : Bool := i < 4 && b.candUse i / 2 == 1

/-- Whether a candidate gives TIME when qualified (R101). -/
def Block.isTime (b : Block) (i : Nat) : Bool := b.usesPps i || i == 4 || i == 5

/-- The Ethernet port of a PTP slot or a Synchronous Ethernet candidate. -/
def Block.candEth (b : Block) (i : Nat) : Nat := if i < 6 then b.rf .dxs Reg.RF_P_CFG 2 2 i else i - 6

def Block.ethUp (b : Block) (e : Nat) : Bool := b.dxs.root.ethUp.getD e false

/-! ### Qualification (R102 to R105) -/

/-- 1 s in time-clock cycles. -/
def secCyc : Nat := 1000000000

/-- 10 MHz edges without a gap for 1 s are accepted. -/
def Candidate.tick (c : Candidate) (now : Nat) : Candidate :=
  match c.tenSince with
  | some t => if !c.tenOk && now ≥ t + secCyc then { c with tenOk := true } else c
  | none => c

/-- Whether a candidate meets the rule of its type. -/
def Block.meets (b : Block) (i : Nat) (c : Candidate) : Bool :=
  let w := b.reg .dxs Reg.RF_P_QUAL i
  if b.candUse i == 0 then false
  else if i < 4 then (!b.usesPps i || c.ppsOk) && (!b.usesTen i || (c.tenOk && c.freqOk))
  else if i < 6 then
    b.candUse i == 1 && b.ethUp (b.candEth i) && c.annAt.isSome && !c.annLost && c.rxClass ≤ fld w 7 0 && c.syncAt.isSome &&
      !c.syncLost && c.valid
  else b.candUse i == 1 && b.ethUp (i - 6) && c.esmcAt.isSome && bit (fld w 15 0) c.rxSsm

/-- Qualifies or disqualifies a candidate after something about it changed. Its valid seconds count from its qualification (log entry
165, DEDUCED); a PTP slot's first is the one that qualified it. -/
def Block.requal (b : Block) (i : Nat) : Block :=
  let c := (b.cand i).tick b.now
  let q := b.meets i c
  if q && !c.qual then
    b.updCand i fun _ =>
      { c with qual := true, qualAt := b.now, prevMean := none, thetas := if i < 4 then [] else lastN 1 c.thetas }
  else if !q && c.qual then
    (b.updCand i fun _ => { c with qual := false, atOnce := false }).bump .dxs Reg.RF_P_REJ_CNT i
  else b.updCand i fun _ => c

/-- An applied change of USE: from 0 the candidate starts afresh and needs no WTR (R105). -/
def Block.useChanged (b : Block) (i old : Nat) : Block :=
  if old == 0 then (b.updCand i fun c => { candReset with bias := c.bias }).requal i else b.requal i

/-- The θ that the far test compares with: the selected TIME reference's less its bias, or 0. -/
def Block.farBase (b : Block) : Int :=
  match b.dxs.root.sel with
  | some r => if b.isTime r then (b.cand r).theta - (b.cand r).bias else 0
  | none => 0

/-- R105: far. -/
def Block.isFar (b : Block) (i : Nat) : Bool :=
  b.isTime i && beyondNs ((b.cand i).theta - b.farBase) (b.rf .dxs Reg.RF_ALIGN 15 0)

/-- R105: a selection candidate. -/
def Block.selectable (b : Block) (i : Nat) : Bool :=
  let c := b.cand i
  c.qual && (c.atOnce || b.now ≥ c.qualAt + b.rf .dxs Reg.RF_WTR 15 0 * secCyc) && !b.isFar i

/-! ### Input edges (R102) -/

/-- A 1PPS edge at hall time `t`: within PPS_WIN of the second predicted from the edge before, or the first of a run. -/
def Block.ppsArrived (b : Block) (n t : Nat) : Block :=
  let c := b.cand n
  let w := b.reg .dxs Reg.RF_P_QUAL n
  let near := match c.ppsLast with
    | some l => decide (((t : Int) - l - sec16).natAbs ≤ fld w 7 0 * 100 * 65536)
    | none => false
  if c.ppsOk then
    if near then
      (b.updCand n fun c => { c with ppsLast := some t, ppsAcc := some t, ppsStamp := some t, ppsMiss := 0 }).bump .dxs
        Reg.RF_P_EDGE_CNT n
    else b
  else
    let run := if near && c.ppsRun > 0 then c.ppsRun + 1 else 1
    let ok := run ≥ fld w 11 8
    let b := b.updCand n fun c =>
      { c with ppsLast := some t, ppsRun := run, ppsOk := ok, ppsMiss := 0, ppsStamp := some t,
               ppsAcc := if ok then some t else c.ppsAcc }
    if near || c.ppsRun == 0 then b.bump .dxs Reg.RF_P_EDGE_CNT n else b

/-- A 1PPS edge on REFIN `n` with its code; one stamped on a bad calibration is a missing measurement (R130). -/
def ppsEdge (n code : Nat) (b : Block) : Block :=
  if n ≥ 4 || !isRoot b.dxs.role || !b.usesPps n then b
  else
    let t := b.stampNow .dxs n code
    let ok := b.stampOk .dxs n
    let b := (b.useFree.measured .dxs n).sawEdge .dxs n
    if ok then (b.ppsArrived n t).requal n else b

/-- A predicted second, or an expected 10 MHz edge, has no edge (R102). Where the 10 MHz is rejected its frequency has to be accepted
from the start too: there is nothing to hold. -/
def refinEdgeMissing (n : Nat) (tenMhz : Bool) (b : Block) : Block :=
  let c := b.cand n
  let rej := b.rf .dxs Reg.RF_P_QUAL 15 12 n
  if n ≥ 4 || !isRoot b.dxs.role then b
  else if tenMhz then
    if !b.usesTen n then b
    else
      let gone := !c.tenOk || c.tenMiss + 1 ≥ rej
      (b.updCand n fun c =>
        { c with tenMiss := c.tenMiss + 1, tenOk := !gone, tenSince := if gone then none else c.tenSince,
                 freqOk := c.freqOk && !gone, freqSince := if gone then none else c.freqSince }).requal n
  else match c.ppsLast with
    | none => b
    | some l =>
      if !b.usesPps n || b.ht .dxs ≤ l + sec16 + b.rf .dxs Reg.RF_P_QUAL 7 0 n * 100 * 65536 then b
      else
        let gone := !c.ppsOk || c.ppsMiss + 1 ≥ rej
        (b.updCand n fun c =>
          { c with ppsMiss := c.ppsMiss + 1, ppsLast := some (l + sec16), ppsOk := !gone,
                   ppsRun := if gone then 0 else c.ppsRun }).requal n

/-- A 10 MHz edge that a root's reference sees. -/
def Block.tenEdge (b : Block) (n code : Nat) : Block :=
  if isRoot b.dxs.role && b.usesTen n then
    let b := b.updCand n fun c => { c with tenMiss := 0, tenSince := some (c.tenSince.getD b.now) }
    ((b.bump .dxs Reg.RF_P_EDGE_CNT n).addGateStamp n 1000 code).requal n
  else b

/-- An OCXO edge on the converter of a CROSS port: root B regresses it while its loop follows that port (R99, R136). -/
def Block.ocxoEdge (b : Block) (cv code : Nat) : Block :=
  if b.dxs.role == .rootB && b.dxs.root.onCross && (b.refPort .dxs 0).map (portConv .dxs) == some cv then b.addGateStamp cv 1000 code
  else b

/-- An edge of the clock recovered from an Ethernet port, divided to 10 MHz, on the port's converter (log entry 166, DESIGN CHOICE). -/
def Block.syncEEdge (b : Block) (eth code : Nat) : Block :=
  if isRoot b.dxs.role && b.candUse (6 + eth) == 1 then b.addGateStamp (ethConv eth) 1000 code else b

/-- An edge reaches a converter (R133 to R136): the software measurements of a REFIN converter, and the regressions that its user
runs. -/
def tdcEdge (sd : Side) (cv code src : Nat) (b : Block) : Block :=
  match sd with
  | .dxt => b
  | .dxs =>
    if cv ≥ nConvs .dxs then b
    else if cv ≥ ethConv 0 then (if src == 1 then b.syncEEdge (cv - ethConv 0) code else b)
    else if cv ≥ 4 then (if src == 1 then b.ocxoEdge cv code else b)
    else
      let b := if src == 1 then (b.tenEdge cv code).sawEdge .dxs cv else b
      (b.swEdge cv code src).fqEdge cv code src

/-! ### Ethernet references (R103, R104, R107) -/

/-- An ESMC information PDU (R104). -/
def esmcReceive (eth ssm : Nat) (ext : Bool) (b : Block) : Block :=
  let i := 6 + eth
  if eth ≥ 2 || !isRoot b.dxs.role || b.candUse i == 0 || !b.ethUp eth then b
  else ((b.updCand i fun c => { c with esmcAt := some b.now, rxSsm := ssm % 16, extQl := ext }).bump .dxs
    Reg.RF_P_EDGE_CNT i).requal i

def esmcTimeout (eth : Nat) (b : Block) : Block :=
  let i := 6 + eth
  match (b.cand i).esmcAt with
  | some t =>
    if eth < 2 && isRoot b.dxs.role && b.now ≥ t + b.rf .dxs Reg.RF_P_QUAL 23 16 i * secCyc then
      (b.updCand i fun c => { c with esmcAt := none, extQl := false }).requal i
    else b
  | none => b

/-- The 25GBASE-R link of a port changes (R103, R104). -/
def ethLinkChange (eth : Nat) (up : Bool) (b : Block) : Block :=
  if eth ≥ 2 || !isRoot b.dxs.role then b
  else (b.updRoot fun r => { r with ethUp := r.ethUp.set eth up }).each ((List.range 8).filter fun i =>
    i ≥ 4 && b.candEth i == eth) fun b i => b.requal i

/-! ### The root servo's parts (R99, R100, R107, R108) -/

/-- The integrator preset that keeps the frequency word for a servo error `e`. -/
def presetI (fw48 e : Int) (rkp rki : Nat) : Int := (-fw48 - (e >>> rkp)) * (2 ^ rki : Nat) - e

def Block.rkp (b : Block) : Nat := b.rf .dxs Reg.RF_GAIN 3 0
def Block.rki (b : Block) : Nat := b.rf .dxs Reg.RF_GAIN 11 8
def Block.rkf (b : Block) : Nat := b.rf .dxs Reg.RF_GAIN 19 16

/-- The servo error that a move from the selected reference leaves: its mean θ less its bias, 0 without a TIME reference. -/
def Block.errPrev (b : Block) : Int :=
  match b.dxs.root.sel with
  | some r => if b.isTime r then meanI (b.cand r).thetas - (b.cand r).bias else 0
  | none => 0

/-- The bias that R108 sets on a move to `r` with servo error `e`; FREQ references have none. -/
def Block.takeBias (b : Block) (r : Nat) (e : Int) : Block :=
  if b.isTime r then b.updCand r fun c => { c with bias := meanI c.thetas - e } else b

/-- R108: the selection moves to `r`. -/
def Block.moveTo (b : Block) (r : Nat) : Block :=
  let e := b.errPrev
  let b := b.takeBias r e
  (b.updRoot fun x => { x with sel := some r, i48 := presetI (b.clk .dxs).fw48 e b.rkp b.rki, inWin := 0, outWin := 0 }).bump
    .dxs Reg.RF_SWITCH_CNT

/-- The mean of the last 16 updates at the root's resolution. -/
def Block.rootAvg (b : Block) : Int :=
  let h := (b.clk .dxs).fwHist
  if h.isEmpty then (b.clk .dxs).fw48 else meanI h

/-- Entry to OVERCAST of an acting root: holdover on `avg` (R112). -/
def Block.rootOvercast (b : Block) (avg : Int) : Block :=
  let b := (b.setFw48 .dxs avg).updClk .dxs fun c => { c with lock := .overcast, fwAvg := avg }
  (b.updRoot fun r => { r with te := b.ht .dxs, overAt := b.now, inWin := 0, outWin := 0 }).bump .dxs Reg.TT_OVERCAST_CNT

/-- The root leaves OVERCAST: the time spent there counts towards the fit's age (R112). -/
def Block.leaveOvercast (b : Block) : Block :=
  if (b.clk .dxs).lock == .overcast then b.updRoot fun r => { r with ageSpent := r.ageSpent + (b.now - r.overAt) } else b

/-- Entry to COARSE: the bias of the selection as for a move from nothing, the servo going on from the present word
(R109). -/
def Block.rootCoarse (b : Block) : Block :=
  match b.dxs.root.sel with
  | some r =>
    let b := b.leaveOvercast.takeBias r 0
    (b.updRoot fun x => { x with i48 := presetI (b.clk .dxs).fw48 0 b.rkp b.rki, inWin := 0, outWin := 0 }).updClk .dxs
      fun c => { c with lock := .coarse, hold := false }
  | none => b

/-! ### Selection (R106) -/

/-- The list of DXS_RF_PRIO. -/
def Block.prio (b : Block) : List Nat := (List.range 8).map fun k => b.rf .dxs Reg.RF_PRIO (4 * k + 3) (4 * k)

/-- The first entry of the list that is a selection candidate. -/
def Block.firstOf (b : Block) (l : List Nat) : Option Nat := l.find? fun i => i < 8 && b.selectable i

/-- What R106 selects. -/
def Block.pickRef (b : Block) : Option Nat :=
  let force := b.reg .dxs Reg.RF_FORCE
  let ctrl := b.reg .dxs Reg.RF_CTRL
  let man := b.prio.getD 0 15
  let cur := b.dxs.root.sel
  if wbit force 3 then (if (b.cand (fld force 2 0)).qual then some (fld force 2 0) else none)
  else if wbit ctrl 0 && man < 8 && b.selectable man then some man
  else match cur with
    | some r =>
      if b.selectable r then
        if !wbit ctrl 0 && wbit ctrl 3 then some ((b.firstOf (b.prio.takeWhile fun i => i != r)).getD r) else some r
      else b.firstOf b.prio
    | none => b.firstOf b.prio

/-- What the lock rules make of the selection (R109). -/
def Block.afterSelect (b : Block) : Block :=
  match (b.clk .dxs).lock, b.dxs.root.sel with
  | .coarse, none => b.rootOvercast b.rootAvg
  | .locked, none => b.rootOvercast b.rootAvg
  | .overcast, some _ => if b.dxs.root.swExpired then b else b.rootCoarse
  | _, _ => b

/-- The evaluation of an acting root. -/
def refSelect (b : Block) : Block :=
  if !b.actingRoot then b
  else
    let b := b.each (List.range 8) fun b i => b.requal i
    let b := match b.pickRef with
      | some r => if b.dxs.root.sel == some r then b else b.moveTo r
      | none => b.updRoot fun r => { r with sel := none }
    b.afterSelect

/-! ### The second (R107) -/

/-- One TIME measurement: θ known, its history and count. -/
def Candidate.measured (c : Candidate) (th : Int) : Candidate :=
  { c with valid := true, theta := th, thetas := lastN 16 (c.thetas ++ [th]), seq := (c.seq + 1) % 2 ^ 32 }

/-- θ of a 1PPS stamp: its distance from the nearest whole second. -/
def ppsTheta (t comp : Int) : Int :=
  let v := t - comp
  v - roundOpen16 v
where
  /-- The nearest multiple of a second; a tie is left open (log entry 3, DESIGN CHOICE). -/
  roundOpen16 (v : Int) : Int :=
    let q := v / (sec16 : Int)
    let r := v % (sec16 : Int)
    (if 2 * r < (sec16 : Int) then q else if 2 * r > (sec16 : Int) then q + 1 else q + (if Config.roundUp v sec16 then 1 else 0)) *
      sec16

/-- Whether a frequency offset of 2^-48 ns per ns is at most `ppm`. -/
def withinPpm (f : Int) (ppm : Nat) : Bool := decide (f.natAbs * 1000000 ≤ ppm * 2 ^ 48)

/-- The 1 s frequency gate of a REFIN closes (R102). -/
def Block.closeGate (b : Block) (n : Nat) : Block :=
  if !b.usesTen n then b
  else
    let (f, ok) := regress 1000 (b.conv .dxs n).reg
    let w := b.reg .dxs Reg.RF_P_QUAL n
    let b := b.updConv .dxs n fun c => { c with reg := [] }
    let c := b.cand n
    let since := if ok && withinPpm f (fld w 19 16) then some (c.freqSince.getD b.now)
      else if c.freqOk && (!ok || withinPpm f (fld w 23 20)) then c.freqSince else none
    let held := match since with
      | some t => b.now ≥ t + fld w 31 24 * secCyc
      | none => false
    let freqOk := if c.freqOk then since.isSome else held
    let b := b.updCand n fun c => { c with freqSince := since, freqOk := freqOk, fref := if ok then f else c.fref }
    let good := ok && c.qual
    if b.usesPps n then b else b.updCand n fun c => { c with valid := good, seq := if good then (c.seq + 1) % 2 ^ 32 else c.seq }

/-- The 1PPS phase of the second, of a qualified candidate (R101, R107). -/
def Block.closePps (b : Block) (n : Nat) : Block :=
  if !b.usesPps n then b
  else match (b.cand n).ppsStamp with
  | some t =>
    if (b.cand n).qual then
      let th := ppsTheta t (b.ppsComp n)
      b.updCand n fun c => { c.measured th with ppsStamp := none }
    else b.updCand n fun c => { c with valid := false, ppsStamp := none }
  | none => b.updCand n fun c => { c with valid := false }

/-- The mean offset of a PTP slot's second, gated against the second before. -/
def Block.closePtp (b : Block) (i : Nat) : Block :=
  let c := b.cand i
  let gate := b.rf .dxs Reg.RF_P_QUAL 31 16 i
  let kept := match c.prevMean with
    | some m => c.offsets.filter fun o => !beyondNs (o - m) gate
    | none => c.offsets
  if kept.isEmpty then b.updCand i fun c => { c with offsets := [], prevMean := none, valid := false }
  else
    let m := meanI kept
    b.updCand i fun c => { c.measured m with offsets := [], prevMean := some m }

/-- The frequency of the second of a Synchronous Ethernet candidate. -/
def Block.closeSyncE (b : Block) (i : Nat) : Block :=
  let cv := ethConv (i - 6)
  let (f, ok) := regress 1000 (b.conv .dxs cv).reg
  let b := b.updConv .dxs cv fun c => { c with reg := [] }
  let good := ok && (b.cand i).qual
  b.updCand i fun c =>
    { c with valid := good, fref := if ok then f else c.fref, seq := if good then (c.seq + 1) % 2 ^ 32 else c.seq }

/-- R112: in OVERCAST the word follows the ageing model at each second boundary. -/
def Block.holdover (b : Block) : Block :=
  if b.actingRoot && (b.clk .dxs).lock == .overcast && b.dxs.root.ageValid then
    let d := holdoverDelta (sx 32 (b.reg .dxs Reg.RF_AGE_C1).toNat) (b.reg .dxs Reg.RF_AGE_TAU).toNat
      (b.reg .dxs Reg.RF_AGE_T0).toNat b.dxs.root.te (b.ht .dxs) b.free
    (b.useFree).setFw48 .dxs ((b.clk .dxs).fwAvg + d)
  else b

def rootSecondClose (b : Block) : Block :=
  if !isRoot b.dxs.role then b
  else (b.each (List.range 8) fun b i =>
    (if i < 4 then (b.closePps i).closeGate i
    else if i < 6 then (if b.candUse i == 0 then b else b.closePtp i)
    else b.closeSyncE i).requal i).holdover

/-! ### The update (R107 to R109, R112) -/

/-- The bias of the selected TIME reference moves towards 0 by SLEW. -/
def Block.slewBias (b : Block) : Block :=
  match b.dxs.root.sel with
  | some r =>
    if b.isTime r then
      b.updCand r fun c =>
        let step : Int := min c.bias.natAbs (b.rf .dxs Reg.RF_CTRL 15 8 * 65536)
        { c with bias := if c.bias ≥ 0 then c.bias - step else c.bias + step }
    else b
  | none => b

/-- The servo error of the selected reference: 0 without a TIME reference. -/
def Block.servoError (b : Block) : Int :=
  match b.dxs.root.sel with
  | some r => if b.isTime r then (b.cand r).theta - (b.cand r).bias else 0
  | none => 0

/-- The integrator is preset to give the word in effect, so that the hardware servo goes on without a step in frequency (R118). -/
def Block.presetServo (b : Block) : Block :=
  b.updRoot fun x => { x with i48 := presetI (b.clk .dxs).fw48 b.servoError b.rkp b.rki }

/-- The hardware update for the selected reference, or the integrator's preset while software steers. -/
def Block.rootUpdate (b : Block) (r : Nat) : Block :=
  let c := b.clk .dxs
  let lim := b.fwLim48 .dxs
  let cd := b.cand r
  let e := cd.theta - cd.bias
  if b.servoMode .dxs then b.presetServo
  else if b.isTime r then
    let i48 := b.dxs.root.i48
    let fw := -(e >>> b.rkp) - ((i48 + e) >>> b.rki)
    let b := if fw.natAbs ≤ lim.natAbs then b.updRoot fun x => { x with i48 := i48 + e } else b
    (b.setFw48 .dxs fw).updClk .dxs Clock.noteUpdate
  else
    let b := (b.setFw48 .dxs (c.fw48 + ((cd.fref - c.fw48) >>> b.rkf))).updClk .dxs Clock.noteUpdate
    b.updRoot fun x => { x with i48 := presetI (b.clk .dxs).fw48 0 b.rkp b.rki }

/-- COARSE and LOCKED by the size of an update's error (R109). -/
def Block.rootLock (b : Block) (inWin outWin : Bool) : Block :=
  let x := b.dxs.root
  match (b.clk .dxs).lock with
  | .coarse =>
    let n := if inWin then x.inWin + 1 else 0
    if n ≥ b.rf .dxs Reg.RF_LOCK 31 24 then
      (b.updRoot fun r => { r with inWin := 0, outWin := 0 }).updClk .dxs fun c => { c with lock := .locked, lockedAt := b.now }
    else b.updRoot fun r => { r with inWin := n }
  | .locked =>
    let n := if outWin then x.outWin + 1 else 0
    if n ≥ 4 then
      (b.updRoot fun r => { r with inWin := 0, outWin := 0 }).updClk .dxs fun c => { c with lock := .coarse }
    else b.updRoot fun r => { r with outWin := n }
  | .free | .acquire | .overcast => b

/-- The error of the selected reference against the lock windows. -/
def Block.lockTests (b : Block) (r : Nat) : Bool × Bool :=
  let w := b.reg .dxs Reg.RF_LOCK
  let cd := b.cand r
  if b.isTime r then
    let e := cd.theta - cd.bias
    (!beyondNs e (fld w 11 0), beyondNs e (fld w 23 12))
  else
    let d := (cd.fref - (b.clk .dxs).fw48).natAbs
    let f := b.rf .dxs Reg.RF_GAIN 31 24 * 65536
    (decide (d ≤ f), decide (d > 2 * f))

/-- 1,000,000 ns after the second boundary. A second of the selected reference that was not valid gives no update and no lock test; the
bias moves all the same (log entry 167, DEDUCED). In OVERCAST the word follows the holdover alone. -/
def rootServoUpdate (b : Block) : Block :=
  if !b.actingRoot then b
  else match (b.clk .dxs).lock, b.dxs.root.sel with
  | .coarse, some r | .locked, some r =>
    let b := b.slewBias
    if (b.cand r).valid then
      let (i, o) := b.lockTests r
      (b.rootUpdate r).rootLock i o
    else b
  | _, _ => b

/-- 16 intervals of 64 µs after a set or step. -/
def rootAcquireEnd (b : Block) : Block :=
  if !b.actingRoot || (b.clk .dxs).lock != .acquire || b.now < b.dxs.root.acqAt + 16 * 64000 then b
  else if b.dxs.root.sel.isSome then b.rootCoarse
  else b.rootOvercast b.rootAvg

/-! ### The hall-time set, the step and the force (R13, R106, R111, R124) -/

/-- Whether any job is loaded in the hall, as the acting root knows. -/
def Block.jobsLoaded (b : Block) : Bool := b.dxs.hub.jobs.any fun j => j.2.st != .unloaded

/-- Result codes of a set or step. -/
def HtSt.ok : Nat := 0
def HtSt.jobsLoaded : Nat := 1
def HtSt.notRoot : Nat := 2
def HtSt.guardFail : Nat := 3

def Block.htSetSt (b : Block) (c : Nat) : Block := b.hw .dxs Reg.RF_HTSET_ST 0 (w32 c)

/-- An accepted set or step: ACQUIRE, HT_VALID, biases 0 (R109). -/
def Block.rootAcquire (b : Block) : Block :=
  let b := b.leaveOvercast.updClk .dxs fun c => { c with lock := .acquire, htValid := true }
  (b.each (List.range 8) fun b i => b.updCand i fun c => { c with bias := 0 }).updRoot fun r =>
    { r with acqAt := b.now, inWin := 0, outWin := 0 }

/-- A set or step, unless it is refused: at root B, at a root A that does not act, or while a job is loaded. -/
def Block.htChange (b : Block) (v : Nat) (f : Block → Block) : Block :=
  if !(b.dxs.role == .rootA && b.actingRoot) then (b.htSetSt HtSt.notRoot).guardFail .dxs Guard.condition v
  else if b.jobsLoaded then (b.htSetSt HtSt.jobsLoaded).guardFail .dxs Guard.condition v
  else (f b).rootAcquire.htSetSt HtSt.ok

def Block.noteGuard (b : Block) (sd : Side) (v : Nat) : Block :=
  b.updRegs sd fun r => { r with guardDone := if r.guardDone.contains v then r.guardDone else v :: r.guardDone }

def Block.clearGuards (b : Block) (sd : Side) (l : List Nat) : Block :=
  b.updRegs sd fun r => { r with guardDone := r.guardDone.filter fun v => !l.contains v }

/-- What the completed pairs of a root's time do. -/
def doneRoot (b : Block) (v idx : Nat) (w : Word) : Option Block :=
  let b := b.setGuarded .dxs v idx w
  if v == Reg.RF_HTSET_SH then
    let l := [Reg.RF_HTSET_NS, Reg.RF_HTSET_S]
    if l.all fun x => b.dxs.node.regs.guardDone.contains x then
      some ((b.clearGuards .dxs l).htChange v fun b =>
        b.setHT .dxs (htOfWords (b.reg .dxs Reg.RF_HTSET_NS) (b.reg .dxs Reg.RF_HTSET_S) w))
    else some ((b.htSetSt HtSt.guardFail).guardFail .dxs Guard.condition v)
  else if v == Reg.RF_HTSTEP then
    some (b.htChange v fun b => b.setHT .dxs ((b.ht .dxs : Int) + sx 32 w.toNat * 65536))
  else some (b.noteGuard .dxs v)

/-- Whether an offset is one of the hall-time set's pairs. -/
def isHtSet (off : Nat) : Bool := Reg.RF_HTSET_NS ≤ off && off ≤ Reg.RF_HTSET_SH + 4

def isHtStep (off : Nat) : Bool := off == Reg.RF_HTSTEP || off == Reg.RF_HTSTEP + 4

/-- Whatever an effect on guarded pairs does, a set's or step's pair that fails without completing leaves GUARD_FAIL (R124). -/
def Block.noteHtFail (b : Block) (f : Block → Block) : Block :=
  let b' := f b
  let v := b'.rf .dxs Reg.CM_GUARD_ST 23 0
  if b'.reg .dxs Reg.CM_GUARD_FAIL_CNT != b.reg .dxs Reg.CM_GUARD_FAIL_CNT &&
    b'.rf .dxs Reg.CM_GUARD_ST 31 24 != Guard.condition && (isHtSet v || isHtStep v) then b'.htSetSt HtSt.guardFail
  else b'

def Block.htGuardWrite (b : Block) (off : Nat) (w : Word) : Block := b.noteHtFail fun b => b.guardWrite .dxs off 0 w doneRoot

def htSet (off : Nat) (w : Word) (b : Block) : Block := if isHtSet off && isRoot b.dxs.role then b.htGuardWrite off w else b

def htStep (off : Nat) (w : Word) (b : Block) : Block := if isHtStep off && isRoot b.dxs.role then b.htGuardWrite off w else b

def forceSet (off : Nat) (w : Word) (b : Block) : Block :=
  if (off == Reg.RF_FORCE || off == Reg.RF_FORCE + 4) && isRoot b.dxs.role then
    b.noteHtFail fun b => b.guardWrite .dxs off 0 w fun b v idx x => some (b.setGuarded .dxs v idx x)
  else b

/-- The laboratory load of a DX-T (R98): in FREE with SERVO = 1, when the three pairs have completed. -/
def doneHtLoad (b : Block) (v idx : Nat) (w : Word) : Option Block :=
  let b := b.setGuarded .dxt v idx w
  if v == Reg.TT_HTLOAD_SH then
    let l := [Reg.TT_HTLOAD_NS, Reg.TT_HTLOAD_S]
    if (l.all fun x => b.dxt.node.regs.guardDone.contains x) && (b.clk .dxt).lock == .free && b.servoMode .dxt then
      some (((b.clearGuards .dxt l).setHT .dxt
        (htOfWords (b.reg .dxt Reg.TT_HTLOAD_NS) (b.reg .dxt Reg.TT_HTLOAD_S) w)).updClk .dxt fun c =>
          { c with htValid := true })
    else none
  else some (b.noteGuard .dxt v)

def htLoad (off : Nat) (w : Word) (b : Block) : Block :=
  if Reg.TT_HTLOAD_NS ≤ off && off ≤ Reg.TT_HTLOAD_SH + 4 then b.guardWrite .dxt off 0 w doneHtLoad else b

/-! ### Steering from software (R118) -/

/-- The pair of FW_SW and FW_SW_EXT. -/
def Block.swPair (b : Block) : Int :=
  sx 32 (b.reg .dxs Reg.TT_FW_SW).toNat * 65536 + b.rf .dxs Reg.RF_FW_SW_EXT 15 0

/-- A pair takes effect; the hardware servo's integrator follows it. -/
def Block.applyPair (b : Block) (v : Int) : Block :=
  let b := b.setFw48 .dxs v
  ((b.updClk .dxs Clock.noteUpdate).updRoot fun r =>
    { r with swLast := b.now, swWait := none, swVal := v, swHist := lastN 16 (r.swHist ++ [(b.clk .dxs).fw48]) }).presetServo

/-- The least distance of two pairs. -/
def pairGap : Nat := 1000000

/-- FW_SW as a frequency word. -/
def Block.swWord (b : Block) (sd : Side) : Int := sx 32 (b.reg sd Reg.TT_FW_SW).toNat * 65536

/-- SERVO was applied as 1: FW_SW is in effect, and the watchdog runs from here. -/
def Block.servoOn (b : Block) (sd : Side) : Block :=
  if sd == .dxs && isRoot b.dxs.role then (b.applyPair b.swPair).updRoot fun r => { r with swAt := b.now, swHist := [] }
  else b.setFw48 sd (b.swWord sd)

/-- SERVO was applied as 0: the hardware servo goes on from the word in effect (R118, log entry 132). -/
def Block.servoOff (b : Block) (sd : Side) : Block :=
  if sd == .dxs && b.actingRoot then b.presetServo else b.resumeServo sd

/-- An applied FW_LIM binds the word at once (R78); while software steers, the word is the one it gave, as far as the limit lets it
(R86, R118). -/
def Block.limitAnew (b : Block) (sd : Side) : Block :=
  b.setFw48 sd (if !b.servoMode sd then (b.clk sd).fw48 else if sd == .dxs && isRoot b.dxs.role then b.dxs.root.swVal else b.swWord sd)

/-- An applied CABLE_ASYM: the interval that runs on a reference port in use keeps the old value (R83). -/
def Block.asymAnew (b : Block) (sd : Side) (p : Nat) : Block :=
  if (b.refPorts sd).contains p && (b.port sd p).st.keepsTime then b
  else
    let v := b.cableAsym sd p
    b.updEcho sd p fun e => { e with asym := v }

/-- A write of FW_SW (R86, R118). -/
def fwSwWrite (w : Word) (b : Block) : Block :=
  let b := b.hw .dxs Reg.TT_FW_SW 0 w
  let b := if isRoot b.dxs.role then b.updRoot fun r => { r with swExpired := false } else b
  if !b.servoMode .dxs then b
  else if !isRoot b.dxs.role then b.setFw48 .dxs (b.swWord .dxs)
  else
    let b := b.updRoot fun r => { r with swAt := b.now }
    if b.now ≥ b.dxs.root.swLast + pairGap then b.applyPair b.swPair
    else b.updRoot fun r => { r with swWait := some b.swPair }

/-- A pair that waited is due. -/
def fwSwPairDue (b : Block) : Block :=
  match b.dxs.root.swWait with
  | some v => if b.now ≥ b.dxs.root.swLast + pairGap then b.applyPair v else b
  | none => b

def swWatchdogExpire (b : Block) : Block :=
  let r := b.dxs.root
  let l := (b.clk .dxs).lock
  if !isRoot b.dxs.role || !b.servoMode .dxs || r.swExpired || b.now < r.swAt + b.rf .dxs Reg.RF_SW_WDOG 15 0 * 1000000 then b
  else
    let b := if b.actingRoot && (l == .coarse || l == .locked) then
        b.rootOvercast (if r.swHist.isEmpty then b.rootAvg else meanI r.swHist)
      else b
    b.updRoot fun r => { r with swExpired := true }

/-! ### Oscillator and ageing (R99, R112) -/

/-- The 1 s gate of root B's own oscillator against the CROSS clock ends (R99, R135). -/
def ocxoOfsGate (b : Block) : Block :=
  match b.refPort .dxs 0 with
  | some p =>
    if b.dxs.role == .rootB && b.dxs.root.onCross then
      let cv := portConv .dxs p
      let (f, ok) := regress 1000 (b.conv .dxs cv).reg
      let b := b.updConv .dxs cv fun c => { c with reg := [] }
      if ok then (b.updRoot fun r => { r with ocxoOfs := f }).hw .dxs Reg.RF_OCXO_OFS 0 (i32 (sat32 f)) else b
    else b
  | none => b

/-- Root B's loop follows CROSS while that domain is fit; moving to the own oscillator corrects the word (R99). -/
def Block.crossLoop (b : Block) : Block :=
  if b.dxs.role != .rootB then b
  else
    let f := b.fit .dxs 0 true
    let b := if b.dxs.root.onCross && !f then b.setFw48 .dxs ((b.clk .dxs).fw48 - b.dxs.root.ocxoOfs) else b
    b.updRoot fun r => { r with onCross := f }

/-- The binder refits the ageing model to the history of LOCKED seconds (R112). A history that spans no time gives no fit. -/
def ageFit (b : Block) : Block :=
  let hist := b.dxs.root.ageHist
  if !b.actingRoot || (b.clk .dxs).lock != .locked then b
  else match bestAge hist with
    | none => b
    | some (c1, tau, res) =>
      let b := ((b.hw .dxs Reg.RF_AGE_C1 0 (i32 (sat32 c1))).hw .dxs Reg.RF_AGE_TAU 0 (w32 tau)).hw .dxs Reg.RF_AGE_T0 0
        (w32 (ageOrigin hist))
      b.updRoot fun r =>
        { r with ageSpent := 0, ageValid := r.ageValid || (hist.length ≥ ageMinSamples && decide (res ≤ ageRmsLimit)) }

/-- 168 h in time-clock cycles. -/
def ageLimit : Nat := 168 * 3600 * 1000000000

def ageExpire (b : Block) : Block :=
  let r := b.dxs.root
  let spent := r.ageSpent + (if (b.clk .dxs).lock == .overcast then b.now - r.overAt else 0)
  if b.actingRoot && spent > ageLimit then b.updRoot fun r => { r with ageValid := false } else b

/-- Samples of 30 days at 60 s. -/
def ageSamples : Nat := 43200

def ageSample (b : Block) : Block :=
  if b.actingRoot && (b.clk .dxs).lock == .locked && b.sm.rdy then
    b.updRoot fun r => { r with ageHist := lastN ageSamples (r.ageHist ++ [(b.ht .dxs, (b.clk .dxs).fw48)]) }
  else b

/-! ### Quality (R95, R110, R382) -/

/-- The class, SSM code and lock state of the acting root's QL marks. -/
def Block.rootQl (b : Block) : Nat × Nat × Nat :=
  let q := b.reg .dxs Reg.RF_QL_CFG
  let lock := (b.clk .dxs).lock
  let degraded := (fld q 15 8, fld q 27 24, lock.code)
  let own (r : Nat) : Nat × Nat × Nat :=
    (if r == 4 || r == 5 then (b.cand r).rxClass else b.rf .dxs Reg.RF_P_CFG 23 16 r,
      if r ≥ 6 then (b.cand r).rxSsm else b.rf .dxs Reg.RF_P_CFG 27 24 r, lock.code)
  match lock with
  | .free | .acquire => if b.sm.rdy then (248, 15, lock.code) else degraded
  | .overcast =>
    if !b.sm.rdy then degraded
    else if b.now ≤ b.dxs.root.overAt + b.rf .dxs Reg.RF_HOLD_SPEC 7 0 * 3600 * secCyc then (fld q 7 0, fld q 27 24, lock.code)
    else (fld q 23 16, fld q 31 28, lock.code)
  | .coarse => degraded
  | .locked =>
    match b.dxs.root.sel with
    | some r =>
      if b.sm.rdy && !beyondNs (if b.isTime r then (b.cand r).bias else 0) (b.rf .dxs Reg.RF_ALIGN 31 16) then own r
      else degraded
    | none => degraded

/-- The millisecond of hall time that runs. -/
def Block.msNow (b : Block) : Nat := b.ht .dxs / (1000000 * 65536)

/-- The acting root's QL mark on every DOWN and CROSS port: at each crossing of a millisecond, and on a change of class, SSM code or
lock state (R95). -/
def qlSend (b : Block) : Block :=
  if !b.actingRoot || (b.msNow == b.dxs.root.qlMs && b.dxs.root.lastQl == some b.rootQl) then b
  else
    let (c, s, l) := b.rootQl
    let ms := b.msNow
    (b.offerAll .dxs (b.portsOf roleDown ++ b.portsOf roleCross) (qlMark c s l (b.ht .dxs))).updRoot fun r =>
      { r with lastQl := some (c, s, l), qlMs := ms }

/-- One ESMC information PDU a second on each enabled port: the SSM code sent. -/
def esmcSend (b : Block) : Block :=
  if isRoot b.dxs.role && wbit (b.reg .dxs Reg.RF_CTRL) 18 then
    let ssm := if b.actingRoot then b.rootQl.2.1 else b.dxs.qlSsm
    b.updRoot fun r => { r with esmcTx := (List.range 2).map fun e => if r.ethUp.getD e false then ssm else r.esmcTx.getD e 0 }
  else b

/-! ### Taking the role (R114) -/

/-- A root becomes the acting root: its lock state carries over, its word is the present fw. -/
def Block.becomeActing (b : Block) : Block :=
  if !isRoot b.dxs.role || b.dxs.root.acting then b
  else
    (b.updClk .dxs fun c => { c with fw48 := c.fw * 65536, hold := false }).updRoot fun r =>
      { r with acting := true, sel := none, te := b.ht .dxs, overAt := b.now, inWin := 0, outWin := 0, acqAt := b.now }

/-! ### The commands -/

def execRefSelect (dt : Nat) (s : State) : Host.Outcome State Fault Refusal :=
  s.act dt [.clk .dxs, .regs .dxs, .root] refSelect

def execPpsEdge (dt n code : Nat) (s : State) : Host.Outcome State Fault Refusal :=
  s.act dt [.regs .dxs, .convs .dxs, .root, .free] (ppsEdge n code)

def execRefinEdgeMissing (dt n : Nat) (tenMhz : Bool) (s : State) : Host.Outcome State Fault Refusal :=
  s.act dt [.regs .dxs, .root] (refinEdgeMissing n tenMhz)

def execEsmcReceive (dt eth ssm : Nat) (ext : Bool) (s : State) : Host.Outcome State Fault Refusal :=
  s.act dt [.regs .dxs, .root] (esmcReceive eth ssm ext)

def execEsmcTimeout (dt eth : Nat) (s : State) : Host.Outcome State Fault Refusal :=
  s.act dt [.regs .dxs, .root] (esmcTimeout eth)

def execEsmcSend (dt : Nat) (s : State) : Host.Outcome State Fault Refusal :=
  s.act dt [.root] esmcSend

def execRootSecondClose (dt : Nat) (s : State) : Host.Outcome State Fault Refusal :=
  s.act dt [.clk .dxs, .regs .dxs, .convs .dxs, .root, .free] rootSecondClose

def execRootServoUpdate (dt : Nat) (s : State) : Host.Outcome State Fault Refusal :=
  s.act dt [.clk .dxs, .root] rootServoUpdate

def execRootAcquireEnd (dt : Nat) (s : State) : Host.Outcome State Fault Refusal :=
  s.act dt [.clk .dxs, .regs .dxs, .root] rootAcquireEnd

def execHtSet (dt off : Nat) (w : Word) (s : State) : Host.Outcome State Fault Refusal :=
  s.act dt [.clk .dxs, .regs .dxs, .root] (htSet off w)

def execHtStep (dt off : Nat) (w : Word) (s : State) : Host.Outcome State Fault Refusal :=
  s.act dt [.clk .dxs, .regs .dxs, .root] (htStep off w)

def execForceSet (dt off : Nat) (w : Word) (s : State) : Host.Outcome State Fault Refusal :=
  s.act dt [.regs .dxs] (forceSet off w)

def execHtLoad (dt off : Nat) (w : Word) (s : State) : Host.Outcome State Fault Refusal :=
  s.act dt [.clk .dxt, .regs .dxt] (htLoad off w)

def execFwSwWrite (dt : Nat) (w : Word) (s : State) : Host.Outcome State Fault Refusal :=
  s.act dt [.clk .dxs, .regs .dxs, .root] (fwSwWrite w)

def execFwSwPairDue (dt : Nat) (s : State) : Host.Outcome State Fault Refusal :=
  s.act dt [.clk .dxs, .root] fwSwPairDue

def execSwWatchdogExpire (dt : Nat) (s : State) : Host.Outcome State Fault Refusal :=
  s.act dt [.clk .dxs, .regs .dxs, .root] swWatchdogExpire

def execOcxoOfsGate (dt : Nat) (_freq _valid : Blank) (s : State) : Host.Outcome State Fault Refusal :=
  s.act dt [.regs .dxs, .convs .dxs, .root] ocxoOfsGate

def execAgeFit (dt : Nat) (_c1 _tau _t0 _hours _rms : Blank) (s : State) : Host.Outcome State Fault Refusal :=
  s.act dt [.regs .dxs, .root] ageFit

def execAgeExpire (dt : Nat) (s : State) : Host.Outcome State Fault Refusal :=
  s.act dt [.root] ageExpire

def execAgeSample (dt : Nat) (s : State) : Host.Outcome State Fault Refusal :=
  s.act dt [.root] ageSample

def execQlSend (dt : Nat) (s : State) : Host.Outcome State Fault Refusal :=
  s.act dt [.regs .dxs, .ports .dxs, .root] qlSend

def execEthLinkChange (dt eth : Nat) (up : Bool) (s : State) : Host.Outcome State Fault Refusal :=
  s.act dt [.regs .dxs, .root] (ethLinkChange eth up)

def execTdcEdge (dt : Nat) (sd : Side) (cv code src : Nat) (s : State) : Host.Outcome State Fault Refusal :=
  s.act dt (Foot.sided sd [] [.regs .dxs, .convs .dxs, .root, .meas, .free]) (tdcEdge sd cv code src)

end Sys2Proof.Machine
end

