-- ==== Sys2Proof/Machine/Apply.lean ====
section
/-! DEFINITION. The apply step: the candidate, its checks in order, what a commit does, results (R339 to R343, R353, R354). -/

namespace Sys2Proof.Machine

/-! ### Codes (R353) -/

def Code353.range : Nat := 1
def Code353.pin : Nat := 2
def Code353.refin : Nat := 3
def Code353.conv : Nat := 4
def Code353.output : Nat := 5
def Code353.ptpSlot : Nat := 6
def Code353.dmaChan : Nat := 7
def Code353.oppActive : Nat := 8
def Code353.syncBusy : Nat := 9
def Code353.foldBind : Nat := 10
def Code353.gathRange : Nat := 11
def Code353.sessBusy : Nat := 12
def Code353.seqBusy : Nat := 13
def Code353.seqBudget : Nat := 14

def noIdx : Nat := 0xFFFFFFFF

/-! ### The candidate (R340) -/

/-- The rows of a page, the DMA channels' included. -/
def pageRows (sd : Side) (p : Nat) : List RegRow :=
  blockRows sd p ++
    (if p == dmPage sd then (List.range (nChans sd)).flatMap fun c => chanRows sd (chanBase sd c) else [])

def insertRow (r : RegRow) : List RegRow → List RegRow
  | [] => [r]
  | x :: xs => if r.off ≤ x.off then r :: x :: xs else x :: insertRow r xs

def sortRows (l : List RegRow) : List RegRow := l.foldr insertRow []

/-- The staged registers of a page, by offset. -/
def rwsRows (b : Block) (sd : Side) (p : Nat) : List RegRow :=
  sortRows ((pageRows sd p).filter fun r => r.acc == .rws && (sd == .dxt || present b.dxs.role r.off))

def maskedPages (mask : Nat) : List Nat := (List.range 16).filter fun p => bit mask p

/-- Whether a row of a page is a staged register that exists. -/
def Block.isRws (b : Block) (sd : Side) (off : Nat) : Bool :=
  match rowAt sd off with
  | some r => r.acc == .rws && (sd == .dxt || present b.dxs.role off)
  | none => false

/-- The keys whose staged value differs from the value in effect, in the groups of a mask, ascending. -/
def Block.changedKeys (b : Block) (sd : Side) (mask : Nat) : List Nat :=
  let f := (b.node sd).regs.file
  let ks := sortNat ((f.stg.map Prod.fst ++ f.eff.map Prod.fst).eraseDups)
  ks.filter fun k =>
    bit mask (k % 2 ^ 21 / 4096) && nget (regReset sd) f.stg k != nget (regReset sd) f.eff k && b.isRws sd (k % 2 ^ 21)

/-- The candidate's value of a register instance. -/
def Block.candReg (b : Block) (sd : Side) (mask off : Nat) (idx : Nat := 0) : Word :=
  if bit mask (off / 4096) && b.isRws sd off then b.staged sd off idx else b.reg sd off idx

/-- A register instance's selector and index: an instance of R340 is known by its page, its selector and its index. -/
def instOf (sd : Side) (k : Nat) : Nat × Option Nat × Nat :=
  let off := k % 2 ^ 21
  (off / 4096, (rowAt sd off).bind fun r => r.sel, k / 2 ^ 21)

def Block.changedInsts (b : Block) (sd : Side) (mask : Nat) : List (Nat × Option Nat × Nat) :=
  ((b.changedKeys sd mask).map (instOf sd)).eraseDups

/-! ### Refusals -/

/-- The lowest masked group among those of the registers involved, else the lowest group of the mask. -/
def groupOf (mask : Nat) (offs : List Nat) : Nat :=
  match (maskedPages mask).find? fun p => offs.any fun o => o / 4096 == p with
  | some p => p
  | none => (maskedPages mask).headD 0

/-- A refusal naming the registers involved as (offset, index); the index posted is that of the first in the named group. -/
def refuse (sd : Side) (mask code res : Nat) (regs : List (Nat × Nat)) : Refusal353 :=
  let g := groupOf mask (regs.map Prod.fst)
  let idx := match regs.find? fun r => r.1 / 4096 == g with
    | some (o, i) => if ((rowAt sd o).bind fun r => r.sel).isSome then i else noIdx
    | none => noIdx
  ⟨code, g, res, idx⟩

def rangeRefusal (sd : Side) (mask off idx : Nat) : Refusal353 := refuse sd mask Code353.range off [(off, idx)]

/-! ### Single-field ranges -/

def between (v lo hi : Nat) : Bool := lo ≤ v && v ≤ hi

def isPow2 (v : Nat) : Bool := v > 0 && (v &&& (v - 1)) == 0

def ringSize (v hi : Nat) : Bool := isPow2 v && between v 4096 hi

def gib : Nat := 2 ^ 30
def mib : Nat := 2 ^ 20

/-- Ranges of the blocks that both parts have, by block-relative meaning. -/
def spRange (off : Nat) (w : Word) : Bool :=
  if off == Reg.SP_DWELL then between (fld w 9 0) 64 1000
  else if off == Reg.SP_RETRY_TO then between (fld w 7 0) 8 255
  else true

def refOk (sd : Side) (v : Nat) : Bool :=
  match sd with
  | .dxt => v ≤ 1
  | .dxs => v ≤ 47 || v == 63

def ttRange (sd : Side) (off : Nat) (w : Word) : Bool :=
  if off == Reg.TT_CTRL then fld w 6 4 ≤ 4
  else if off == Reg.TT_REFS then refOk sd (fld w 5 0) && refOk sd (fld w 13 8)
  else if off == Reg.TT_LOCK_CFG then fld w 31 24 ≥ 4
  else if off == Reg.TT_SERVO_CFG then fld w 31 16 ≥ 20 && between (fld w 11 8) 6 15 && between (fld w 3 0) 1 8
  else if off == Reg.TT_STEP_LIM then fld w 15 0 ≥ 100
  else if off == Reg.TT_FW_LIM then w.toNat ≤ 429497
  else true

def toRange (sd : Side) (off : Nat) (w : Word) : Bool :=
  if off == toReg sd Reg.TO_CTRL then fld w 1 0 != 3 && !(sd == .dxt && fld w 1 0 == 1)
  else if sd == .dxs && off == toReg sd Reg.TO_OFFSET then decide ((sx 32 w.toNat).natAbs < 500000000)
  else if off == toReg sd Reg.TO_PERIOD then w.toNat == 0 || w.toNat ≥ 16
  else if off == toReg sd Reg.TO_WIDTH then w.toNat ≥ 4
  else true

def isRange (sd : Side) (off : Nat) (w : Word) : Bool :=
  if off == isBase sd + Reg.IS_INT then fld w 31 24 ≥ 1 && fld w 23 16 ≥ 1 && fld w 15 0 ≥ 10 else true

def chanRange (sd : Side) (off : Nat) (w : Word) (en : Bool) : Bool :=
  let o := off % 4096
  if o < 0x100 then true
  else
    let rel := (o - 0x100) % 0x30
    let c := (o - 0x100) / 0x30
    if rel == 0x00 then
      (match sd with
        | .dxt => fld w 15 8 ≤ 48 && !(c == 0 && wbit w 30)
        | .dxs => fld w 15 8 ≤ 224)
    else if rel == 0x04 then
      !en || (match sd with
        | .dxt => fld w 30 28 == 0
        | .dxs => fld w 30 28 == 1 || fld w 30 28 == 2)
    else if rel == 0x10 then ringSize w.toNat (16 * mib)
    else true

/-- The ranges of a DX-T's own blocks. -/
def dxtRange (off : Nat) (w : Word) : Bool :=
  if off == Reg.DC_DESC_CFG then between (fld w 8 0) 2 256
  else if off == Reg.DC_MARGIN_CFG then fld w 23 16 ≥ 1
  else if off == Reg.DC_OPP_FREQ then
    fld w 18 16 ≤ 4
  else if off == Reg.SY_OBJ_CFG then
    let k := fld w 2 0
    k ≤ 4 && (k < 2 || fld w 31 16 ≥ 1)
  else if off == Reg.DXT_FD_B_LEN then between (fld w 18 0) 4 262144 && fld w 18 0 % 4 == 0
  else if off == Reg.DXT_FD_B_RLEN then fld w 20 0 ≤ 1048576 && fld w 20 0 % 4 == 0
  else if off == Reg.DXT_SS_REPORT_CFG then fld w 15 0 ≥ 1
  else if off == Reg.DXT_SS_COMMIT_CFG then fld w 22 0 % 4096 == 0 && between (fld w 22 0) 4096 4194304
  else true

/-- An operating-point entry: the target that VALID and the seam code allow (R161). -/
def oppFits (w : Word) : Bool :=
  let mhz := fld w 15 0
  let seam := fld w 18 16
  !wbit w 31 || (between mhz 400 2000 && (!(seam == 1 || seam == 2) || mhz ≥ 800))

def prioOk (w : Word) : Bool := (List.range 8).all fun i => let e := fld w (4 * i + 3) (4 * i); e ≤ 7 || e == 15

/-- The ranges of a DX-S48's own blocks. -/
def dxsRange (off idx : Nat) (w : Word) : Bool :=
  if off == Reg.FT_PERIOD then between (fld w 23 0) 2000 10000000 && fld w 23 0 % 4 == 0
  else if off == Reg.FT_LEAD then between (fld w 15 0) 800 50000 && fld w 15 0 % 4 == 0
  else if off == Reg.RF_CTRL then fld w 17 16 != 3 && fld w 15 8 ≤ 100
  else if off == Reg.RF_PRIO then prioOk w
  else if off == Reg.RF_LOCK then fld w 31 24 ≥ 4
  else if off == Reg.RF_GAIN then fld w 3 0 ≤ 12
  else if off == Reg.RF_WTR then fld w 15 0 ≤ 3600
  else if off == Reg.RF_SW_WDOG then between (fld w 15 0) 10 10000
  else if off == Reg.RF_P_CFG then idx < 4 || fld w 1 0 ≤ 1
  else if off == tmBase .dxs + Reg.TM_SW_CTRL then
    fld w 15 12 ≤ 8 && between (fld w 11 8) 1 8 && fld w 7 6 != 3 && fld w 5 4 != 3
  else if off == tmBase .dxs + Reg.TM_SW_WINDOW then w.toNat ≥ 1
  else if off == tmBase .dxs + Reg.TM_FQ_CTRL then between (fld w 31 8) 1 100000
  else if off == Reg.GA_CFG then fld w 5 4 != 3 && fld w 2 0 ≤ 4
  else if off == Reg.GA_EXPECT || off == Reg.GA_N || off == Reg.GA_K then between (fld w 16 0) 1 65536
  else if off == Reg.GA_DEADLINE then w.toNat ≤ 20000000
  else if off == Reg.GA_SETTLE then between w.toNat 100 100000
  else if off == Reg.GA_RANGE then fld w 15 0 + fld w 31 16 ≤ 0xFFFF
  else if off == Reg.DXS_FD_D_D then fld w 8 0 ≤ 256
  else if off == Reg.DXS_FD_CTRL then fld w 27 16 ≤ 2048
  else if off == Reg.DXS_FD_WAIT then between w.toNat 1000 10000000
  else if off == Reg.FS_C_LOG_SIZE || off == Reg.DXS_SS_EV_SIZE || off == Reg.BN_TREND_SIZE || off == Reg.BN_PROP_SIZE then
    ringSize w.toNat gib
  else if off == Reg.DXS_SS_KILL_GAP then fld w 15 0 ≥ 16
  else if off == Reg.DXS_SS_PARK_CFG then between (fld w 22 0) 1 4194304
  else if off == Reg.DXS_FQ_CTRL then fld w 31 16 ≥ 10 && fld w 15 0 ≥ 128
  else if off == Reg.DXS_FQ_VLOG_SIZE then ringSize w.toNat (16 * mib)
  else if off == Reg.DXS_FQ_J_CK_SLOT then w.toNat % 4096 == 0 && between w.toNat 65536 gib
  else if off == Reg.BN_CTRL then fld w 31 16 ≥ 10 && fld w 15 0 ≥ 10
  else if off == Reg.BN_TREND_CFG then fld w 31 24 ≥ 1 && fld w 23 16 ≥ 10 && fld w 15 0 ≥ 16
  else true

/-- Whether the candidate's value of a register lies in its range. -/
def Block.inRange (b : Block) (sd : Side) (mask off idx : Nat) : Bool :=
  let w := b.candReg sd mask off idx
  let p := off / 4096
  spRange off w && (p != 3 || ttRange sd off w) && toRange sd off w && isRange sd off w &&
    (p != dmPage sd || chanRange sd off w (wbit w 31)) &&
    (match sd with
      | .dxt => dxtRange off w
      | .dxs => dxsRange off idx w)

/-- Step 2: the first changed instance's register out of range, by group, offset and index. -/
def Block.checkRanges (b : Block) (sd : Side) (mask : Nat) : Option Refusal353 :=
  let insts := b.changedInsts sd mask
  (maskedPages mask).findSome? fun p => (rwsRows b sd p).findSome? fun r =>
    let idxs := sortNat ((insts.filter fun i => i.1 == p && i.2.1 == r.sel).map fun i => i.2.2)
    (idxs.find? fun i => !b.inRange sd mask r.off i).map fun i => rangeRefusal sd mask r.off i

/-! ### Consistency -/

/-- Whether one of the registers belongs to a changed instance. -/
def touched (sd : Side) (insts : List (Nat × Option Nat × Nat)) (off idx : Nat) : Bool :=
  insts.any fun i => i == instOf sd (regKey idx off)

/-- A pair of registers that must agree, and whether they do. -/
def Block.consPairs (b : Block) (sd : Side) (mask : Nat) : Nat → List (Nat × Bool) := fun idx =>
  let c (o : Nat) : Word := b.candReg sd mask o idx
  let lock := c Reg.TT_LOCK_CFG
  let servo := c Reg.TT_SERVO_CFG
  let per := (c (toReg sd Reg.TO_PERIOD)).toNat
  let wid := (c (toReg sd Reg.TO_WIDTH)).toNat
  let mode := fld (c (toReg sd Reg.TO_CTRL)) 1 0
  let widMax := if mode == 1 || per == 0 then 999999996 else per - 4
  [(Reg.SP_CRED_INIT, decide (sumN (credFields (c Reg.SP_CRED_INIT)) ≤ 256)),
   (Reg.TT_LOCK_CFG, decide (fld lock 23 12 > fld lock 11 0)),
   (Reg.TT_SERVO_CFG, decide (fld servo 11 8 > fld servo 3 0 + 3)),
   (toReg sd Reg.TO_WIDTH, decide (wid ≤ widMax))] ++
  (match sd with
    | .dxt =>
      [(Reg.DC_OPP_FREQ, idx ≥ 16 || oppFits (c Reg.DC_OPP_FREQ)),
       (Reg.DC_MARGIN_CFG, decide (fld (c Reg.DC_MARGIN_CFG) 13 8 < fld (c Reg.DC_MARGIN_CFG) 5 0)),
       (Reg.SY_OBJ_GID, !(fld (c Reg.SY_OBJ_CFG) 2 0 == 3 && fld (c Reg.SY_OBJ_GID) 15 0 == 0xFFFF))]
    | .dxs =>
      [(Reg.RF_LOCK, decide (fld (c Reg.RF_LOCK) 23 12 > fld (c Reg.RF_LOCK) 11 0)),
       (Reg.RF_GAIN, decide (fld (c Reg.RF_GAIN) 11 8 > fld (c Reg.RF_GAIN) 3 0 + 3))])

/-- R372: the mode, ring and event of a channel do not change while it stays enabled. -/
def Block.chanKept (b : Block) (sd : Side) (mask : Nat) : Option Nat :=
  if !bit mask (dmPage sd) then none
  else (List.range (nChans sd)).findSome? fun c =>
    let o := chanBase sd c
    let stays := wbit (b.reg sd o) 31 && wbit (b.candReg sd mask o) 31
    if !stays then none
    else if (b.reg sd o).toNat.testBit 30 != (b.candReg sd mask o).toNat.testBit 30 then some o
    else ([0x04, 0x08, 0x0C, 0x10].find? fun r => b.reg sd (o + r) != b.candReg sd mask (o + r)).map fun r => o + r

/-- Step 3. -/
def Block.checkCons (b : Block) (sd : Side) (mask : Nat) : Option Refusal353 :=
  let insts := b.changedInsts sd mask
  let idxs := sortNat ((insts.map fun i => i.2.2).eraseDups)
  let bad (idx : Nat) := (b.consPairs sd mask idx).find? fun x => !x.2 && touched sd insts x.1 idx
  match idxs.findSome? fun i => (bad i).map fun x => (x.1, i) with
  | some (off, i) => some (rangeRefusal sd mask off i)
  | none => (b.chanKept sd mask).map fun off => rangeRefusal sd mask off 0

/-! ### State conditions -/

/-- Whether a slot of an object holds a local arrival and is not done (R190). A DMA_EVENT whose arrivals have all been consumed
holds none. -/
def Block.slotBusy (b : Block) (o s : Nat) : Bool :=
  let v := b.syncSlot o s
  v.used && (objKind b o != 4 || v.count != 0) && !b.objDone o s

def Block.objBusy (b : Block) (o : Nat) : Bool := b.slotBusy o 0 || b.slotBusy o 1

/-- The operating-point entry of a DX-T that a strobe may not change: in use, or held (R161). -/
def Block.oppBusy (b : Block) (e : Nat) : Bool :=
  b.dxt.die.opp == e || match b.dxt.step.opp with
    | some (_, x) => x == e
    | none => false

/-- The objects that a fold binding names while valid, before and after the apply: a change to it changes their binding
(R354). -/
def Block.boundObjs (b : Block) (mask f : Nat) : List Nat :=
  ([b.reg .dxt Reg.DXT_FD_B_CFG f, b.candReg .dxt mask Reg.DXT_FD_B_CFG f].filter fun w => wbit w 31).map fun w => fld w 13 0

/-- Step 4 at a DX-T. -/
def Block.stateDxt (b : Block) (mask : Nat) (src : Bool) (k : Nat) : Option Refusal353 :=
  let off := k % 2 ^ 21
  let idx := k / 2 ^ 21
  if (off == Reg.DC_OPP_FREQ || off == Reg.DC_OPP_VREQ) && !src && b.oppBusy idx then
    some (refuse .dxt mask Code353.oppActive idx [(off, idx)])
  else if (off == Reg.SY_OBJ_CFG || off == Reg.SY_OBJ_GID) && b.objBusy idx then
    some (refuse .dxt mask Code353.syncBusy idx [(off, idx)])
  else if off / 4096 == 0x8 then
    ((b.boundObjs mask idx).find? b.objBusy).map fun o => refuse .dxt mask Code353.syncBusy o [(off, idx)]
  else if off / 4096 == 0xA && b.bound then some (refuse .dxt mask Code353.sessBusy noIdx [(off, idx)])
  else none

/-- Step 4 at a DX-S48. -/
def Block.stateDxs (b : Block) (mask : Nat) (k : Nat) : Option Refusal353 :=
  let off := k % 2 ^ 21
  let idx := k / 2 ^ 21
  if off / 4096 == 0xA && between off Reg.DXS_SS_EV_BASE_LO Reg.DXS_SS_WHEEL_BASE_HI then
    (b.loadedJobs.find? fun j => (b.job j).sess).map fun j => refuse .dxs mask Code353.sessBusy j [(off, idx)]
  else if off / 4096 == 0x9 && (b.job idx).active then some (refuse .dxs mask Code353.seqBusy idx [(off, idx)])
  else none

def Block.checkState (b : Block) (sd : Side) (mask : Nat) (src : Bool) : Option Refusal353 :=
  (b.changedKeys sd mask).findSome? fun k =>
    match sd with
    | .dxt => b.stateDxt mask src k
    | .dxs => b.stateDxs mask k

/-! ### Resource claims (R354) -/

/-- Valid fold bindings of the candidate: (binding, its CFG). -/
def Block.candBinds (b : Block) (mask : Nat) : List (Nat × Word) :=
  ((List.range 64).map fun i => (i, b.candReg .dxt mask Reg.DXT_FD_B_CFG i)).filter fun x => wbit x.2 31

def Block.claimsDxt (b : Block) (mask : Nat) : Option Refusal353 :=
  let bs := b.candBinds mask
  let chan := bs.find? fun x => wbit (b.candReg .dxt mask (chanBase .dxt (fld x.2 18 16))) 30
  let dup := bs.find? fun x => bs.any fun y => y.1 < x.1 && fld y.2 13 0 == fld x.2 13 0
  let bad := bs.find? fun x =>
    let c := b.candReg .dxt mask Reg.SY_OBJ_CFG (fld x.2 13 0)
    !(fld c 2 0 == 3 && !wbit c 4)
  match chan, dup, bad with
  | some x, _, _ => some (refuse .dxt mask Code353.dmaChan (fld x.2 18 16)
      [(Reg.DXT_FD_B_CFG, x.1), (chanBase .dxt (fld x.2 18 16), 0)])
  | none, some x, _ => some (refuse .dxt mask Code353.foldBind (fld x.2 13 0) [(Reg.DXT_FD_B_CFG, x.1)])
  | none, none, some x => some (refuse .dxt mask Code353.foldBind (fld x.2 13 0)
      [(Reg.DXT_FD_B_CFG, x.1), (Reg.SY_OBJ_CFG, fld x.2 13 0)])
  | none, none, none => none

/-- PIN: the ball of output 7 or 8 claimed twice. -/
def Block.claimPin (b : Block) (mask : Nat) : Option Refusal353 :=
  let pin := fld (b.candReg .dxs mask Reg.RF_CTRL) 17 16
  let o := pin + 6
  if isRoot b.dxs.role && (pin == 1 || pin == 2) && fld (b.candReg .dxs mask (toReg .dxs Reg.TO_CTRL) o) 1 0 != 0 then
    some (refuse .dxs mask Code353.pin o [(Reg.RF_CTRL, 0), (toReg .dxs Reg.TO_CTRL, o)])
  else none

/-- REFIN: an output aligned to an input whose candidate does not use its 1PPS. -/
def Block.claimRefin (b : Block) (mask : Nat) : Option Refusal353 :=
  (List.range 9).findSome? fun o =>
    let c := b.candReg .dxs mask (toReg .dxs Reg.TO_CTRL) o
    let n := fld c 6 5
    if isRoot b.dxs.role && fld c 1 0 == 1 && fld (b.candReg .dxs mask Reg.RF_P_CFG n) 1 0 % 2 == 0 then
      some (refuse .dxs mask Code353.refin n [(Reg.RF_P_CFG, n), (toReg .dxs Reg.TO_CTRL, o)])
    else none

/-- CONV: a software measurement on a converter that a candidate in use owns (log entry 10, DEDUCED). -/
def Block.claimConv (b : Block) (mask : Nat) : Option Refusal353 :=
  let ks := b.changedKeys .dxs mask
  let use (n : Nat) : Nat := fld (b.candReg .dxs mask Reg.RF_P_CFG n) 1 0
  let sw := tmBase .dxs + Reg.TM_SW_CTRL
  let fq := tmBase .dxs + Reg.TM_FQ_CTRL
  let live (m : MeasState) := m == .armed || m == .running
  let chk (off : Nat) (rs : List Nat) (st : MeasState) : Option Refusal353 :=
    let n := fld (b.candReg .dxs mask off) 1 0
    let moved := (rs.any fun r => ks.contains (regKey 0 (tmBase .dxs + r))) || (ks.contains (regKey n Reg.RF_P_CFG) && live st)
    if isRoot b.dxs.role && moved && use n != 0 then
      some (refuse .dxs mask Code353.conv n [(Reg.RF_P_CFG, n), (off, 0)])
    else none
  match chk sw [Reg.TM_SW_CTRL, Reg.TM_SW_WINDOW, Reg.TM_SW_START, Reg.TM_SW_START + 4, Reg.TM_SW_START + 8] b.dxs.sw.st with
  | some r => some r
  | none => chk fq [Reg.TM_FQ_CTRL] b.dxs.sw.fq

def Block.claimOutput (b : Block) (mask : Nat) : Option Refusal353 :=
  let sw := tmBase .dxs + Reg.TM_SW_CTRL
  let c := b.candReg .dxs mask sw
  let o := fld c 15 12
  if fld c 7 6 == 2 && fld (b.candReg .dxs mask (toReg .dxs Reg.TO_CTRL) o) 1 0 == 0 then
    some (refuse .dxs mask Code353.output o [(toReg .dxs Reg.TO_CTRL, o), (sw, 0)])
  else none

def Block.claimPtp (b : Block) (mask : Nat) : Option Refusal353 :=
  let c (i : Nat) : Word := b.candReg .dxs mask Reg.RF_P_CFG i
  if isRoot b.dxs.role && fld (c 4) 1 0 == 1 && fld (c 5) 1 0 == 1 && wbit (c 4) 2 == wbit (c 5) 2 &&
      fld (c 4) 15 8 == fld (c 5) 15 8 then
    some (refuse .dxs mask Code353.ptpSlot 1 [(Reg.RF_P_CFG, 5)])
  else none

/-- GATH_RANGE: the candidate's ranges of two loaded jobs overlap; the job overlapped is the one whose range stays. -/
def Block.claimRange (b : Block) (mask : Nat) : Option Refusal353 :=
  let js := b.loadedJobs
  let rg (j : Nat) : Nat × Nat := (fld (b.candReg .dxs mask Reg.GA_RANGE j) 15 0, fld (b.candReg .dxs mask Reg.GA_RANGE j) 31 16)
  let clash (i j : Nat) := i != j && (rg i).2 > 0 && (rg j).2 > 0 && (rg i).1 < (rg j).1 + (rg j).2 && (rg j).1 < (rg i).1 + (rg i).2
  let ks := b.changedKeys .dxs mask
  (js.filter fun i => ks.contains (regKey i Reg.GA_RANGE)).findSome? fun i =>
    (js.find? fun j => clash i j).map fun j => refuse .dxs mask Code353.gathRange j [(Reg.GA_RANGE, i), (Reg.GA_RANGE, j)]

def firstSome : List (Option Refusal353) → Option Refusal353
  | [] => none
  | some r :: _ => some r
  | none :: rs => firstSome rs

def Block.checkClaims (b : Block) (sd : Side) (mask : Nat) : Option Refusal353 :=
  if (b.changedKeys sd mask).isEmpty then none
  else match sd with
    | .dxt => b.claimsDxt mask
    | .dxs => firstSome
        [b.claimPin mask, b.claimRefin mask, b.claimConv mask, b.claimOutput mask, b.claimPtp mask, b.claimRange mask]

/-! ### The sequencer budget (R220) -/

/-- Whether the loads (instructions per folio, period in ns) fit 8 * 10^8 instructions per second. -/
def budgetFits (l : List (Nat × Nat)) : Bool :=
  let den := l.foldl (fun a x => a * max 1 x.2) 1
  let num := l.foldl (fun a x => a + x.1 * 1000000000 * (den / max 1 x.2)) 0
  num ≤ 800000000 * den

def Block.budgetLoads (b : Block) (per : Nat → Nat) : List (Nat × Nat) :=
  b.loadedJobs.map fun j => ((b.job j).ipf, per j)

def Block.checkBudget (b : Block) (sd : Side) (mask : Nat) : Option Refusal353 :=
  if sd == .dxt || !isRoot b.dxs.role then none
  else
    let ks := (b.changedKeys .dxs mask).filter fun k => k % 2 ^ 21 == Reg.FT_PERIOD && (b.job (k / 2 ^ 21)).loaded
    match ks with
    | [] => none
    | k :: _ =>
      if budgetFits (b.budgetLoads fun j => fld (b.candReg .dxs mask Reg.FT_PERIOD j) 23 0) then none
      else some (refuse .dxs mask Code353.seqBudget (k / 2 ^ 21) [(Reg.FT_PERIOD, k / 2 ^ 21)])

/-! ### The whole check -/

/-- Mask bits of pages that no block of the part's role occupies. -/
def Block.badPage (b : Block) (sd : Side) (mask : Nat) : Option Nat :=
  (maskedPages mask).find? fun p =>
    decodeSize sd p == 0 || (sd == .dxs && !isRoot b.dxs.role && (p == 0x1 || p == 0x4 || p == 0x9 || p == 0xA))

/-- R340: the first failure, or none. `src` tells an APPLY record or APPLYAT from a strobe. -/
def Block.checkApply (b : Block) (sd : Side) (mask : Nat) (src : Bool) : Option Refusal353 :=
  match b.badPage sd mask with
  | some p => some ⟨Code353.range, p, p * 4096, noIdx⟩
  | none => firstSome [b.checkRanges sd mask, b.checkCons sd mask, b.checkState sd mask src, b.checkClaims sd mask,
      b.checkBudget sd mask]

/-- The values that an accepted apply will commit. -/
def Block.applyValues (b : Block) (sd : Side) (mask : Nat) : List (Nat × Word) :=
  (b.changedKeys sd mask).map fun k => (k, nget (regReset sd) (b.node sd).regs.file.stg k)

/-! ### Committing (R342) -/

/-- Whether a DX-T operating-point value waits for the launch (R161). -/
def Block.waitsLaunch (b : Block) (sd : Side) (src : Bool) (k : Nat) : Bool :=
  let off := k % 2 ^ 21
  sd == .dxt && src && (off == Reg.DC_OPP_FREQ || off == Reg.DC_OPP_VREQ) && b.oppBusy (k / 2 ^ 21)

/-- Whether a folio-timing value waits for the job's next CUTOFF (R40). -/
def Block.waitsCutoff (b : Block) (sd : Side) (src : Bool) (k : Nat) : Bool :=
  let off := k % 2 ^ 21
  sd == .dxs && !src && (off == Reg.FT_PERIOD || off == Reg.FT_LEAD || off == Reg.FT_DELIVERY) && (b.job (k / 2 ^ 21)).active

/-- The page of the time outputs. -/
def toPage : Side → Nat
  | .dxt => 0x4
  | .dxs => 0x5

/-- R210: engines out of service that an apply of ENG_EN enables return with their next passing test. -/
def Block.askKats (b : Block) : Block :=
  let en := (b.reg .dxs Reg.DXS_FD_ENG_EN).toNat
  b.each (List.range 32) fun b e =>
    b.updEng e fun x => if x.katFail && bit en e then { x with kat := true, ret := true } else x

/-- R333: the one bit KAT_EN is shown in two registers: bit `i` of the first is copied into bit `k` of the second. -/
def Block.mirrorKat (b : Block) (src dst i k : Nat) : Block :=
  let w := (b.reg .dxs dst).toNat
  let v := (w - (w &&& 2 ^ k)) + b2n (wbit (b.reg .dxs src) i) * 2 ^ k
  b.commit .dxs dst (w32 v)

/-- A changed WARN: every region is judged by it, and an entry to warning is counted (R165). -/
def Block.warnAnew (b : Block) : Block :=
  let w := b.rf .dxt Reg.DC_MARGIN_CFG 5 0
  b.each (b.dxt.die.regions.map Prod.fst) fun b r =>
    let x := b.region r
    let now := x.margins.any fun c => c < w
    let b := b.updRegion r fun x => { x with warn := now }
    if now && !x.warn then b.bump .dxt Reg.DC_MARGIN_WARN_CNT else b

/-- What else an applied value does. -/
def Block.afterCommit (b : Block) (sd : Side) (off idx : Nat) (old : Word) : Block :=
  if off == Reg.SP_CTRL then b.portCtrlChanged sd idx old
  else if off == Reg.TT_CTRL then
    let w := b.reg sd off
    let man := wbit w 0 && (!wbit old 0 || wbit w 1 != wbit old 1)
    let b := if man then b.updClk sd fun c => { c with manNow := true } else b
    if wbit w 3 && !wbit old 3 then b.servoOn sd else if !wbit w 3 && wbit old 3 then b.servoOff sd else b
  else if off == Reg.TT_FW_LIM then b.limitAnew sd
  else if off == Reg.TT_P_CABLE_ASYM then b.asymAnew sd idx
  else if sd == .dxt && off == Reg.DC_MARGIN_CFG then b.warnAnew
  else if sd == .dxs && off == Reg.RF_P_CFG then
    if fld old 1 0 != b.rf .dxs Reg.RF_P_CFG 1 0 idx then b.useChanged idx (fld old 1 0) else b
  else if sd == .dxs && off == Reg.DXS_FD_CTRL then
    b.mirrorKat off (isBase .dxs + Reg.IS_CTRL) 1 0
  else if sd == .dxs && off == isBase .dxs + Reg.IS_CTRL then
    b.mirrorKat off Reg.DXS_FD_CTRL 0 1
  else if off / 4096 == toPage sd then b.outApplied sd idx
  else if off / 4096 == dmPage sd && 0x100 ≤ off % 4096 && (off % 4096 - 0x100) % 0x30 == 0 then
    b.chanEnabled sd ((off % 4096 - 0x100) / 0x30) old
  else b

/-- Commits values, all at one edge, then what they do. -/
def Block.commitAll (b : Block) (sd : Side) (src : Bool) (l : List (Nat × Word)) : Block :=
  let now := l.filter fun x => !b.waitsLaunch sd src x.1 && !b.waitsCutoff sd src x.1
  let olds := now.map fun x => (x.1, nget (regReset sd) (b.node sd).regs.file.eff x.1)
  let late := l.filter fun x => b.waitsLaunch sd src x.1
  let cuts := l.filter fun x => b.waitsCutoff sd src x.1
  let b := if late.isEmpty then b else b.updDie fun d => { d with atLaunch := d.atLaunch ++ late }
  let b := b.each cuts fun b x => b.updJob (x.1 / 2 ^ 21) fun y => { y with ftStaged := y.ftStaged ++ [x] }
  let b := b.each now fun b x => b.commit sd x.1 x.2
  let outs := ((now.filter fun x => x.1 % 2 ^ 21 / 4096 == toPage sd).map
    fun x => (x.1 % 2 ^ 21 / 4096, x.1 / 2 ^ 21)).eraseDups
  let b := b.each (olds.filter fun x => !(outs.contains (x.1 % 2 ^ 21 / 4096, x.1 / 2 ^ 21))) fun b x =>
    b.afterCommit sd (x.1 % 2 ^ 21) (x.1 / 2 ^ 21) x.2
  b.each outs fun b o => b.outApplied sd o.2

/-! ### Results -/

/-- APPLY_ST as posted: group 0xF and no code when accepted. -/
def applySt (v : Option Refusal353) (src : Bool) (seq : Nat) : Word :=
  match v with
  | none => w32 (0xF * 2 ^ 24 + b2n src * 2 ^ 8 + seq % 256)
  | some r => w32 (r.group * 2 ^ 24 + r.code * 2 ^ 16 + b2n src * 2 ^ 8 + seq % 256)

/-- Posts a step's result and counts it. -/
def Block.postApply (b : Block) (sd : Side) (v : Option Refusal353) (src : Bool) : Block :=
  let seq := ((b.node sd).regs.seq + 1) % 256
  let b := (b.updRegs sd fun r => { r with seq := seq }).hw sd Reg.CM_APPLY_ST 0 (applySt v src seq)
  match v with
  | none => ((b.hw sd Reg.CM_APPLY_RES 0 0).hw sd Reg.CM_APPLY_IDX 0 (w32 noIdx)).bump sd Reg.CM_APPLY_CNT
  | some r => ((b.hw sd Reg.CM_APPLY_RES 0 (w32 r.res)).hw sd Reg.CM_APPLY_IDX 0 (w32 r.idx)).bump sd Reg.CM_REFUSE_CNT

/-! ### Steps (R340, R341) -/

/-- A step takes 64 time-clock cycles. -/
def applyCycles : Nat := 64

/-- Starts a step: its candidate and its verdict are formed at once. -/
def Block.startApply (b : Block) (sd : Side) (mask : Nat) (src : Bool) : Block :=
  let v := b.checkApply sd mask src
  let l := if v.isNone then b.applyValues sd mask else []
  b.updRegs sd fun r => { r with run := some ⟨mask, b2n src, v, l, b.now + applyCycles⟩ }

/-- A strobe: a step at once, or queued, or dropped. -/
def Block.strobe (b : Block) (sd : Side) (mask : Nat) : Block :=
  let r := (b.node sd).regs
  if r.run.isNone then b.startApply sd mask false
  else if r.queued.isNone then b.updRegs sd fun r => { r with queued := some mask }
  else b.bump sd Reg.CM_APPLY_DROP_CNT

/-- A step that falls due from a record. -/
def Block.dueApply (b : Block) (sd : Side) (mask : Nat) : Block :=
  if (b.node sd).regs.run.isNone then b.startApply sd mask true
  else b.updRegs sd fun r => { r with due := r.due ++ [mask] }

/-- Serves what waits: steps due from records before a queued strobe. -/
def Block.nextApply (b : Block) (sd : Side) : Block :=
  let r := (b.node sd).regs
  match r.due with
  | m :: ms => (b.updRegs sd fun r => { r with due := ms }).startApply sd m true
  | [] => match r.queued with
    | some m => (b.updRegs sd fun r => { r with queued := none }).startApply sd m false
    | none => b

/-- The edge that ends a step: values or a refusal, the result, held writes, the next step. -/
def Block.endApply (b : Block) (sd : Side) : Block :=
  match (b.node sd).regs.run with
  | none => b
  | some r =>
    if b.now < r.endAt then b
    else
      let src := r.src == 1
      let b := b.updRegs sd fun x => { x with run := none }
      let b := if r.verdict.isNone then b.commitAll sd src r.commits else b
      let b := if r.verdict.isNone && sd == .dxs && bit r.mask (Reg.DXS_FD_ENG_EN / 4096) then b.askKats else b
      let b := b.postApply sd r.verdict src
      let b := if sd == .dxt && src then
        (if r.verdict.isSome then b.raiseDxt Cause.applyConflict else b.bump .dxt Reg.FP_REC_CNT) else b
      let ws := (b.node sd).regs.heldWrites
      let b := (b.updRegs sd fun x => { x with heldWrites := [] }).each ws fun b x => b.setStg sd x.1 x.2
      b.nextApply sd

/-! ### Records at a DX-T (R343) -/

/-- HT reaches the first step of the next folio's APPLY records: each record is its own step, in list order. -/
def applyRecordStep (b : Block) : Block :=
  let s := b.dxt.step
  let rs := s.recs.filter fun r => r.rtype == 1 && r.folio == s.next
  if s.st != .armed || s.applyBegun || rs.isEmpty || b.ht .dxt + 64 * (rs.length + 2) * 65536 < s.go then b
  else
    let b := b.updStep fun x => { x with applyBegun := true }
    b.each rs fun b r => b.dueApply .dxt (r.a32 % 65536)

/-! ### The commands -/

/-- A write of a mask to CM_APPLY. -/
def applyWrite (sd : Side) (w : Word) (b : Block) : Block :=
  (b.hw sd Reg.CM_APPLY 0 (w32 (fld w 15 0))).strobe sd (fld w 15 0)

def applyStepEnd (sd : Side) (b : Block) : Block := b.endApply sd

def execApply (dt : Nat) (sd : Side) (w : Word) (s : State) : Host.Outcome State Fault Refusal :=
  s.act dt [.regs sd] (applyWrite sd w)

def execApplyStepEnd (dt : Nat) (sd : Side) (s : State) : Host.Outcome State Fault Refusal :=
  s.act dt (Foot.sided sd [.clk .dxt, .regs .dxt, .ports .dxt, .sheets .dxt, .outs .dxt, .dma .dxt, .eyes .dxt, .raised .dxt,
    .sram .dxt, .die, .lastCause, .free] [.clk .dxs, .regs .dxs, .ports .dxs, .inbox .dxs, .sheets .dxs, .outs .dxs, .dma .dxs,
    .eyes .dxs, .raised .dxs, .sram .dxs, .root, .folds, .jobs, .host, .free]) (applyStepEnd sd)

def execApplyRecordStep (dt : Nat) (s : State) : Host.Outcome State Fault Refusal :=
  s.act dt [.regs .dxt, .step] applyRecordStep

end Sys2Proof.Machine
end

