-- ==== Sys2Proof/Machine/FoldArith.lean ====
section
/-! DEFINITION. The arithmetic of folds: number formats, operators, layouts and the canonical tree (R191 to R204). -/

namespace Sys2Proof.Machine

/-! ### Formats (R193) -/

def fmtSize : Nat → Nat
  | 0 => 4 | 1 => 2 | 2 => 2 | 3 => 1 | 4 => 1 | 5 => 4 | _ => 8

def isFloat (f : Nat) : Bool := f ≤ 4

/-- Exponent bits, fraction bits, bias. -/
def fmtShape : Nat → Nat × Nat × Nat
  | 0 => (8, 23, 127) | 1 => (8, 7, 127) | 2 => (5, 10, 15) | 3 => (4, 3, 7) | _ => (5, 2, 15)

def canonNan : Nat → Nat
  | 0 => 0x7FC00000 | 1 => 0x7FC0 | 2 => 0x7E00 | 3 => 0x7F | 4 => 0x7E | _ => 0

/-- A floating value: (-1)^neg * m * 2^e. -/
inductive FVal where
  | nan
  | inf (neg : Bool)
  | fin (neg : Bool) (m : Nat) (e : Int)
deriving DecidableEq, Repr

/-- The value of an encoding of a floating format. -/
def fdecode (f v : Nat) : FVal :=
  let (eb, fb, bias) := fmtShape f
  let frac := v % 2 ^ fb
  let ex := v / 2 ^ fb % 2 ^ eb
  let neg := v / 2 ^ (fb + eb) % 2 == 1
  if f == 3 && ex == 15 && frac == 7 then .nan
  else if f != 3 && ex == 2 ^ eb - 1 then (if frac == 0 then .inf neg else .nan)
  else if ex == 0 then .fin neg frac (1 - bias - fb)
  else .fin neg (2 ^ fb + frac) ((ex : Int) - bias - fb)

def isNan (f v : Nat) : Bool := isFloat f && fdecode f v == .nan

/-- The power of two at or below n/d, for n > 0. -/
def floorLog (n d : Nat) : Int :=
  let g : Int := (Nat.log2 n : Int) - Nat.log2 d
  let below (e : Int) : Bool := if 0 ≤ e then decide (d * 2 ^ e.toNat ≤ n) else decide (d ≤ n * 2 ^ (-e).toNat)
  if below g then g else g - 1

/-- n/d rounded once to a format, ties to even, with gradual underflow and overflow to infinity. -/
def fround (f : Nat) (neg : Bool) (n d : Nat) : Nat :=
  let (eb, fb, bias) := fmtShape f
  let sign := if neg then 2 ^ (fb + eb) else 0
  if n == 0 then sign
  else
    let qmin : Int := 1 - (bias : Int) - fb
    let q := max qmin (floorLog n d - fb)
    let r := (if 0 ≤ q then roundEven n (d * 2 ^ q.toNat) else roundEven (n * 2 ^ (-q).toNat : Nat) d).toNat
    let v := (q - qmin).toNat * 2 ^ fb + r
    let infv := (2 ^ eb - 1) * 2 ^ fb
    sign + min v infv

/-- A value rounded to a format. -/
def fencode (f : Nat) : FVal → Nat
  | .nan => canonNan f
  | .inf neg => let (eb, fb, _) := fmtShape f; (if neg then 2 ^ (fb + eb) else 0) + (2 ^ eb - 1) * 2 ^ fb
  | .fin neg m e => if 0 ≤ e then fround f neg (m * 2 ^ e.toNat) 1 else fround f neg m (2 ^ (-e).toNat)

/-! ### Binary32 arithmetic with ties to even -/

def signed (neg : Bool) (m : Nat) : Int := if neg then -(m : Int) else m

def f32add (a c : Nat) : Nat :=
  match fdecode 0 a, fdecode 0 c with
  | .nan, _ => canonNan 0
  | _, .nan => canonNan 0
  | .inf p, .inf q => if p == q then a else canonNan 0
  | .inf _, .fin _ _ _ => a
  | .fin _ _ _, .inf _ => c
  | .fin p m x, .fin q n y =>
    let lo := min x y
    let s := signed p m * 2 ^ (x - lo).toNat + signed q n * 2 ^ (y - lo).toNat
    if s == 0 then (if p && q then 0x80000000 else 0) else fencode 0 (.fin (decide (s < 0)) s.natAbs lo)

def f32neg (a : Nat) : Nat := a ^^^ 0x80000000

def f32mul (a c : Nat) : Nat :=
  match fdecode 0 a, fdecode 0 c with
  | .nan, _ => canonNan 0
  | _, .nan => canonNan 0
  | .inf p, .inf q => fencode 0 (.inf (p != q))
  | .inf p, .fin q n _ => if n == 0 then canonNan 0 else fencode 0 (.inf (p != q))
  | .fin p m _, .inf q => if m == 0 then canonNan 0 else fencode 0 (.inf (p != q))
  | .fin p m x, .fin q n y => fencode 0 (.fin (p != q) (m * n) (x + y))

/-- a / c rounded to a format, with IEEE division by zero. -/
def fdiv (f a c : Nat) : Nat :=
  match fdecode 0 a, fdecode 0 c with
  | .nan, _ => canonNan f
  | _, .nan => canonNan f
  | .inf _, .inf _ => canonNan f
  | .inf p, .fin q _ _ => fencode f (.inf (p != q))
  | .fin p _ _, .inf q => fencode f (.fin (p != q) 0 0)
  | .fin p m x, .fin q n y =>
    if n == 0 then (if m == 0 then canonNan f else fencode f (.inf (p != q)))
    else
      let s := x - y
      if 0 ≤ s then fround f (p != q) (m * 2 ^ s.toNat) n else fround f (p != q) m (n * 2 ^ (-s).toNat)

/-- The sum of y^n / n! in units of 2^-sc for y = m * 2^e. -/
def expTerms (m : Nat) (e : Int) : Nat → Nat → Nat → Nat → Nat
  | 0, _, _, acc => acc
  | k + 1, n, t, acc =>
    let p := t * m
    let t' := (if 0 ≤ e then p * 2 ^ e.toNat else p / 2 ^ (-e).toNat) / n
    expTerms m e k (n + 1) t' (acc + t')

/-- Bits of the series (log entry 11, DEDUCED). -/
def expScale : Nat := 480

/-- e^x correctly rounded to binary32, for x at or below 0; +0 for minus infinity. -/
def expRn (x : Nat) : Nat :=
  match fdecode 0 x with
  | .nan => canonNan 0
  | .inf neg => if neg then 0 else x
  | .fin neg m e =>
    if m == 0 then 0x3F800000
    else
      let big := if 0 ≤ e then decide (m * 2 ^ e.toNat ≥ 200) else decide (m ≥ 200 * 2 ^ (-e).toNat)
      if big then (if neg then 0 else 0x7F800000)
      else
        let one := 2 ^ expScale
        let s := expTerms m e 900 1 one one
        if neg then fround 0 false one s else fround 0 false s one

/-! ### Order (R194) -/

/-- A key that orders the values of a format: -0 below +0; integers signed. -/
def fkey (f v : Nat) : Int :=
  let w := 8 * fmtSize f
  if isFloat f then
    let mag := v % 2 ^ (w - 1)
    if v / 2 ^ (w - 1) % 2 == 1 then -(mag : Int) - 1 else mag
  else sx w v

/-! ### Descriptors (R191) -/

/-- A fold descriptor's fields. -/
structure FoldOp where
  op : Nat
  inF : Nat
  outF : Nat
  final : Bool
  destList : Bool
  k : Nat
  d : Nat
  rows : Nat
  cols : Nat
deriving DecidableEq, Repr

def foldOpOf (bs : List Byte) : FoldOp :=
  let fl := leAt bs 3 1
  ⟨leAt bs 0 1, leAt bs 1 1, leAt bs 2 1, bit fl 0, bit fl 1, leAt bs 4 1, leAt bs 6 2, leAt bs 8 4, leAt bs 12 4⟩

/-- Bits of a SUM_EXACT accumulator (R196). -/
def accBits : Nat → Nat
  | 0 => 320 | 1 => 320 | 6 => 128 | _ => 64

/-- The weight of an accumulator's lowest bit. -/
def accLsb : Nat → Int
  | 0 => -149 | 1 => -149 | 2 => -24 | 3 => -9 | 4 => -16 | _ => 0

def c4 (x : Nat) : Nat := ceilMul 4 x

/-- Message sizes (R200). -/
def leafSize (o : FoldOp) : Nat :=
  if o.op == 9 then o.rows * c4 (8 + o.d * fmtSize o.inF) else c4 (o.rows * o.cols * fmtSize o.inF)

def partSize (o : FoldOp) : Nat :=
  match o.op with
  | 0 => o.rows * o.cols * accBits o.inF / 8
  | 5 => o.rows * o.cols * 4
  | 3 => o.rows * 16
  | 4 => o.rows * 16
  | 8 => o.rows * o.k * 16
  | 9 => o.rows * (8 + 4 * o.d)
  | _ => leafSize o

def resSize (o : FoldOp) : Nat :=
  match o.op with
  | 0 => c4 (o.rows * o.cols * fmtSize o.outF)
  | 9 => if o.final then o.rows * c4 (o.d * fmtSize o.outF) else o.rows * c4 (8 + o.d * fmtSize o.outF)
  | _ => partSize o

/-- The bytes of a partial that a task covers: 256 element positions, or one row (R209). -/
def taskBytes (o : FoldOp) : Nat :=
  match o.op with
  | 0 => 256 * accBits o.inF / 8
  | 5 => 1024
  | 3 => 16
  | 4 => 16
  | 8 => 16 * o.k
  | 9 => 8 + 4 * o.d
  | _ => 256 * fmtSize o.inF

/-- Tasks of a node: one per 256 elements, or one per row. -/
def taskCount (o : FoldOp) : Nat :=
  if o.op == 3 || o.op == 4 || o.op == 8 || o.op == 9 then o.rows else (o.rows * o.cols + 255) / 256

/-! ### Elements -/

/-- `n` numbers of `w` bytes each, packed. -/
def unpack (w : Nat) : Nat → List Byte → List Nat
  | 0, _ => []
  | n + 1, bs => ofLe (bs.take w) :: unpack w n (bs.drop w)

def pack (w : Nat) (l : List Nat) : List Byte := l.flatMap (leBytes w)

def canon (f v : Nat) : Nat := if isNan f v then canonNan f else v

/-- An element lifted into an accumulator. -/
def sumLift (f v : Nat) : Nat :=
  let w := accBits f
  if isFloat f then
    match fdecode f v with
    | .nan => 2 ^ (w - 1)
    | .inf neg => if neg then 2 ^ (w - 3) else 2 ^ (w - 2)
    | .fin neg m e => (signed neg (m * 2 ^ (e - accLsb f).toNat) % 2 ^ (w - 3)).toNat
  else (sx (8 * fmtSize f) v % 2 ^ w).toNat

/-- Accumulators added, flags ORed. -/
def sumAdd (f a c : Nat) : Nat :=
  let w := accBits f
  if isFloat f then
    let p := 2 ^ (w - 3)
    ((a / p) ||| (c / p)) * p + (a % p + c % p) % p
  else (a + c) % 2 ^ w

/-- An integer saturated to a format's range. -/
def satInt (f : Nat) (v : Int) : Nat :=
  let w := 8 * fmtSize f
  (max (-(2 ^ (w - 1) : Int)) (min (2 ^ (w - 1) - 1) v) % 2 ^ w).toNat

/-- The result of an accumulator (R197). -/
def sumFinish (f outF a : Nat) : Nat :=
  let w := accBits f
  if isFloat f then
    let p := 2 ^ (w - 3)
    let fl := a / p
    if fl / 4 % 2 == 1 || fl % 4 == 3 then canonNan outF
    else if fl / 2 % 2 == 1 then fencode outF (.inf false)
    else if fl % 2 == 1 then fencode outF (.inf true)
    else
      let v := sx (w - 3) (a % p)
      fencode outF (.fin (decide (v < 0)) v.natAbs (accLsb f))
  else satInt outF (sx w a)

/-- Elementwise combination. -/
def elemCombine (o : FoldOp) (a c : Nat) : Nat :=
  match o.op with
  | 0 => sumAdd o.inF a c
  | 1 => if isNan o.inF a || isNan o.inF c then canonNan o.inF else if fkey o.inF a < fkey o.inF c then c else a
  | 2 => if isNan o.inF a || isNan o.inF c then canonNan o.inF else if fkey o.inF c < fkey o.inF a then c else a
  | 5 => (a + c) % 2 ^ 32
  | 6 => a ||| c
  | _ => a &&& c

/-- Elementwise lift. -/
def elemLift (o : FoldOp) (v : Nat) : Nat :=
  let f := o.inF
  match o.op with
  | 0 => sumLift f v
  | 1 => canon f v
  | 2 => canon f v
  | 5 =>
    if isFloat f then (match fdecode f v with
      | .nan => 0
      | .inf _ => 1
      | .fin _ m _ => if m == 0 then 0 else 1)
    else if v == 0 then 0 else 1
  | _ => v

/-! ### Selection entries (R198) -/

structure Entry where
  value : Nat
  die : Nat
  empty : Bool
  col : Nat
deriving DecidableEq, Repr

def Entry.bytes (e : Entry) : List Byte :=
  leBytes 8 e.value ++ leBytes 2 e.die ++ leBytes 1 (b2n e.empty) ++ leBytes 1 0 ++ leBytes 4 e.col

def entryOf (bs : List Byte) : Entry := ⟨leAt bs 0 8, leAt bs 8 2, bit (leAt bs 10 1) 0, leAt bs 12 4⟩

def emptyEntry (f : Nat) : Entry := ⟨canonNan f, 0, true, 0⟩

/-- Whether `p` is better than `q`; `least` for ARGMIN. -/
def Entry.better (f : Nat) (least : Bool) (p q : Entry) : Bool :=
  if p.empty then false
  else if q.empty then true
  else
    let a := fkey f p.value
    let c := fkey f q.value
    if a != c then (if least then decide (a < c) else decide (c < a))
    else if p.die != q.die then p.die < q.die
    else p.col < q.col

def insertEntry (f : Nat) (least : Bool) (e : Entry) : List Entry → List Entry
  | [] => [e]
  | x :: xs => if x.better f least e then x :: insertEntry f least e xs else e :: x :: xs

/-- The first `k` entries in selection order, padded with EMPTY. -/
def bestOf (f : Nat) (least : Bool) (k : Nat) (es : List Entry) : List Entry :=
  let s := (es.foldl (fun l e => insertEntry f least e l) []).take k
  s ++ List.replicate (k - s.length) (emptyEntry f)

/-- Entries kept per row. -/
def rowKeep (o : FoldOp) : Nat := if o.op == 8 then o.k else 1

/-- The entries of a member's row. -/
def liftRow (o : FoldOp) (die : Nat) (vs : List Nat) : List Entry :=
  let es := (vs.zip (List.range vs.length)).filterMap fun (v, c) =>
    if isNan o.inF v then none else some ⟨v, die, false, c⟩
  bestOf o.inF (o.op == 4) (rowKeep o) es

def entriesOf (n : Nat) (bs : List Byte) : List Entry := (List.range n).map fun i => entryOf (slice bs (16 * i) 16)

/-! ### LSE_MERGE rows (R199) -/

structure LseRow where
  m : Nat
  s : Nat
  v : List Nat
deriving DecidableEq, Repr

def LseRow.bytes (r : LseRow) : List Byte := leBytes 4 r.m ++ leBytes 4 r.s ++ pack 4 r.v

def lseOf (d : Nat) (bs : List Byte) : LseRow := ⟨leAt bs 0 4, leAt bs 4 4, unpack 4 d (bs.drop 8)⟩

def f32max (a c : Nat) : Nat := if fkey 0 a < fkey 0 c then c else a

def posInf : Nat := 0x7F800000
def negInf : Nat := 0xFF800000

def lseCombine (a c : LseRow) : LseRow :=
  let n := canonNan 0
  if isNan 0 a.m || isNan 0 c.m || a.m == posInf || c.m == posInf then ⟨n, n, a.v.map fun _ => n⟩
  else
    let m := f32max a.m c.m
    if m == negInf then ⟨negInf, 0, a.v.map fun _ => 0⟩
    else
      let al := expRn (f32add a.m (f32neg m))
      let be := expRn (f32add c.m (f32neg m))
      let mix (x y : Nat) : Nat := f32add (f32mul x al) (f32mul y be)
      ⟨m, mix a.s c.s, (a.v.zip c.v).map fun p => mix p.1 p.2⟩

/-! ### Whole messages -/

/-- Whether the operator works on each element position separately. -/
def elementwise (o : FoldOp) : Bool := o.op == 0 || o.op == 1 || o.op == 2 || o.op == 5 || o.op == 6 || o.op == 7

/-- Bytes of an element of a partial. -/
def partElem (o : FoldOp) : Nat :=
  match o.op with
  | 0 => accBits o.inF / 8
  | 5 => 4
  | _ => fmtSize o.inF

/-- R203: the lift of a member's contribution, in the layout of a partial. -/
def foldLift (o : FoldOp) (die : Nat) (bs : List Byte) : List Byte :=
  let n := o.rows * o.cols
  let sz := fmtSize o.inF
  if elementwise o then padTo (partSize o) (pack (partElem o) ((unpack sz n bs).map (elemLift o)))
  else if o.op == 9 then
    (List.range o.rows).flatMap fun r =>
      let row := slice bs (r * c4 (8 + o.d * sz)) (8 + o.d * sz)
      LseRow.bytes ⟨leAt row 0 4, leAt row 4 4, (unpack sz o.d (row.drop 8)).map fun v => fencode 0 (fdecode o.inF v)⟩
  else
    (List.range o.rows).flatMap fun r =>
      (liftRow o die (unpack sz o.cols (bs.drop (r * o.cols * sz)))).flatMap Entry.bytes

/-- R203: combine, the left subtree first. -/
def foldCombine (o : FoldOp) (a c : List Byte) : List Byte :=
  if elementwise o then
    let n := o.rows * o.cols
    let w := partElem o
    padTo (partSize o) (pack w (((unpack w n a).zip (unpack w n c)).map fun p => elemCombine o p.1 p.2))
  else if o.op == 9 then
    let w := 8 + 4 * o.d
    (List.range o.rows).flatMap fun r =>
      (lseCombine (lseOf o.d (slice a (r * w) w)) (lseOf o.d (slice c (r * w) w))).bytes
  else
    let k := rowKeep o
    (List.range o.rows).flatMap fun r =>
      (bestOf o.inF (o.op == 4) k (entriesOf k (a.drop (r * 16 * k)) ++ entriesOf k (c.drop (r * 16 * k)))).flatMap Entry.bytes

/-- R203: finish. -/
def foldFinish (o : FoldOp) (p : List Byte) : List Byte :=
  match o.op with
  | 0 =>
    let n := o.rows * o.cols
    padTo (resSize o) (pack (fmtSize o.outF) ((unpack (partElem o) n p).map (sumFinish o.inF o.outF)))
  | 9 =>
    let w := 8 + 4 * o.d
    let z := fmtSize o.outF
    (List.range o.rows).flatMap fun r =>
      let row := lseOf o.d (slice p (r * w) w)
      if o.final then padTo (c4 (o.d * z)) (pack z (row.v.map fun v => fdiv o.outF v row.s))
      else padTo (c4 (8 + o.d * z)) (leBytes 4 row.m ++ leBytes 4 row.s ++
        pack z (row.v.map fun v => fencode o.outF (fdecode 0 v)))
  | _ => p

/-! ### The canonical tree (R202) -/

/-- ceil(log2 n) for n ≥ 1. -/
def clog2 (n : Nat) : Nat := if n ≤ 1 then 0 else Nat.log2 (n - 1) + 1

/-- Where the children of [a, b) meet. -/
def midOf (a c : Nat) : Nat := a + 2 ^ (clog2 (c - a) - 1)

/-- R203: the value of [a, b) from the messages that are there. -/
def foldValue (o : FoldOp) (inp : Nat → Nat → Option (List Byte)) : Nat → Nat → Nat → Option (List Byte)
  | 0, _, _ => none
  | f + 1, a, c =>
    match inp a c with
    | some p => some p
    | none =>
      if c - a ≤ 1 then none
      else match foldValue o inp f a (midOf a c), foldValue o inp f (midOf a c) c with
        | some x, some y => some (foldCombine o x y)
        | _, _ => none

/-- R204: the canonical nodes within [a, b) that are closed under a set of ranks. -/
def closedIn (has : Nat → Bool) : Nat → Nat → Nat → List (Nat × Nat)
  | 0, _, _ => []
  | f + 1, a, c =>
    if a ≥ c then []
    else if (List.range (c - a)).all fun i => has (a + i) then [(a, c)]
    else if c - a ≤ 1 then []
    else closedIn has f a (midOf a c) ++ closedIn has f (midOf a c) c

/-- The tree's depth for 65,536 members, and one. -/
def treeFuel : Nat := 18

/-- Lane-operations of one combine (R209, Throughput). -/
def laneCost (o : FoldOp) : Nat :=
  match o.op with
  | 0 => if o.inF ≤ 1 then 5 else if o.inF == 6 then 2 else 1
  | 3 => 2
  | 4 => 2
  | 8 => 2
  | 9 => 6
  | _ => 1

end Sys2Proof.Machine
end

