-- ==== Sys2Proof/Machine/Records.lean ====
section
/-! DEFINITION. Session, tenant and ticket records, the commit list, program records, and the job image (R168, R191, R218,
R229, R239 to R241, R256, R275 to R277). -/

namespace Sys2Proof.Machine

/-! ### Sessions, tenants, tickets -/

def sessReset (_ : Nat) : Session := Session.reset
def tenReset (_ : Nat) : Tenant := Tenant.reset
def tickReset (_ : Nat) : Ticket := Ticket.reset

def Sess.free : Nat := 0
def Sess.open_ : Nat := 1
def Sess.queued : Nat := 2
def Sess.running : Nat := 3
def Sess.throttled : Nat := 4

/-- The slots of the resident table. -/
def nSlots : Nat := 262144

def Block.sess (b : Block) (slot : Nat) : Session := nget sessReset b.hub.ss.slots slot
def Block.tenant (b : Block) (t : Nat) : Tenant := nget tenReset b.hub.ss.tenants t
def Block.ticket (b : Block) (i : Nat) : Ticket := nget tickReset b.hub.ss.tickets i

/-- Changes a session; the job's next decision carries the slot. -/
def Block.updSess (b : Block) (j slot : Nat) (f : Session → Session) : Block :=
  (b.updSs fun u => { u with slots := nupd sessReset u.slots slot f }).updJob j fun x =>
    { x with touched := if x.touched.contains slot then x.touched else x.touched ++ [slot] }

def Block.updTen (b : Block) (j t : Nat) (f : Tenant → Tenant) : Block :=
  (b.updSs fun u => { u with tenants := nupd tenReset u.tenants t f }).updJob j fun x =>
    { x with touchedT := if x.touchedT.contains t then x.touchedT else x.touchedT ++ [t] }

def Block.updTick (b : Block) (i : Nat) (f : Ticket → Ticket) : Block :=
  b.updSs fun u => { u with tickets := nupd tickReset u.tickets i f }

/-- The handle of a slot (R239). -/
def handleOf (slot : Nat) (s : Session) : Nat := s.gen * 2 ^ 18 + slot

def ticketOf (i : Nat) (t : Ticket) : Nat := t.gen * 2 ^ 22 + i

def slotOf (handle : Nat) : Nat := handle % 2 ^ 18

/-- Whether a handle is current. -/
def Block.handleOk (b : Block) (h : Nat) : Bool :=
  let s := b.sess (slotOf h)
  s.st != Sess.free && s.gen == h / 2 ^ 18

/-- Whether a ticket names a parked record. -/
def Block.ticketOk (b : Block) (t : Nat) : Bool :=
  let k := b.ticket (t % 2 ^ 22)
  k.st == 2 && k.gen == t / 2 ^ 22

/-- The resident sessions of a job by ascending handle, as (handle, slot). -/
def insertPair (x : Nat × Nat) : List (Nat × Nat) → List (Nat × Nat)
  | [] => [x]
  | y :: ys => if x.1 ≤ y.1 then x :: y :: ys else y :: insertPair x ys

def sortPairs (l : List (Nat × Nat)) : List (Nat × Nat) := l.foldr insertPair []

def Block.jobSlots (b : Block) (j : Nat) : List Nat :=
  (sortPairs ((b.hub.ss.slots.filter fun e => e.2.st != Sess.free && e.2.job == j).map fun e =>
    (handleOf e.1 e.2, e.1))).map Prod.snd

def Block.jobTenants (b : Block) (j : Nat) : List Nat :=
  (b.hub.ss.tenants.filter fun e => e.2.valid && e.2.job == j).map Prod.fst

/-- The lowest free slot. -/
def freeSlotFuel (m : NMap Session) : Nat → Nat → Option Nat
  | 0, _ => none
  | n + 1, i => if (nget sessReset m i).st == Sess.free then some i else freeSlotFuel m n (i + 1)

def Block.freeSlot (b : Block) : Option Nat :=
  let n := (b.hub.ss.slots.filter fun e => e.2.st != Sess.free).length
  if n ≥ nSlots then none else freeSlotFuel b.hub.ss.slots (n + 1) 0

/-- The lowest free index of the parked table. -/
def freeTickFuel (m : NMap Ticket) : Nat → Nat → Option Nat
  | 0, _ => none
  | n + 1, i => if (nget tickReset m i).st == 0 then some i else freeTickFuel m n (i + 1)

def Block.freeTicket (b : Block) : Option Nat :=
  let n := (b.hub.ss.tickets.filter fun e => e.2.st != 0).length
  if n ≥ b.rf .dxs Reg.DXS_SS_PARK_CFG 22 0 then none else freeTickFuel b.hub.ss.tickets (n + 1) 0

/-- A slot becomes free: its generation goes up. -/
def Block.freeSess (b : Block) (j slot : Nat) : Block :=
  let t := (b.sess slot).tenant
  (b.updSess j slot fun s => { Session.reset with gen := (s.gen + 1) % 16384 }).updTen j t fun x => { x with live := x.live - 1 }

/-- A parked index becomes free. It keeps the job of its last record, whose next decision tells the other root. -/
def Block.freeTick (b : Block) (i : Nat) : Block :=
  b.updTick i fun t => { Ticket.reset with gen := (t.gen + 1) % 1024, job := t.job }

/-- The admission queue link of a resident record is the binder's own affair: a free value (log entry 5, DESIGN CHOICE). -/
def linkOf (now slot : Nat) : Nat := Config.freeValue (now * 2 ^ 18 + slot) % 2 ^ 32

def sessFlags (s : Session) : Nat := b2n s.cancel + 2 * b2n s.park + 4 * b2n s.close + 8 * b2n s.fetch

/-- A record of 64 bytes (R240); `id` is the handle or ticket, `st` its STATE, `last` the HT group at byte 48. -/
def sessBytes (id st last link : Nat) (s : Session) : List Byte :=
  leBytes 4 id ++ leBytes 2 s.tenant ++ leBytes 1 s.job ++ leBytes 1 st ++ leBytes 2 s.pgroup ++ leBytes 1 s.maxtok ++
    leBytes 1 (sessFlags s) ++ deadlineBytes s.deadline ++ leBytes 4 s.turnMax ++ leBytes 4 s.turnOut ++ leBytes 8 s.charged ++
    leBytes 1 s.rsv ++ leBytes 1 0 ++ leBytes 2 s.turn ++ leBytes 4 s.ttl ++ htBytes last ++ leBytes 4 link

/-- The resident record of a slot. -/
def Block.sessRec (b : Block) (slot : Nat) : List Byte :=
  let s := b.sess slot
  sessBytes (handleOf slot s) s.st s.cstamp (linkOf b.now slot) s

/-- The session that a record describes. -/
def sessOf (bs : List Byte) : Session :=
  let f := leAt bs 11 1
  ⟨leAt bs 0 4 / 2 ^ 18, leAt bs 7 1, leAt bs 4 2, leAt bs 6 1, leAt bs 8 2, leAt bs 10 1, bit f 0, bit f 1, bit f 2, bit f 3,
    deadlineOf bs 12, leAt bs 24 4, leAt bs 28 4, leAt bs 32 8, leAt bs 40 1, leAt bs 42 2, leAt bs 44 4, htOfBytes bs 48⟩

/-- A tenant record of 32 bytes (R241). -/
def tenBytes (t : Tenant) : List Byte :=
  leBytes 8 t.bal ++ leBytes 8 t.cap ++ leBytes 4 t.refill ++ leBytes 4 t.rsv ++ leBytes 4 t.live ++ leBytes 1 t.job ++
    leBytes 1 (b2n t.valid + 2 * b2n t.frozen) ++ leBytes 2 0

def tenOf (bs : List Byte) : Tenant :=
  let f := leAt bs 29 1
  ⟨bit f 0, bit f 1, leAt bs 0 8, leAt bs 8 8, leAt bs 16 4, leAt bs 20 4, leAt bs 24 4, leAt bs 28 1, false⟩

/-! ### Program records and commit lists (R229, R256) -/

def recBytes (r : HeldRec) : List Byte :=
  leBytes 1 r.rtype ++ leBytes 1 r.rsub ++ leBytes 2 r.folio ++ leBytes 4 r.a32 ++ leBytes 8 r.b64

def entryBytes (e : SessEntry) : List Byte :=
  leBytes 4 e.handle ++ leBytes 1 e.act ++ leBytes 1 e.arg ++ leBytes 2 e.pgroup ++ leBytes 2 e.turn ++ leBytes 6 0

/-- The stream of the commit list of folio `sn` (-1 for the prologue). -/
def listBytes (j : Nat) (sn : Int) (es : List SessEntry) (rs : List HeldRec) : List Byte :=
  leBytes 2 1 ++ leBytes 1 j ++ leBytes 1 rs.length ++ leBytes 4 es.length ++ leBytes 8 (sn % 2 ^ 64).toNat ++
    es.flatMap entryBytes ++ rs.flatMap recBytes

/-- The program records that a root holds, in the order of their emission. -/
def Job.held (x : Job) : List HeldRec := x.early ++ x.recs

/-- The program records that go out with the GO of the folio before the one they name. -/
def Job.dueRecs (x : Job) (next : Nat) : List HeldRec := x.recs.filter fun r => r.folio == next + 1

/-- Records not emitted yet while folio `sn` is decided. -/
def Job.unsent (x : Job) (sn : Nat) : List HeldRec := x.recs.filter fun r => r.folio ≥ sn + 2

/-- The seed streams and salts in effect for a folio: SEED records up to it applied (R228). -/
def Job.seedsAt (x : Job) (folio : Nat) : Nat × List Nat :=
  (x.held.filter fun r => r.rtype == 2 && r.folio ≤ folio).foldl (fun (a : Nat × List Nat) r =>
    let s := r.rsub % 4
    (if bit r.rsub 2 then a.1 &&& (15 ^^^ 2 ^ s) else a.1 ||| 2 ^ s, a.2.set s r.a32)) (x.streams, x.salts)

/-! ### Gathering definitions (R168) and fold descriptors (R191) -/

def gdefReset (_ : Nat) : Option GDef := none

def Block.gdef (b : Block) (g : Nat) : Option GDef := nget gdefReset b.hub.gdefs g

def gdKind (bs : List Byte) : Nat := bits (leAt bs 2 1) 2 0
def gdBase (bs : List Byte) : Nat := bits (leAt bs 2 1) 5 4
def gdJob (bs : List Byte) : Nat := leAt bs 3 1
def gdN (bs : List Byte) : Nat := leAt bs 4 4
def gdK (bs : List Byte) : Nat := leAt bs 8 4
def gdDeadline (bs : List Byte) : Nat := leAt bs 12 4
def gdSettle (bs : List Byte) : Nat := leAt bs 16 4
def gdListed (bs : List Byte) : Bool := bit (leAt bs 20 1) 0
def gdNdest (bs : List Byte) : Nat := leAt bs 22 2
def gdFold (bs : List Byte) : Nat := leAt bs 24 4

/-- The gatherings that a job has defined. -/
def Block.jobGaths (b : Block) (j : Nat) : List (Nat × GDef) := (nlist b.hub.gdefs).filter fun d => gdJob d.2.bytes == j

/-- The descriptor of R191 as the descriptor registers hold it. -/
def Block.foldDesc (b : Block) (i : Nat) : List Byte :=
  let w := b.reg .dxs Reg.DXS_FD_D_OP i
  let d := leBytes 1 (fld w 3 0) ++ leBytes 1 (fld w 7 4) ++ leBytes 1 (fld w 11 8) ++ leBytes 1 (fld w 25 24) ++
    leBytes 1 (fld w 23 16) ++ leBytes 1 0 ++ leBytes 2 (b.reg .dxs Reg.DXS_FD_D_D i).toNat ++
    leBytes 4 (b.reg .dxs Reg.DXS_FD_D_ROWS i).toNat ++ leBytes 4 (b.reg .dxs Reg.DXS_FD_D_COLS i).toNat ++ leBytes 12 0
  d ++ leBytes 4 (crc32c d)

def Block.descValid (b : Block) (i : Nat) : Bool := wbit (b.reg .dxs Reg.DXS_FD_D_OP i) 31

/-! ### The operating-point table (R277) -/

/-- The table that the block's DX-T has in effect. -/
def Block.optable (b : Block) : List Byte :=
  (List.range 16).flatMap fun e =>
    let f := b.reg .dxt Reg.DC_OPP_FREQ e
    leBytes 2 (fld f 15 0) ++ leBytes 1 (fld f 18 16) ++ leBytes 1 (fld f 31 31) ++ leBytes 4 (b.reg .dxt Reg.DC_OPP_VREQ e).toNat

/-! ### The job image (R276, R277) -/

/-- A section, left out when it holds nothing. -/
def imgSection (styp count : Nat) (bs : List Byte) : List Byte :=
  if count == 0 then [] else leBytes 1 styp ++ leBytes 3 0 ++ leBytes 4 count ++ leBytes 8 bs.length ++ bs

def padTo16 (bs : List Byte) : List Byte := bs ++ List.replicate (ceilMul 16 bs.length - bs.length) 0

/-- The CONTEXT entry of a job as it stands after folio `k` (an Int, -1 before folio 0). -/
def Block.imgContext (b : Block) (j : Nat) (k : Int) : List Byte :=
  let x := b.job j
  let next := (k + 1).toNat
  let (streams, salts) := x.seedsAt next
  let (held, hsn) := match x.opp with
    | some (f, e) => (0x80 + e, f)
    | none => (0, 0)
  leBytes 2 x.pc ++ leBytes 1 (b2n x.f) ++ leBytes 1 x.pstat ++ leBytes 1 streams ++ leBytes 1 x.oppNow ++ leBytes 1 held ++
    leBytes 1 0 ++ leBytes 8 hsn ++ salts.flatMap (leBytes 4) ++ leBytes 8 x.epoch ++ x.words.flatMap (leBytes 8) ++
    leBytes 2 (b.classL 0 + b.classL 1 * 16 + b.classL 2 * 256) ++ leBytes 1 b.dxt.die.geom ++ leBytes 1 0 ++
    leBytes 4 (b.reg .dxs Reg.GA_RANGE j).toNat ++ leBytes 16 0

def gatherBytes (d : GDef) : List Byte :=
  let ns := if gdListed d.bytes then d.members else []
  d.bytes ++ padTo16 ((ns ++ d.dests).flatMap (leBytes 2))

def pendBytes (p : Pend) : List Byte :=
  leBytes 1 p.kind ++ leBytes 1 p.flags ++ leBytes 2 p.tenant ++ leBytes 4 p.handle ++ leBytes 4 p.ticket ++ leBytes 4 0 ++
    leBytes 8 (p.add % 2 ^ 64).toNat ++ leBytes 4 p.refill ++ leBytes 8 p.cap ++ leBytes 12 0

def pendOf (bs : List Byte) (stamp : Nat) : Pend :=
  ⟨leAt bs 0 1, stamp, leAt bs 4 4, leAt bs 8 4, leAt bs 2 2, leAt bs 1 1, sx 64 (leAt bs 16 8), leAt bs 24 4, leAt bs 28 8⟩

/-- The sections of a job's image after folio `k`: each with its type's number. -/
def Block.imgSections (b : Block) (j : Nat) (k : Int) : List (List Byte) :=
  let x := b.job j
  let recs := x.held.filter fun r => (r.folio : Int) > k
  let gs := b.jobGaths j
  let ds := (sortNat ((gs.filter fun g => gdKind g.2.bytes == 4).map fun g => gdFold g.2.bytes)).eraseDups
  let ss := b.jobSlots j
  let ts := b.jobTenants j
  let q := x.queue.map fun e => handleOf e.1 (b.sess e.1)
  let pend := x.pend.filter fun p => p.kind ≤ 3
  [imgSection 1 1 (b.imgContext j k), imgSection 2 recs.length (recs.flatMap recBytes), imgSection 3 16 x.table,
    imgSection 4 gs.length (gs.flatMap fun g => gatherBytes g.2),
    imgSection 5 ds.length (ds.flatMap fun d => leBytes 4 d ++ leBytes 12 0 ++ b.foldDesc d),
    imgSection 6 ss.length (ss.flatMap b.sessRec),
    imgSection 7 ts.length (ts.flatMap fun t => leBytes 4 t ++ leBytes 12 0 ++ tenBytes (b.tenant t)),
    imgSection 8 q.length (padTo16 (q.flatMap (leBytes 4))),
    imgSection 9 pend.length (pend.flatMap pendBytes)]

/-- The job image after folio `k`. -/
def Block.jobImage (b : Block) (j : Nat) (k : Int) : List Byte :=
  let x := b.job j
  let secs := b.imgSections j k
  let body := secs.flatten
  let hdr := leBytes 2 1 ++ leBytes 1 j ++ leBytes 1 (b2n x.sess + 2 * b2n x.record) ++
    leBytes 4 (secs.filter fun s => !s.isEmpty).length ++ leBytes 8 (k % 2 ^ 64).toNat ++ leBytes 8 (64 + body.length) ++
    leBytes 4 x.progCrc ++ leBytes 4 (b.jobDies j).length ++ leBytes 8 (if x.record then x.logPos else 0) ++
    leBytes 8 (if x.record then x.logPosCnt else 0) ++ leBytes 4 (b.reg .dxs Reg.FT_PERIOD j).toNat ++
    leBytes 4 (b.reg .dxs Reg.FT_LEAD j).toNat ++ leBytes 4 (b.reg .dxs Reg.FT_DELIVERY j).toNat
  hdr ++ leBytes 4 (crc32c (hdr ++ body)) ++ body

/-- A section of an image: its type, count and bytes. -/
structure Section where
  typ : Nat
  count : Nat
  bytes : List Byte
deriving DecidableEq, Repr

/-- Splits the body of an image into its sections; none where they do not fit it. -/
def splitSections : Nat → List Byte → Option (List Section)
  | 0, bs => if bs.isEmpty then some [] else none
  | n + 1, bs =>
    if bs.isEmpty then some []
    else if bs.length < 16 then none
    else
      let len := leAt bs 8 8
      if bs.length < 16 + len || leAt bs 1 3 != 0 then none
      else (splitSections n (bs.drop (16 + len))).map fun r => ⟨leAt bs 0 1, leAt bs 4 4, (bs.drop 16).take len⟩ :: r

def risingTypes : List Section → Bool
  | a :: c :: r => decide (a.typ < c.typ) && risingTypes (c :: r)
  | _ => true

/-- The sections of an image that is well formed (R278, IMG_BAD otherwise). -/
def imageSections (img : List Byte) : Option (List Section) :=
  if img.length < 64 || leAt img 0 2 != 1 || leAt img 16 8 != img.length ||
      crc32c (img.take 60 ++ img.drop 64) != leAt img 60 4 then none
  else match splitSections 10 (img.drop 64) with
  | some ss =>
    if ss.length == leAt img 4 4 && risingTypes ss && (ss.any fun s => s.typ == 1 && s.count == 1 && s.bytes.length == 192) &&
        (ss.any fun s => s.typ == 3 && s.bytes.length == 128) && ss.all fun s => s.typ ≤ 9 then some ss else none
  | none => none

def sectionOf (ss : List Section) (t : Nat) : List Byte :=
  match ss.find? fun s => s.typ == t with
  | some s => s.bytes
  | none => []

def sectionCount (ss : List Section) (t : Nat) : Nat :=
  match ss.find? fun s => s.typ == t with
  | some s => s.count
  | none => 0

/-- The definitions of a GATHER section: each with its member and destination lists. -/
def splitGather : Nat → List Byte → List (List Byte × List Nat × List Nat)
  | 0, _ => []
  | n + 1, bs =>
    if bs.length < 32 then []
    else
      let d := bs.take 32
      let m := if gdListed d then gdN d else 0
      let k := gdNdest d
      let ix (i : Nat) : Nat := leAt bs (32 + 2 * i) 2
      (d, (List.range m).map ix, (List.range k).map fun i => ix (m + i)) ::
        splitGather n (bs.drop (32 + ceilMul 16 (2 * (m + k))))

end Sys2Proof.Machine
end

