-- ==== Sys2Proof/Machine/Folds.lean ====
section
/-! DEFINITION. The fold unit of a DX-S48: plans, messages, tasks and engines, blocks, results (R200 to R214). -/

namespace Sys2Proof.Machine

/-! ### Records and instances -/

/-- A gathering's record at the node is valid (R171). -/
def Block.gaValid (b : Block) (g : Nat) : Bool := wbit (b.reg .dxs Reg.GA_CFG g) 31
def Block.gaKind (b : Block) (g : Nat) : Nat := b.rf .dxs Reg.GA_CFG 2 0 g
def Block.gaBase (b : Block) (g : Nat) : Nat := b.rf .dxs Reg.GA_CFG 5 4 g
def Block.gaJob (b : Block) (g : Nat) : Nat := b.rf .dxs Reg.GA_CFG 15 8 g

def pairReset (_ : Nat) : GPair := GPair.reset

def GPair.slot (x : GPair) (s : Nat) : GInst := if s % 2 == 0 then x.s0 else x.s1

def GPair.setSlot (x : GPair) (s : Nat) (v : GInst) : GPair := if s % 2 == 0 then { x with s0 := v } else { x with s1 := v }

def Block.inst (b : Block) (g s : Nat) : GInst := (nget pairReset b.hub.ga g).slot s

def Block.updInst (b : Block) (g s : Nat) (f : GInst → GInst) : Block :=
  b.updHub fun h => { h with ga := nupd pairReset h.ga g fun x => x.setSlot s (f (x.slot s)) }

/-- The fold operation of a gathering. -/
def Block.foldOp (b : Block) (g : Nat) : Option FoldOp :=
  match b.gdef g with
  | some d => if gdKind d.bytes == 4 && b.descValid (gdFold d.bytes) then some (foldOpOf (b.foldDesc (gdFold d.bytes))) else none
  | none => none

/-! ### The fold plan (R204) -/

def GDef.n (d : GDef) : Nat := d.members.length

/-- The ranks that a plan holds beneath a port. -/
def planRanks (plan : List (Nat × List Nat)) (p : Nat) : List Nat :=
  match plan.find? fun e => e.1 == p with
  | some e => e.2
  | none => []

/-- Whether the member of a rank is beneath a port. -/
def GDef.rankAt (d : GDef) (p r : Nat) : Bool := (planRanks d.plan p).contains r

def GDef.rankHere (d : GDef) (r : Nat) : Bool := d.plan.any fun e => e.2.contains r

/-- The nodes closed at the child beneath a port. -/
def GDef.closedAt (d : GDef) (p : Nat) : List (Nat × Nat) := closedIn (d.rankAt p) treeFuel 0 d.n

/-- The nodes closed at the node that has the plan. -/
def GDef.closedHere (root : Bool) (d : GDef) : List (Nat × Nat) :=
  if root then [(0, d.n)] else closedIn d.rankHere treeFuel 0 d.n

/-- The nodes that the children send. -/
def GDef.inputs (d : GDef) : List (Nat × Nat) := (d.plan.map Prod.fst).flatMap d.closedAt

/-- Whether a node is relayed: closed here and at a child. A root relays nothing. -/
def GDef.relays (root : Bool) (d : GDef) (x : Nat × Nat) : Bool := !root && (d.closedHere root).contains x && d.inputs.contains x

/-- The nodes formed. -/
def GDef.forms (root : Bool) (d : GDef) : List (Nat × Nat) := (d.closedHere root).filter fun x => !d.relays root x

/-- The inputs of a formed node. -/
def GDef.inputsOf (d : GDef) (x : Nat × Nat) : List (Nat × Nat) := d.inputs.filter fun y => x.1 ≤ y.1 && y.2 ≤ x.2

def Block.closedHere (b : Block) (d : GDef) : List (Nat × Nat) := d.closedHere (isRoot b.dxs.role)
def Block.relayed (b : Block) (d : GDef) (x : Nat × Nat) : Bool := d.relays (isRoot b.dxs.role) x
def Block.formedHere (b : Block) (d : GDef) : List (Nat × Nat) := d.forms (isRoot b.dxs.role)

/-! ### Deriving a plan (R170, R204) -/

/-- The ranks of the members beneath each port of a node of the table. -/
def Topo.plan (t : Topo) (n j : Nat) (ms : List Nat) : List (Nat × List Nat) :=
  ((List.range 48).map fun p =>
    let here := ((t.beneath topoDepth n p).map t.die).filter fun x => x.ofJob j
    (p, (List.range ms.length).filter fun r => here.any fun x => some x.idx == ms[r]?)).filter fun e => !e.2.isEmpty

/-- The ports of a node that carry a destination die: all members, or those listed. -/
def Topo.destPorts (t : Topo) (n j : Nat) (ms dests : List Nat) : List Nat :=
  let ds := if dests.isEmpty then ms else dests
  (List.range 48).filter fun p => (t.beneath topoDepth n p).any fun r => (t.die r).ofJob j && ds.contains (t.die r).idx

/-- A definition with its plan at a node. -/
def Block.planAt (b : Block) (n : Nat) (d : GDef) : GDef :=
  let j := gdJob d.bytes
  { d with plan := b.topo.plan n j d.members, ports := b.topo.destPorts n j d.members d.dests }

/-- The members beneath the node that has the plan. -/
def GDef.expect (d : GDef) : Nat := sumN (d.plan.map fun e => e.2.length)

/-- Whether a node of the table is a root. -/
def Topo.isRootNode (t : Topo) (n : Nat) : Bool :=
  match t.nodeOf n with
  | some r => r.role == 1
  | none => false

/-! ### Blocks (R211, R214) -/

def blocksOf (n : Nat) : Nat := (n + 4095) / 4096

def msgSize (o : FoldOp) (x : Nat × Nat) : Nat := if x.2 == x.1 + 1 then leafSize o else partSize o

/-- R211: the reservation of a FOLD gathering at the node that has the plan. -/
def GDef.reserve (root : Bool) (d : GDef) (o : FoldOp) : Nat :=
  let one (x : Nat × Nat) : Nat := blocksOf (partSize o) + sumN ((d.inputsOf x).map fun y => blocksOf (msgSize o y))
  2 * (sumN ((d.forms root).map one) + (if root then blocksOf (resSize o) else 0))

def Block.reserveOf (b : Block) (d : GDef) (o : FoldOp) : Nat := d.reserve (isRoot b.dxs.role) o

def Block.blkRsvd (b : Block) : Nat := sumN ((nlist b.hub.gdefs).map fun g => g.2.blocks)

def Block.blkHeld (b : Block) : Nat :=
  let u := b.hub.fd
  let formed (f : Formed) : Nat :=
    match b.foldOp f.gid with
    | some o => blocksOf (partSize o) + (if f.ready then blocksOf (resSize o) else 0)
    | none => 0
  sumN (u.msgs.map fun m => blocksOf m.data.length) + sumN (u.formed.map formed)

def Block.blkLent (b : Block) : Nat := b.dxs.node.dma.lent

/-- Open fold instances. -/
def Block.foldOpen (b : Block) : Nat :=
  let u := b.hub.fd
  ((u.msgs.map fun m => (m.gid, m.sn)) ++ u.formed.map fun f => (f.gid, f.sn)).eraseDups.length

/-- R214: the buffer audit at a GO. -/
def Block.auditFold (b : Block) : Block :=
  let held := b.blkHeld
  let lent := b.blkLent
  let rsvd := b.blkRsvd
  let ok := held + lent ≤ foldBlocks && held ≤ rsvd && lent ≤ min (b.rf .dxs Reg.DXS_FD_CTRL 27 16) (foldBlocks - rsvd)
  let b := b.updFd fun u => { u with audit := !ok }
  if ok then b else (b.bump .dxs Reg.DXS_FD_AUDIT_CNT).raiseDxs Cause.foldAudit

/-- R171: an instance's blocks, tasks and messages are freed. -/
def Block.freeFold (b : Block) (g : Nat) (old : Nat → Bool) : Block :=
  let keep (t : FoldTask) : Bool := !(t.gid == g && old t.sn)
  let b := b.updFd fun u => { u with msgs := u.msgs.filter fun m => !(m.gid == g && old m.sn),
                                     formed := u.formed.filter fun f => !(f.gid == g && old f.sn),
                                     seen := u.seen.filter fun x => !(x.1 == g && old x.2.1) }
  b.each (List.range 32) fun b e =>
    b.updEng e fun x => { x with run := x.run.filter keep, queue := x.queue.filter keep }

/-! ### Engines and tasks (R209, R210) -/

/-- Whether an engine may serve. -/
def Block.engOn (b : Block) (e : Nat) : Bool := wbit (b.reg .dxs Reg.DXS_FD_ENG_EN) e && !(b.eng e).katFail

/-- The first task of the oldest folio in a queue. -/
def oldestTask (q : List FoldTask) : Option (FoldTask × List FoldTask) :=
  match q with
  | [] => none
  | t :: ts =>
    let m := ts.foldl (fun a x => min a x.sn) t.sn
    takeFirst (fun x => x.sn == m) q

/-- An idle engine starts its next task. -/
def Block.startEng (b : Block) (e : Nat) : Block :=
  let x := b.eng e
  if x.run.isSome || !b.engOn e then b
  else match oldestTask x.queue with
    | some (t, q) => b.updEng e fun y => { y with run := some t, queue := q }
    | none => b

/-- The next engine in turn that may serve. -/
def Block.nextEng (b : Block) : Option Nat :=
  ((List.range 32).map fun i => (b.hub.fd.turn + i) % 32).find? fun e => b.engOn e

/-- Places a task on the engines' queues in turn. -/
def Block.placeTask (b : Block) (t : FoldTask) : Block :=
  match b.nextEng with
  | some e =>
    ((b.updFd fun u => { u with turn := (e + 1) % 32 }).updEng e fun x => { x with queue := x.queue ++ [t] }).startEng e
  | none => b.updEng b.hub.fd.turn fun x => { x with queue := x.queue ++ [t] }

/-! ### Messages (R201, R205) -/

/-- The first complete FOLD_IN message among the received sheets: its port, its sheets, the rest. -/
def findFold : List RxSheet → Option (Nat × List Sheet × List RxSheet)
  | [] => none
  | r :: rs =>
    let later := (findFold rs).map fun x => (x.1, x.2.1, r :: x.2.2)
    if r.sheet.typ == tFoldIn && r.sheet.first then
      match untilLast r.port tFoldIn r.sheet.obj (r :: rs) with
      | some (ss, rest) => some (r.port, ss, rest)
      | none => later
    else later

/-- The sub-header of a fold sheet: WHO, SPAN_M1, OFS, FORM. -/
def subHeader (s : Sheet) : Nat × Nat × Nat × Nat := (leAt s.body 0 2, leAt s.body 2 2, leAt s.body 4 3, leAt s.body 7 1)

/-- Whether a message's sheets agree with each other, and its data. -/
def foldMessage (ss : List Sheet) : Option (Nat × Nat × Nat × List Byte) :=
  match ss with
  | [] => none
  | s :: _ =>
    let (who, span, _, form) := subHeader s
    let good := (ss.zip (List.range ss.length)).all fun (x, i) =>
      x.len ≥ 8 && x.tag == s.tag && subHeader x == (who, span, foldData * i, form) && (x.last || x.len == 8 + foldData)
    if good then some (who, span, form, ss.flatMap fun x => (x.body.take x.len).drop 8) else none

def Block.upPortOf (b : Block) : Option Nat := (b.portsOf roleUp).head?

def Block.queueUp (b : Block) (ss : List Sheet) : Block :=
  match b.upPortOf with
  | some p => b.queueSheets .dxs p ss
  | none => b

def Block.hasFold (b : Block) (g sn : Nat) (x : Nat × Nat) : Bool :=
  b.hub.fd.msgs.any fun m => m.gid == g && m.sn == sn && (m.lo, m.hi) == x

/-- The node that a message of a port is: the plan's, not received before. A leaf carries no rank: leaves leave a node in ascending
rank (log entry 12, DESIGN CHOICE), so a leaf is the port's first awaited one. -/
def Block.foldNode (b : Block) (d : GDef) (g sn p who span form : Nat) : Option (Nat × Nat) :=
  let open_ := (d.closedAt p).filter fun x => !b.hasFold g sn x
  if form == 0 then (if who == 0 && span == 0 then open_.find? fun x => x.2 == x.1 + 1 else none)
  else if form == 1 then open_.find? fun x => x == (who, who + span + 1) && x.2 > x.1 + 1
  else none

/-- The node's value from the messages it holds (R203). -/
def Block.nodeValue (b : Block) (d : GDef) (o : FoldOp) (g sn lo hi : Nat) : Option (List Byte) :=
  let inp (a c : Nat) : Option (List Byte) :=
    (b.hub.fd.msgs.find? fun m => m.gid == g && m.sn == sn && m.lo == a && m.hi == c).map fun m =>
      if c == a + 1 then foldLift o (d.members.getD a 0) m.data else m.data
  foldValue o inp treeFuel lo hi

/-- Formed nodes whose inputs are all there become work: their tasks are placed. -/
def Block.formReady (b : Block) (d : GDef) (o : FoldOp) (g sn : Nat) : Block :=
  b.each (b.formedHere d) fun b x =>
    let started := b.hub.fd.formed.any fun f => f.gid == g && f.sn == sn && (f.lo, f.hi) == x
    if started || !((d.inputsOf x).all fun y => b.hasFold g sn y) then b
    else
      let n := taskCount o
      let b := b.updFd fun u => { u with formed := u.formed ++ [⟨g, sn, x.1, x.2, n, [], 0, false⟩] }
      b.each (List.range n) fun b k => b.placeTask ⟨g, sn, x.1, x.2, k⟩

def Block.noteOpen (b : Block) : Block := b.updFd fun u => { u with openMax := max u.openMax b.foldOpen }

/-- A message that fails R205. -/
def Block.foldBad (b : Block) (p : Nat) : Block := (b.bump .dxs Reg.DXS_FD_LEN_CNT).raiseDxs Cause.foldLen p

/-! ### Queueing upward (R201, R204, R209) -/

def FoldTask.isOf (t : FoldTask) (f : Formed) : Bool := f.gid == t.gid && f.sn == t.sn && f.lo == t.lo && f.hi == t.hi

def Formed.complete (f : Formed) : Bool := f.done.length == f.tasks

/-- The leading tasks of a formed node that have finished. -/
def Formed.prefix (f : Formed) : Nat := ((List.range f.tasks).takeWhile fun k => f.done.contains k).length

/-- How many sheets of a formed node's partial the finished tasks cover, in offset order. -/
def Formed.covered (f : Formed) (o : FoldOp) : Nat :=
  if f.complete then (partSize o + foldData - 1) / foldData else f.prefix * taskBytes o / foldData

/-- All sheets of a formed node have been queued. -/
def Formed.allSent (f : Formed) (o : FoldOp) : Bool := f.sheets ≥ (partSize o + foldData - 1) / foldData

/-- A formed node's message is partly on the UP port: nothing else may come between its sheets (R201). -/
def Block.upBusy (b : Block) : Bool :=
  b.hub.fd.formed.any fun f => f.sheets > 0 && match b.foldOp f.gid with
    | some o => !f.allSent o
    | none => false

/-- Queues the sheets of a formed node that the finished tasks cover and that are not queued yet. The value at the covered
offsets is a function of the inputs alone. -/
def Block.sendFormed (b : Block) (f : Formed) : Block :=
  match b.gdef f.gid, b.foldOp f.gid with
  | some d, some o =>
    let n := f.covered o
    if n ≤ f.sheets then b
    else match b.nodeValue d o f.gid f.sn f.lo f.hi with
      | some v =>
        let ss := foldSheets tFoldIn f.gid (f.sn % 65536) f.lo (f.hi - f.lo - 1) 1 v
        (b.updFd fun u => { u with formed := u.formed.map fun y => if y == f then { y with sheets := n } else y }).queueUp
          ((ss.take n).drop f.sheets)
      | none => b
  | _, _ => b

/-- A relayed message may leave: a partial at once, a leaf once every relayed leaf of a lower rank has left (log entry 12,
DESIGN CHOICE). -/
def Block.mayRelay (b : Block) (m : FoldMsg) : Bool :=
  match b.gdef m.gid with
  | none => true
  | some d => m.hi > m.lo + 1 || ((b.closedHere d).filter fun x => x.2 == x.1 + 1 && x.1 < m.lo && b.relayed d x).all fun x =>
      b.hub.fd.msgs.any fun y => y.gid == m.gid && y.sn == m.sn && (y.lo, y.hi) == x && y.wait.isEmpty

/-- Queues the relayed messages that may leave, in ascending order of their nodes. -/
def Block.flushRelays (b : Block) : Block :=
  let ms := b.hub.fd.msgs.filter fun m => !m.wait.isEmpty
  let order := (sortNat (ms.map fun m => m.lo)).eraseDups
  b.each order fun b lo => b.each (ms.filter fun m => m.lo == lo) fun b m =>
    if b.mayRelay m then
      (b.updFd fun u => { u with msgs := u.msgs.map fun y => if y == m then { y with wait := [] } else y }).queueUp m.wait
    else b

/-- What a tier node can queue upward: the rest of the message that is under way, then relayed messages, then formed ones, older
folios first. A root sends nothing upward. -/
def Block.pumpFold (b : Block) : Block :=
  if isRoot b.dxs.role then b
  else
    let under (f : Formed) : Bool := f.sheets > 0
    let b := b.each (b.hub.fd.formed.filter under) fun b f => b.sendFormed f
    if b.upBusy then b
    else
      let b := b.flushRelays
      let fs := b.hub.fd.formed.filter fun f => !under f
      let order := (sortNat (fs.map fun f => f.sn)).eraseDups
      b.each order fun b sn => b.each (fs.filter fun f => f.sn == sn) fun b f => if b.upBusy then b else b.sendFormed f

/-- What a checked message does: relayed as it came, or held as an input. -/
def Block.foldAccept (b : Block) (d : GDef) (o : FoldOp) (g sn : Nat) (x : Nat × Nat) (ss : List Sheet) (data : List Byte) :
    Block :=
  if b.relayed d x then ((b.updFd fun u => { u with msgs := u.msgs ++ [⟨g, sn, x.1, x.2, [], ss⟩] }).noteOpen).pumpFold
  else ((b.updFd fun u => { u with msgs := u.msgs ++ [⟨g, sn, x.1, x.2, data, []⟩] }).noteOpen).formReady d o g sn

/-- Takes the first fold message; gives the instance it belongs to. -/
def Block.foldTake (b : Block) : Option ((Nat × Nat) × Block) :=
  match findFold b.dxs.node.rxSheets with
  | none => none
  | some (p, ss, rest) =>
    let b := (b.updNode .dxs fun n => { n with rxSheets := rest }).freeCredits .dxs p 0
      (bookedOf b.dxs.node.rxSheets - bookedOf rest)
    match ss.head? with
    | none => none
    | some s =>
      let g := s.obj
      let sn := (expandTag (b.job (b.gaJob g)).sn (BitVec.ofNat 16 s.tag)).toNat
      let b := b.updFd fun u => { u with seen := if u.seen.contains (g, sn, p) then u.seen else u.seen ++ [(g, sn, p)] }
      match b.gdef g, b.foldOp g, foldMessage ss with
      | some d, some o, some (who, span, form, data) =>
        if b.portRole p != roleDown then some ((g, sn), b.foldBad p)
        else match b.foldNode d g sn p who span form with
          | some x =>
            if data.length == msgSize o x then some ((g, sn), b.foldAccept d o g sn x ss data) else some ((g, sn), b.foldBad p)
          | none => some ((g, sn), b.foldBad p)
      | _, _, _ => some ((g, sn), b.foldBad p)

/-- Whether every message that the node must send upward for an instance has been queued (R205). -/
def Block.foldUpDone (b : Block) (g sn : Nat) : Bool :=
  match b.gdef g with
  | none => true
  | some d => (b.closedHere d).all fun x =>
      if b.relayed d x then b.hub.fd.msgs.any fun m => m.gid == g && m.sn == sn && (m.lo, m.hi) == x && m.wait.isEmpty
      else b.hub.fd.formed.any fun f => f.gid == g && f.sn == sn && (f.lo, f.hi) == x && match b.foldOp g with
        | some o => f.allSent o
        | none => false

/-! ### Tasks -/

/-- Combines inside a formed node. -/
def Block.combines (b : Block) (f : Formed) : Nat :=
  match b.gdef f.gid with
  | some d => (d.inputsOf (f.lo, f.hi)).length - 1
  | none => 0

/-- The lane-operations of a task (Throughput). -/
def Block.taskCost (b : Block) (o : FoldOp) (f : Formed) : Nat :=
  let per := if elementwise o then 256 else if o.op == 9 then o.d else o.cols
  b.combines f * (laneCost o * per + (if o.op == 9 then 36 else 0))

/-- The running task of an engine ends. -/
def Block.endTask (b : Block) (e : Nat) : Block :=
  match (b.eng e).run with
  | none => b
  | some t =>
    let b := (b.updEng e fun x => { x with run := none }).bump .dxs Reg.DXS_FD_E_TASK_CNT e
    let b := match b.hub.fd.formed.find? t.isOf, b.foldOp t.gid with
      | some f, some o =>
        let f' := { f with done := if f.done.contains t.k then f.done else f.done ++ [t.k] }
        let b := b.updFd fun u =>
          { u with formed := u.formed.map fun y => if t.isOf y then f' else y,
                   laneops := (u.laneops + b.taskCost o f) % 2 ^ 64 }
        b.pumpFold
      | _, _ => b
    b.startEng e

/-- R210: an engine whose queue is empty takes the oldest task from the longest queue. -/
def Block.steal (b : Block) (e : Nat) : Block :=
  let x := b.eng e
  let len (i : Nat) : Nat := (b.eng i).queue.length
  let most := maxN ((List.range 32).map len)
  if !wbit (b.reg .dxs Reg.DXS_FD_CTRL) 0 || e ≥ 32 || !b.engOn e || !x.queue.isEmpty || x.run.isSome || most == 0 then b
  else match (List.range 32).find? fun i => i != e && len i == most with
    | none => b
    | some i => match oldestTask (b.eng i).queue with
      | some (t, q) =>
        ((b.updEng i fun y => { y with queue := q }).updEng e fun y => { y with run := some t }).bump .dxs
          Reg.DXS_FD_E_STOLEN_CNT e
      | none => b

def foldTaskSteal (e : Nat) (b : Block) : Block := b.steal e

/-- The end of a known-answer test of an engine (R210, R326, R327): it runs only while every queue is empty; otherwise it is
abandoned. An engine out of service returns with a pass only after an apply that enables it. -/
def foldKat (e : Nat) (pass : Bool) (b : Block) : Block :=
  let x := b.eng e
  let idle := (List.range 32).all fun i => (b.eng i).queue.isEmpty && (b.eng i).run.isNone
  let int := b.rf .dxs (isBase .dxs + Reg.IS_INT) 15 0 * 1000000
  if e ≥ 32 || !wbit (b.reg .dxs Reg.DXS_FD_CTRL) 1 || (x.katFail && !x.kat && !x.ret) then b
  else if !idle then
    (b.updEng e fun y => { y with kat := false, stale := decide (b.now ≥ y.katAt + 10 * int) }).bump .dxs (isBase .dxs + Reg.IS_ABANDON_CNT)
  else
    let b := b.bump .dxs Reg.DXS_FD_KAT_CNT
    if pass then b.updEng e fun y =>
      { y with katFail := y.katFail && !y.ret, kat := false, ret := false, katAt := b.now, stale := false }
    else
      let b := (b.updEng e fun y => { y with katFail := true, kat := false, ret := false, katAt := b.now, stale := false }).bump .dxs
        Reg.DXS_FD_KAT_FAIL_CNT
      if x.katFail then b else b.raiseDxs Cause.foldKat

/-! ### Results (R206) -/

/-- The ports that carry a destination die of a fold. -/
def Block.destPorts (b : Block) (g : Nat) : List Nat :=
  match b.gdef g with
  | none => b.jobPorts (b.gaJob g)
  | some d => d.ports

/-- Whether a root's own result of an instance is ready. -/
def Block.resultReady (b : Block) (g sn : Nat) : Bool := b.hub.fd.formed.any fun f => f.gid == g && f.sn == sn && f.ready

/-- A root has formed the canonical root: it finishes it and sends it down its tree. -/
def Block.finishFold (b : Block) (g sn : Nat) : Block :=
  match b.gdef g, b.foldOp g with
  | some d, some o =>
    if (b.hub.fd.formed.any fun f => f.gid == g && f.sn == sn && f.complete && !f.ready) && isRoot b.dxs.role then
      match b.nodeValue d o g sn 0 d.n with
      | some v =>
        let b := (b.updFd fun u => { u with formed := u.formed.map fun f =>
          if f.gid == g && f.sn == sn then { f with ready := true } else f }).bump .dxs Reg.DXS_FD_RESULT_CNT
        b.each (b.destPorts g) fun b p => b.queueSheets .dxs p (foldSheets tFoldOut g (sn % 65536) 0 (d.n - 1) 2 (foldFinish o v))
      | none => b
    else b
  | _, _ => b

/-! ### FUNC_REINIT of the fold engines (R305) -/

/-- Every task is abandoned, every fold instance dropped, and the known-answer tests run again: each is under way until its
FOLD_KAT (log entry 171, DESIGN CHOICE). A pass alone returns no engine to service (R210). -/
def Block.reinitFold (b : Block) : Block :=
  let b := b.updFd fun u => { u with msgs := [], formed := [] }
  b.each (List.range 32) fun b e => b.updEng e fun x => { x with run := none, queue := [], kat := true }

/-! ### The commands -/

def execFoldTaskSteal (dt e : Nat) (s : State) : Host.Outcome State Fault Refusal :=
  s.act dt [.regs .dxs, .folds] (foldTaskSteal e)

def execFoldKat (dt e : Nat) (pass : Bool) (s : State) : Host.Outcome State Fault Refusal :=
  s.act dt [.regs .dxs, .ports .dxs, .inbox .dxs, .raised .dxs, .folds] (foldKat e pass)

end Sys2Proof.Machine
end

