-- ==== Sys2Proof/Machine/Verdicts.lean ====
section
/-! DEFINITION. The verdict log and the voters (R291, R292), and what a job's end does to its sessions (R258, R265). -/

namespace Sys2Proof.Machine

/-! ### The verdict log (R292) -/

def verdictBytes (v : Verdict) : List Byte :=
  let node := match v.part with
    | some p => b2n p.isNode
    | none => 0
  leBytes 4 v.seq ++ leBytes 1 v.kind ++ leBytes 1 node ++ leBytes 2 v.subj ++ leBytes 1 v.cause ++ leBytes 1 (v.job.getD 0) ++
    leBytes 1 v.votes ++ leBytes 1 v.slot ++ leBytes 2 v.fence ++ leBytes 1 (b2n v.job.isSome) ++ leBytes 1 0 ++
    leBytes 8 v.epoch ++ leBytes 8 v.stamp

/-- The subject that an entry names. JOBV 0 says that a DX-T is bound to no job, and then the index is that of such a die's record
(log entry 179, DESIGN CHOICE). -/
def Block.subjectOf (b : Block) (kind subj : Nat) (node jobv : Bool) : Part :=
  if node then Part.dxs subj
  else if jobv then Part.dxt subj
  else match b.unboundRec subj fun r => b.hub.fq.badRecs.contains r == (kind == Vk.reinstate) with
    | some r => Part.dxt (unboundBase + r)
    | none => Part.dxt subj

/-- The entry that 32 bytes from another voter hold. -/
def Block.verdictOf (b : Block) (bs : List Byte) : Verdict :=
  let kind := leAt bs 4 1
  let subj := leAt bs 6 2
  ⟨leAt bs 0 4, kind, if kind ≤ 3 then some (b.subjectOf kind subj (bit (leAt bs 5 1) 0) (bit (leAt bs 14 1) 0)) else none, subj, leAt bs 8 1,
    if bit (leAt bs 14 1) 0 then some (leAt bs 9 1) else none, leAt bs 10 1, leAt bs 11 1, leAt bs 12 2, leAt bs 16 8,
    leAt bs 24 8⟩

def Block.voterPresent (b : Block) (v : Nat) : Bool := bit (b.reg .dxs Reg.DXS_FQ_QUORUM).toNat v && !b.faulty (Part.dxs v)

def Block.presentVoters (b : Block) : List Nat := [0, 1, 2].filter b.voterPresent

/-- The node number of the acting root, as this node knows it. -/
def Block.actingNode (b : Block) : Nat :=
  if b.actingRoot then b.dxs.role.voter else if isRoot b.dxs.role then b.otherRoot else if b.faulty (Part.dxs 0) then 1 else 0

/-- Whether this node records a verdict on a subject: the acting root, but for the acting root itself the other root. -/
def Block.recorder (b : Block) (subject : Option Part) : Bool :=
  isRoot b.dxs.role && (if subject == some (Part.dxs b.actingNode) then !b.actingRoot else b.actingRoot)

/-- The host's copy of an entry: skipped and counted where the ring has no room or its channel cannot run. -/
def Block.copyVerdict (b : Block) (v : Verdict) : Block :=
  let r := b.vlogRing
  if r.room 32 ≥ 32 && b.chanAble .dxs chanVlog then b.ringPut chanVlog r Reg.DXS_FQ_VLOG_HEAD 0 (verdictBytes v)
  else b.bump .dxs Reg.DXS_FQ_VLOG_OVF_CNT

/-- The entries held on chip. -/
def maxVerdicts : Nat := 1024

/-- The die records whose newest verdict is FAULTY, after an entry. -/
def Block.badRecsAfter (b : Block) (v : Verdict) : List Nat :=
  let l := b.hub.fq.badRecs
  match v.part.bind b.recOfPart with
  | none => l
  | some r =>
    if v.kind == Vk.faulty then r :: l.filter fun x => x != r
    else if v.kind == Vk.reinstate then l.filter fun x => x != r
    else l

/-- An entry enters the log of this voter; a REINSTATE ends the SELF and PORT evidence on its subject (R289). -/
def Block.storeVerdict (b : Block) (v : Verdict) : Block :=
  (b.updFq fun q =>
    { q with log := (v :: q.log).take maxVerdicts, seq := v.seq, badRecs := b.badRecsAfter v,
             evidence := if v.kind == Vk.reinstate then q.evidence.filter fun e => e.about.isNone || e.about != v.part
               else q.evidence }).hw .dxs Reg.DXS_FQ_VLOG_SEQ 0 (w32 v.seq)

/-- Evidence, votes and disputes of one part speak of another name of it. -/
def Quorum.rename (q : Quorum) (old new : Part) : Quorum :=
  let f (p : Part) : Part := if p == old then new else p
  { q with evidence := q.evidence.map (fun e => { e with about := e.about.map f, end1 := f e.end1 }),
           votes := q.votes.map (fun v => { v with subject := f v.subject }), disputed := q.disputed.map f,
           due := q.due.map fun d => (f d.1, d.2) }

/-- A die record changes with a binding. What a voter holds on the die at that position stays with it under its new name (R289), and
an index taken over is free of what the log said of the die that had it. -/
def Block.setDie (b : Block) (r : Nat) (d : DieRec) : Block :=
  let old := b.partOfRec r
  let b := b.updTopo fun t => { t with dies := t.dies.set r d }
  let new := b.partOfRec r
  if old == new then b
  else b.updFq fun q =>
    let q := q.rename old new
    if d.bound then { q with since := nset sinceReset q.since d.idx q.seq } else q

/-- Where a REMOTE write of an entry's eight words goes at another voter (log entry 15, DEDUCED). -/
def verdictAddr : Nat := Reg.DXS_FQ_V_WORD

/-- The recorder appends an entry: to its own log, by REMOTE to every other voter present, and to the host's ring. -/
def Block.appendVerdict (b : Block) (kind : Nat) (part : Option Part) (cause : Nat) (job : Option Nat) (votes slot fence epoch : Nat) :
    Block :=
  let v : Verdict := ⟨(b.hub.fq.seq + 1) % 2 ^ 32, kind, part, (part.map b.subjOf).getD 0xFFFF, cause, job, votes, slot, fence, epoch, stamp64 (b.ht .dxs)⟩
  let b := ((b.storeVerdict v).bump .dxs Reg.DXS_FQ_VERDICT_CNT).copyVerdict v
  b.each (b.presentVoters.filter fun x => x != b.dxs.role.voter) fun b x => b.remoteIssue 2 2 x verdictAddr 8 (wordsOf (verdictBytes v)) (.verdict v.seq)

/-- Whether the recorder is the only voter present: an entry then takes effect at once. -/
def Block.aloneVoting (b : Block) : Bool := b.presentVoters.all fun v => v == b.dxs.role.voter

/-- The third part of R292 for the entry just appended: at once where no other voter is present, else once one has stored it. -/
def Block.actLater (b : Block) (a : VAct) (act : Block → Block) : Block :=
  if b.aloneVoting then act b else b.updFq fun q => { q with acts := q.acts ++ [(q.seq, a)] }

/-! ### The end of a job's turns (R265) -/

/-- The sum of the reservations of a job's sessions and of its tenants. -/
def Block.sessRsv (b : Block) (j : Nat) : Nat := sumN ((b.jobSlots j).map fun i => (b.sess i).rsv)
def Block.tenRsv (b : Block) (j : Nat) : Nat := sumN ((b.jobTenants j).map fun t => (b.tenant t).rsv)

/-- The audit of the ledger at a GO of a job (R258). -/
def Block.auditSess (b : Block) (j : Nat) : Block :=
  let ok := b.sessRsv j == b.tenRsv j && (b.jobTenants j).all fun t => (b.tenant t).rsv ≤ (b.tenant t).bal
  let b := b.updSs fun u => { u with audit := if ok then u.audit.filter (· != j) else if u.audit.contains j then u.audit else j :: u.audit }
  if ok then b else (b.bump .dxs Reg.DXS_SS_AUDIT_CNT).raiseDxs Cause.sessAudit

/-- END codes of R264. -/
def End.complete : Nat := 1
def End.cancelled : Nat := 2
def End.deadline : Nat := 3
def End.aborted : Nat := 4

def inTurn (s : Session) : Bool := s.st == Sess.queued || s.st == Sess.running || s.st == Sess.throttled

/-- A turn of a job that ends for good: END ABORTED, and CANCELLED for a cancel that is pending. -/
def Block.abortTurn (b : Block) (j slot : Nat) : Block :=
  let s := b.sess slot
  let h := handleOf slot s
  let sn := (b.job j).sn
  let b := b.updSess j slot fun x => { x with st := Sess.open_, rsv := 0, cancel := false }
  let b := b.updTen j s.tenant fun t => { t with rsv := t.rsv - s.rsv }
  let b := (b.postEvent (eventBytes Ev.end_ End.aborted j h sn (b.ht .dxs) s.turnOut)).bump .dxs Reg.DXS_SS_END_CNT
  if s.cancel then b.postEvent (eventBytes Ev.cancelResult 1 j h sn s.cstamp 0) else b

/-- The reservation of a session whose turn has ended and that no CHARGE has settled is released. -/
def Block.dropRsv (b : Block) (j slot : Nat) : Block :=
  let s := b.sess slot
  (b.updSess j slot fun x => { x with rsv := 0 }).updTen j s.tenant fun t => { t with rsv := t.rsv - s.rsv }

/-- Every turn ends ABORTED and every open reservation is released. -/
def Block.releaseJob (b : Block) (j : Nat) : Block :=
  let b := b.each ((b.jobSlots j).filter fun i => inTurn (b.sess i)) fun b i => b.abortTurn j i
  (b.each ((b.jobSlots j).filter fun i => (b.sess i).rsv != 0) fun b i => b.dropRsv j i).updJob j fun x => { x with queue := [] }

/-- A job is halted: by HALT, a program fault, or the recorder. The events of turns that an undecided segment has ended are posted
first, since every ended turn posts one (R252; log entry 143, DEDUCED). -/
def Block.haltJob (b : Block) (j pstat : Nat) : Block :=
  let b := b.each (b.job j).events fun b e => b.postEvent e
  (b.releaseJob j).updJob j fun x =>
    { x with st := .halted, pstat := pstat, wait := .none, dec := none, deferred := 0, events := [] }

/-- A program fault (R227): nothing more is emitted. -/
def Block.progFault (b : Block) (j pstat : Nat) : Block := (b.haltJob j pstat).bump .dxs Reg.FS_HALT_CNT

end Sys2Proof.Machine
end

