-- ==== Sys2Proof/Machine/GatherOps.lean ====
section
/-! DEFINITION. Gathering instances: opening, freeing, auditing, deadlines, and the marks that carry them (R171, R172, R182,
R187, R214). -/

namespace Sys2Proof.Machine

/-! ### Records -/

/-- The gatherings whose valid record at this node names a job. -/
def Block.recGaths (b : Block) (j : Nat) : List Nat :=
  (b.dxs.node.regs.file.eff.filter fun e => e.1 % 2 ^ 21 == Reg.GA_CFG && wbit e.2 31 && fld e.2 15 8 == j).map fun e => e.1 / 2 ^ 21

/-- A gathering in the ARRIVE stream: ALL, FOLD, or TIMED over ALL. -/
def Block.arriveStream (b : Block) (g : Nat) : Bool :=
  b.gaKind g == 0 || b.gaKind g == 4 || (b.gaKind g == 3 && b.gaBase g == 0)

/-- TIMED over COUNT or ANY. -/
def Block.timedCount (b : Block) (g : Nat) : Bool := b.gaKind g == 3 && b.gaBase g != 0

/-- The counts of an instance that stand in marks which have not left: they are pending (R180). -/
def Block.countQueued (b : Block) (g : Nat) (i : GInst) : Nat :=
  if isRoot b.dxs.role || b.arriveStream g || !i.live then 0
  else match b.upPortOf with
    | none => 0
    | some p =>
      let t := (b.port .dxs p).tx
      let own := (t.q1 ++ t.waiting).filter fun q =>
        (q.mark.kind == .count || q.mark.kind == .arrive) && q.mark.obj.toNat == g && q.mark.tag.toNat == i.sn % 65536
      sumN (own.map fun q => q.mark.arg.toNat)

def Block.gaExpect (b : Block) (g : Nat) : Nat := b.rf .dxs Reg.GA_EXPECT 16 0 g

/-- The launch time of a folio that this node knows: of the last GO, or of the one before. -/
def Block.tgoOf (b : Block) (j sn : Nat) : Option Nat :=
  let x := b.job j
  if !x.gone then none
  else if sn == x.sn then some x.tgo
  else if sn + 1 == x.sn then some x.tgoPrev
  else none

/-- The deadline of a TIMED instance (2^-16 ns). -/
def Block.deadlineAt (b : Block) (g sn : Nat) : Option Nat :=
  (b.tgoOf (b.gaJob g) sn).map fun t => t + (b.reg .dxs Reg.GA_DEADLINE g).toNat * 65536

/-! ### Instances -/

def freshInst (sn : Nat) : GInst := { GInst.reset with live := true, sn := sn }

def Block.done (b : Block) (j s : Nat) : GInst := (nget pairReset b.hub.dones j).slot s

def Block.updDone (b : Block) (j s : Nat) (f : GInst → GInst) : Block :=
  b.updHub fun h => { h with dones := nupd pairReset h.dones j fun x => x.setSlot s (f (x.slot s)) }

/-- What became of an arrival's folio: an instance, stale, or too far ahead (R171). -/
inductive Arrival where
  | at_ (sn : Nat)
  | stale
  | ahead
deriving DecidableEq, Repr

/-- Where an arrival of folio `sn` goes among a pair of slots. -/
def placeArrival (x : GPair) (sn : Int) : Arrival :=
  let live := [x.s0, x.s1].filter fun i => i.live
  let sns := live.map fun i => (i.sn : Int)
  if sn < 0 then .stale
  else if sns.contains sn then .at_ sn.toNat
  else match sns with
    | [] => .at_ sn.toNat
    | a :: r =>
      let newest := r.foldl max a
      if sn > newest + 1 then .ahead
      else if sns.all fun s => sn < s then (if live.length ≥ 2 || sn + 1 < newest then .stale else .at_ sn.toNat)
      else .at_ sn.toNat

def GInst.openAt (i : GInst) (sn : Nat) : GInst := if i.live && i.sn == sn then i else freshInst sn

/-- Frees the instances of folios up to `n` - 2. -/
def GInst.freeFor (n : Nat) (i : GInst) : GInst := if i.live && i.sn + 2 ≤ n then GInst.reset else i

def GPair.freeFor (n : Nat) (x : GPair) : GPair := ⟨x.s0.freeFor n, x.s1.freeFor n⟩

/-- The gatherings of a job with an instance at this node. -/
def Block.liveGaths (b : Block) (j : Nat) : List Nat := (b.hub.ga.map Prod.fst).filter fun g => b.gaJob g == j

def Block.gaN (b : Block) (g : Nat) : Nat := b.rf .dxs Reg.GA_N 16 0 g

def GInst.total (i : GInst) (treeA : Bool) : Nat := if treeA then i.recv else i.recvB

/-- STATUS.OVER is a level: some instance at the acting root has a tree's total above N. -/
def Block.overNow (b : Block) : Bool :=
  b.actingRoot && b.hub.ga.any fun e => [e.2.s0, e.2.s1].any fun i =>
    i.live && (i.total true > b.gaN e.1 || i.total false > b.gaN e.1)

def Block.overAnew (b : Block) : Block := b.updHub fun h => { h with gaOver := b.overNow }

def Block.freeInsts (b : Block) (j n : Nat) : Block :=
  let gs := b.liveGaths j
  let b := b.each gs fun b g =>
    (b.updHub fun h => { h with ga := nupd pairReset h.ga g fun x => x.freeFor n }).freeFold g fun s => decide (s + 2 ≤ n)
  (b.updHub fun h => { h with dones := nupd pairReset h.dones j fun x => x.freeFor n }).overAnew

/-- R171: a root opens the TIMED instances of a folio with its GO. -/
def Block.openTimed (b : Block) (j n : Nat) : Block :=
  if isRoot b.dxs.role then
    b.each ((b.recGaths j).filter fun g => b.gaKind g == 3) fun b g => b.updInst g n fun i => i.openAt n
  else b

/-- received - forwarded - pending = 0 (R187). -/
def GInst.auditOk (i : GInst) : Bool :=
  !i.live || i.recv + i.recvB == i.sent + i.held + sumN (i.waiting.map Prod.fst)

def GPair.auditOk (x : GPair) : Bool := x.s0.auditOk && x.s1.auditOk

def Block.auditGath (b : Block) (j : Nat) : Block :=
  let ok := ((b.liveGaths j).all fun g => (nget pairReset b.hub.ga g).auditOk) && (nget pairReset b.hub.dones j).auditOk
  let b := b.updHub fun h => { h with gaAudit := !ok }
  if ok then b else (b.bump .dxs Reg.GA_AUDIT_CNT).raiseDxs Cause.gathAudit

/-- What a GO of folio `n` of a job does to the node's books: the audits, then the freeing of old instances. -/
def Block.goBooks (b : Block) (j n : Nat) (ports : List Nat) : Block :=
  let b := b.each ports fun b p => b.auditCredits .dxs p
  (((b.auditGath j).auditFold).freeInsts j n).openTimed j n

/-! ### The COMPLETE mark (R172, R184) -/

def outComplete : Nat := 1
def outExpired : Nat := 2

def completeMark (g sn outcome stamp : Nat) : Mark := mkMark .complete g (sn % 65536) stamp outcome

/-- COMPLETE goes to every DOWN port that carries a die of the gathering's job. -/
def Block.emitComplete (b : Block) (g sn outcome stamp : Nat) : Block :=
  b.offerAll .dxs (b.jobPorts (b.gaJob g)) (completeMark g sn outcome stamp)

end Sys2Proof.Machine
end

