-- ==== Sys2Proof/Machine/PathOps.lean ====
section
/-! DEFINITION. The decision path of the timing roots: handing over, acknowledging, emitting, mirroring (R23 to R39, R225 to
R236, R297). -/

namespace Sys2Proof.Machine

/-! ### Folio timing -/

/-- The smallest point of the launch grid at or after a time (R18). -/
def ceilGrid (t : Nat) : Nat := ceilMul (4 * 65536) t

/-- The SN of the next GO. -/
def Job.nextSn (x : Job) : Nat := if x.gone then x.sn + 1 else 0

/-- The folio that the job's next decision decides: -1 in the prologue. -/
def Job.folio (x : Job) : Int := if x.gone then x.sn else -1

def Block.ftPeriod (b : Block) (j : Nat) : Nat := b.rf .dxs Reg.FT_PERIOD 23 0 j * 65536
def Block.ftLead (b : Block) (j : Nat) : Nat := b.rf .dxs Reg.FT_LEAD 15 0 j * 65536
def Block.ftDelivery (b : Block) (j : Nat) : Nat := b.rf .dxs Reg.FT_DELIVERY 15 0 j * 65536

/-- R31: a folio decision waits until this long before the launch time that R25 gives. -/
def decisionHold : Nat := 400000 * 65536

/-- The emission guard's allowance beside the delivery bound (R30). -/
def emitAllowance : Nat := 200 * 65536

/-! ### The log (R235) -/

def logEntry (typ job pc sn value : Nat) (f : Bool) (pay : List Byte) : List Byte :=
  let h := leBytes 1 typ ++ leBytes 1 job ++ leBytes 2 pc ++ leBytes 8 sn ++ leBytes 8 value ++ leBytes 1 (b2n f) ++ leBytes 3 0 ++
    leBytes 4 pay.length
  h ++ leBytes 4 (crc32c (h ++ pay)) ++ pay

/-- The kinds whose decisions depend on time: COUNT, ANY and TIMED. -/
def varies (kind : Nat) : Bool := kind == 1 || kind == 2 || kind == 3

/-- Whether a job's varies results are logged now. -/
def Job.logging (x : Job) : Bool := x.record && x.rst.st != .catchup && !x.replay

/-- The log entry of a gathering decision; none where none is logged. -/
def Block.gathLog (b : Block) (g : GDecision) : List (List Byte) :=
  let j := b.gaJob g.gid
  if varies (b.gaKind g.gid) && (b.job j).logging && !(b.job j).replays then
    [logEntry 0x3F j 0xFFFF g.sn (g.gid * 65536 + g.outcome) false (htBytes g.stamp ++ leBytes 4 0)]
  else []

/-- The bytes of a list of entries. -/
def bytesOf (l : List (List Byte)) : Nat := sumN (l.map List.length)

/-- The space in a job's log ring that decisions handed over and not yet acknowledged have reserved. -/
def Block.logReserved (b : Block) (j : Nat) : Nat :=
  (match (b.job j).dec with
    | some d => if d.dseq.isSome then bytesOf d.logs else 0
    | none => 0) +
  sumN ((b.hub.path.gdecs.filter fun g => g.dseq.isSome && b.gaJob g.gid == j).map fun g => bytesOf (b.gathLog g))

def Block.logFits (b : Block) (j n : Nat) : Bool :=
  n == 0 || (decide ((b.logRing j).room 16 ≥ b.logReserved j + n) && b.chanAble .dxs chanLog)

/-- The events that the end of a job's turns posts (R265): an END for each, and a CANCEL_RESULT for each cancel pending. -/
def Block.abortEvents (b : Block) (j : Nat) : Nat :=
  sumN (((b.jobSlots j).filter fun i => inTurn (b.sess i)).map fun i => 1 + b2n (b.sess i).cancel)

/-- The space in the event ring that a decision's events need; a HALT's are those of the turns it ends, too (R264, R265). -/
def Block.evNeed (b : Block) (j : Nat) (d : Decision) : Nat :=
  32 * (d.events.length + if d.ending == .halt then b.abortEvents j else 0)

/-- Events that wait for room come first. -/
def Block.evFits (b : Block) (n : Nat) : Bool :=
  n == 0 || (decide (b.evRing.room 32 ≥ b.evReserved + 32 * b.hub.ss.evq.length + n) && b.chanAble .dxs chanEvent)

/-- Entries enter the job's ring. -/
def Block.writeLogs (b : Block) (j : Nat) (es : List (List Byte)) : Block :=
  let b := b.each es fun b e => (b.ringPut chanLog (b.logRing j) Reg.FS_C_LOG_HEAD j e).bump .dxs Reg.FS_C_VARIES_CNT j
  b.updJob j fun x => { x with logBytes := x.logBytes + sumN (es.map List.length), logCnt := x.logCnt + es.length }

def Block.writeEvents (b : Block) (es : List (List Byte)) : Block :=
  b.each es fun b e => b.ringPut chanEvent b.evRing Reg.DXS_SS_EV_HEAD 0 e

/-! ### Root snapshots (R297, R298) -/

/-- The checkpoint slot that the next snapshot uses: the lowest that holds neither the newest sealed epoch's nor that of
J_STORED. -/
def Block.ckSlot (b : Block) (j : Nat) : Option Nat :=
  let keep (c : CkSlot) : Bool := c.epoch != 0 && ((b.reg .dxs Reg.DXS_FQ_J_SEALED j).toNat == c.epoch % 2 ^ 32 && c.sealed ||
    (b.reg .dxs Reg.DXS_FQ_J_STORED j).toNat == c.epoch % 2 ^ 32)
  (List.range 4).find? fun i => !keep ((b.job j).slots.getD i CkSlot.reset)

def Block.ckBase (b : Block) (j : Nat) : Nat :=
  (b.reg .dxs Reg.DXS_FQ_J_CK_BASE_LO j).toNat + (b.reg .dxs Reg.DXS_FQ_J_CK_BASE_HI j).toNat * 2 ^ 32

def Block.ckSize (b : Block) (j : Nat) : Nat := (b.reg .dxs Reg.DXS_FQ_J_CK_SLOT j).toNat

/-- The snapshot of an epoch whose first folio is `n`, taken as GO `n` is emitted. -/
def Block.snapshot (b : Block) (j n : Nat) (r : HeldRec) : Block :=
  match b.ckSlot j with
  | none => b
  | some i =>
    let img := b.jobImage j ((n : Int) - 1)
    let fits := decide (img.length ≤ b.ckSize j) && b.chanAble .dxs chanCkpt
    let b := if fits then b.hostWrite chanCkpt (b.ckBase j + i * b.ckSize j) img else b
    b.updJob j fun x => { x with slots := x.slots.set i ⟨r.b64, fits, n, r.a32 % 65536, false⟩, rst := { x.rst with short := !fits } }

def Block.snapshots (b : Block) (j n : Nat) : Block :=
  if b.actingRoot then
    b.each ((b.job j).held.filter fun r => r.rtype == 3 && r.folio == n) fun b r => b.snapshot j n r
  else b

/-! ### Emission (R225, R226, R228) -/

/-- What leaves down the tree for a decision: the GO, the commit list, the OPPOINT that is due. -/
def Block.sendFolio (b : Block) (j : Nat) (go : Bool) (tgo n : Nat) (folio : Int) (list : List Byte) (opp : Option (Nat × Nat)) :
    Block :=
  let sheets := if list.isEmpty then [] else sheetsOf tCommit j (folio % 65536).toNat false list
  let due := match opp with
    | some (f, e) => if go && f == n + 1 then some (f, e) else none
    | none => none
  b.each (b.jobPorts j) fun b p =>
    let b := if go then b.offer .dxs p (mkMark .go j (n % 65536) tgo sheets.length) else b
    let b := b.queueSheets .dxs p sheets
    match due with
    | some (f, e) => b.offer .dxs p (mkMark .oppoint j (f % 65536) (b.ht .dxs) e)
    | none => b

/-- The job after GO `n` has been emitted: its seeds, records and operating point move on with it, and its segment begins. -/
def Job.afterGo (x : Job) (n tgo : Nat) (late : Bool) : Job :=
  let (streams, salts) := x.seedsAt n
  let opp := match x.opp with
    | some (f, e) => if f == n + 1 then none else some (f, e)
    | none => none
  let now := match x.opp with
    | some (f, e) => if f == n + 1 then e else x.oppNow
    | none => x.oppNow
  let for_ := match x.opp with
    | some (f, _) => if f == n + 1 then some f else x.oppFor
    | none => x.oppFor
  { x with st := .running, sn := n, gone := true, prologue := false, tgoPrev := x.tgo, tgo := tgo, lastLate := late,
           streams := streams, salts := salts, recs := x.recs.filter (fun r => r.folio > n), early := x.early.filter (fun r => r.folio > n), opp := opp, oppNow := now, oppFor := for_ }

/-- What a segment gathered is spent. -/
def Job.newSegment (x : Job) : Job :=
  { x with seg := 0, ran := [], wait := .none, dec := none, entries := [], formed := false, kept := [], logs := [], events := [],
           live := false, repA := none, repB := none }

/-- The registers that show an emitted GO (R40). -/
def Block.showGo (b : Block) (j tgo : Nat) : Block := b.hwHT .dxs Reg.FT_GO j tgo

def Ending.code : Ending → Nat
  | .commit => 0
  | .pause => 1
  | .halt => 2

def endingOf : Nat → Ending
  | 0 => .commit
  | 1 => .pause
  | _ => .halt

/-- What an emitted GO does at a root beside the marks: books, snapshots, registers, the job's next folio. -/
def Block.afterEmitGo (b : Block) (j n tgo : Nat) (late : Bool) : Block :=
  let b := (b.snapshots j n).goBooks j n (b.jobPorts j)
  let b := if isRoot b.dxs.role && (b.job j).sess then b.auditSess j else b
  (b.showGo j tgo).updJob j fun x => (x.afterGo n tgo late).newSegment

/-- Folio-timing values that DXS_APPLY staged take effect at the job's CUTOFF (R40). -/
def Block.takeStaged (b : Block) (j : Nat) : Block :=
  (b.each (b.job j).ftStaged fun b e => b.commit .dxs e.1 e.2).updJob j fun x => { x with ftStaged := [] }

/-- A catch-up ends with the decision of the last folio decided before the stop (R302); a decision that a stop found on its
way is the last one (R296). -/
def Job.caughtUp (x : Job) (folio : Int) : Job :=
  if x.stopped then { x with rst := { x.rst with last := folio.toNat } }
  else if x.rst.st == .catchup && decide (folio ≥ x.rst.last) then { x with rst := { x.rst with st := .none } } else x

/-- The log through the folio decision that is being emitted (R276). -/
def Job.markLog (x : Job) : Job := { x with logPos := x.logBytes, logPosCnt := x.logCnt }

/-- The acting root emits a decision: its log entries, its events, then down its own tree. `ok` says that both roots' APPLYAT
results passed. -/
def Block.emitFolio (b : Block) (j : Nat) (ok : Bool) : Block :=
  match (b.job j).dec with
  | none => b
  | some d =>
    let b := b.updJob j fun x => { x with hold := false }
    let x := b.job j
    let n := x.nextSn
    let b := ((b.writeLogs j d.logs).updJob j Job.markLog).writeEvents d.events
    let b := b.sendFolio j (d.ending == .commit) d.tgo n d.folio d.list x.opp
    match d.ending with
    | .commit =>
      let b := b.afterEmitGo j n d.tgo d.late
      let b := b.updJob j fun x => { x.caughtUp d.folio with applyAt := if ok then d.checked.map fun l => (d.mask, l) else none }
      if ok then b else b.deferPause j Pstat.applyRefused
    | .pause => b.updJob j fun x => { x.newSegment.caughtUp d.folio with st := .paused }
    | .halt => (b.updJob j fun x => x.newSegment).haltJob j Pstat.halted

/-! ### The DECISION message (R232) -/

def decHeader (kind job dseq : Nat) (sn : Int) (body : List Byte) : List Byte :=
  leBytes 1 kind ++ leBytes 1 job ++ leBytes 2 dseq ++ leBytes 8 (sn % 2 ^ 64).toNat ++ leBytes 4 body.length ++ body

/-- A list with its length in front. -/
def counted (n : Nat) (l : List (List Byte)) : List Byte := leBytes n l.length ++ l.flatten

def sized (bs : List Byte) : List Byte := leBytes 4 bs.length ++ bs

def tickBytes (i : Nat) (t : Ticket) : List Byte :=
  leBytes 4 i ++ leBytes 2 t.gen ++ leBytes 1 t.st ++ leBytes 1 t.job ++ leBytes 2 t.tenant ++ leBytes 12 t.expiry

/-- What the root's tables lost or gained for the job: slots, tenants, tickets, queue, pending effects, records, evictions. -/
def Block.changeBytes (b : Block) (j : Nat) : List Byte :=
  let x := b.job j
  counted 4 (x.touched.map fun i => leBytes 4 i ++ b.sessRec i) ++
    counted 4 (x.touchedT.map fun t => leBytes 4 t ++ tenBytes (b.tenant t) ++ leBytes 1 (b2n (b.tenant t).removing)) ++
    counted 4 ((b.hub.ss.tickets.filter fun e => e.2.job == j).map fun e => tickBytes e.1 e.2) ++
    counted 4 (x.queue.map fun q => leBytes 4 q.1 ++ leBytes 12 q.2) ++
    counted 4 (x.pend.map fun p => pendBytes p ++ leBytes 12 p.stamp) ++
    counted 4 (x.recs.map fun r => leBytes 8 r.folio ++ recBytes r) ++
    counted 4 (x.early.map fun r => leBytes 8 r.folio ++ recBytes r) ++
    counted 4 (x.evicts.map (leBytes 6))

def oppBytes : Option (Nat × Nat) → List Byte
  | some (f, e) => leBytes 1 (128 + e) ++ leBytes 8 f
  | none => leBytes 9 0

/-- The body of a folio decision, in the order of R232; the places are the model's (log entry 16, DESIGN CHOICE). -/
def Block.decisionBody (b : Block) (j : Nat) (d : Decision) : List Byte :=
  let x := b.job j
  htBytes d.tgo ++ htBytes x.cut ++ htBytes x.sealAt ++ leBytes 2 x.pc ++ leBytes 1 (b2n x.f) ++ x.words.flatMap (leBytes 8) ++
    leBytes 1 x.pstat ++ sized (b.changeBytes j) ++ sized d.list ++ oppBytes x.opp ++ sized d.logs.flatten ++
    leBytes 4 d.logs.length ++ leBytes 1 d.ending.code ++ leBytes 1 (b2n d.late) ++ leBytes 1 (b2n x.gone) ++
    leBytes 1 (b2n (d.verdict.isNone) + 2 * b2n d.guarded) ++ leBytes 4 d.mask ++ leBytes 8 x.epoch ++ leBytes 12 d.sched

/-! ### Handing over (R30, R31, R232, R233, R235, R264) -/

/-- R233: decisions are emitted without acknowledgement. -/
def Block.soloNow (b : Block) : Bool :=
  b.hub.path.solo || b.faulty (Part.dxs b.otherRoot) || (b.portsOf roleCross).all fun p => (b.port .dxs p).st == .lost

def Block.sendDecision (b : Block) (kind job dseq : Nat) (sn : Int) (body : List Byte) : Block :=
  match b.crossPort with
  | some p => b.sendMessage .dxs p tDecision job dseq false (decHeader kind job dseq sn body)
  | none => b

/-- The DXS_APPLY masks of the APPLYATs that name a folio, as one. -/
def Job.applyMask (x : Job) (n : Nat) : Nat :=
  (x.held.filter fun r => r.rtype == 1 && r.folio == n).foldl (fun a r => a ||| r.a32 / 65536) 0

/-- A root's own candidate for the APPLYATs of a folio: its verdict and values, posted. -/
def Block.checkAt (b : Block) (mask : Nat) : (Option Refusal353 × Option (List (Nat × Word))) × Block :=
  if mask == 0 then ((none, none), b)
  else
    let v := b.checkApply .dxs mask true
    ((v, if v.isNone then some (b.applyValues .dxs mask) else none), b.postApply .dxs v true)

/-- The decision number, and the next one. -/
def Block.nextDseq (b : Block) : Nat × Block :=
  (b.hub.path.dseq, b.updPath fun p => { p with dseq := (p.dseq + 1) % 65536 })

/-- R30 at the hand-off of a decision with a GO. -/
def Block.guardTgo (b : Block) (j : Nat) (d : Decision) : Decision × Block :=
  let need := b.ht .dxs + emitAllowance + b.ftDelivery j
  if d.ending == .commit && need > d.tgo then ({ d with tgo := ceilGrid need, late := true, guarded := true }, b.bump .dxs Reg.FT_EMIT_CNT j)
  else (d, b)

/-- A late folio is counted, with its lateness (R26). -/
def Block.countLate (b : Block) (j : Nat) (d : Decision) : Block :=
  if d.ending == .commit && d.late then
    (b.bump .dxs Reg.FT_LATE_CNT j).hwMax .dxs Reg.FT_LATE_MAX j ((d.tgo - d.sched) / 65536)
  else b

/-- What a decision has carried is carried no more; a later change goes into the next one (R248). -/
def Job.carried (x : Job) : Job := { x with touched := [], touchedT := [] }

/-- Whether this root runs the job's context: the acting root, but after HANDBACK root B up to the context's next ending instruction
(R217, R234). -/
def Block.runsJob (b : Block) (j : Nat) : Bool := isRoot b.dxs.role && b.actingRoot != (b.job j).hold

/-- Hands a decision over, or emits it at once where there is no partner. -/
def Block.handOver (b : Block) (j : Nat) (d : Decision) : Block :=
  let (d, b) := b.guardTgo j d
  let b := b.countLate j d
  let mask := if d.ending == .commit then (b.job j).applyMask (b.job j).nextSn else 0
  let ((v, l), b) := b.checkAt mask
  let (q, b) := b.nextDseq
  let d := { d with mask := mask, verdict := v, checked := l, dseq := some q, sentAt := b.now, need := b.evNeed j d }
  let b := b.updJob j fun x => { x with dec := some d }
  if b.soloNow then
    (((b.updJob j Job.carried).updPath fun p => { p with solo := true }).bump .dxs Reg.FS_SOLO_CNT).emitFolio j d.verdict.isNone
  else (b.sendDecision 0 j q d.folio (b.decisionBody j d)).updJob j Job.carried

/-- Hands the job's decision over if it may go now: not before its hold ends, with room for its log entries and events. -/
def Block.tryHand (b : Block) (j : Nat) : Block :=
  let x := b.job j
  match x.dec with
  | none => b
  | some d =>
    let early := decide (b.ht .dxs + decisionHold < d.tgo)
    if d.dseq.isSome || early || x.stopped || !b.runsJob j then b
    else
      let logOk := b.logFits j (bytesOf d.logs)
      let evOk := b.evFits (b.evNeed j d)
      let b := if logOk || d.logWait then b else b.bump .dxs Reg.FS_C_LOGWAIT_CNT j
      let b := if evOk || d.evWait then b else b.bump .dxs Reg.DXS_SS_EVWAIT_CNT
      let d := { d with logWait := !logOk, evWait := !evOk }
      let b := b.updJob j fun y => { y with dec := some d }
      if logOk && evOk then b.handOver j d else b

/-- A decision is made and handed over as soon as it may be. -/
def Block.decide_ (b : Block) (j : Nat) (ending : Ending) (tgo sched : Nat) (late : Bool) (list : List Byte) : Block :=
  let x := b.job j
  let logs := if x.logging then x.logs else []
  let d : Decision := ⟨ending, x.folio, tgo, sched, late, false, list, x.opp, logs, x.events, 0, none, none, none, 0, false, false, 0⟩
  (b.updJob j fun y => { y with dec := some d, wait := .ending }).tryHand j

/-! ### Gathering decisions (R184, R232, R235) -/

/-- COMPLETE leaves, and the decision is logged. -/
def Block.emitGath (b : Block) (g : GDecision) : Block :=
  ((b.writeLogs (b.gaJob g.gid) (b.gathLog g)).emitComplete g.gid g.sn g.outcome g.stamp).updPath fun p =>
    { p with gdecs := p.gdecs.filter fun x => !(x.gid == g.gid && x.sn == g.sn) }

def gathBody (g : GDecision) : List Byte := leBytes 2 g.gid ++ leBytes 1 g.outcome ++ leBytes 1 0 ++ htBytes g.stamp

/-- Hands the gathering decisions over that wait and may go. -/
def Block.tryGath (b : Block) : Block :=
  b.each (b.hub.path.gdecs.filter fun g => g.dseq.isNone) fun b g =>
    let j := b.gaJob g.gid
    if (b.job j).stopped || !b.actingRoot then b
    else if !b.logFits j (bytesOf (b.gathLog g)) then b
    else
      let (q, b) := b.nextDseq
      let g' := { g with dseq := some q, sentAt := b.now }
      let b := b.updPath fun p => { p with gdecs := p.gdecs.map fun x => if x.gid == g.gid && x.sn == g.sn then g' else x }
      if b.soloNow then ((b.updPath fun p => { p with solo := true }).bump .dxs Reg.FS_SOLO_CNT).emitGath g'
      else b.sendDecision 1 j q g.sn (gathBody g)

/-- An instance is decided: it takes its outcome, the decision is counted and goes on its way; a decision held for log space
is counted once. -/
def Block.decideGath (b : Block) (g sn outcome stamp : Nat) : Block :=
  let b := b.updInst g sn fun i => { i with outcome := outcome, dstamp := stamp }
  let b := b.bump .dxs (if outcome == outComplete then Reg.GA_DECIDED_CNT else Reg.GA_EXPIRED_CNT)
  let d : GDecision := ⟨g, sn, outcome, stamp, none, 0⟩
  let j := b.gaJob g
  let b := if b.logFits j (bytesOf (b.gathLog d)) then b else b.bump .dxs Reg.FS_C_LOGWAIT_CNT j
  (b.updPath fun p => { p with gdecs := p.gdecs ++ [d] }).tryGath

/-- The decisions that wait for an acknowledgement which will not come are emitted (R233). -/
def Block.goSolo (b : Block) : Block :=
  if !b.actingRoot then b
  else
    let b := b.updPath fun p => { p with solo := true }
    let b := b.each (b.hub.jobs.map Prod.fst) fun b j => b.updJob j fun x => { x with hold := false }
    let js := (b.hub.jobs.filter fun e => match e.2.dec with
      | some d => d.dseq.isSome
      | none => false).map Prod.fst
    let b := b.each js fun b j => (b.bump .dxs Reg.FS_SOLO_CNT).emitFolio j (match (b.job j).dec with
      | some d => d.verdict.isNone
      | none => true)
    b.each (b.hub.path.gdecs.filter fun g => g.dseq.isSome) fun b g => (b.bump .dxs Reg.FS_SOLO_CNT).emitGath g

/-! ### Mirroring (R232, R248) -/

/-- Splits off `n` pieces of `len` bytes. -/
def chop (len : Nat) : Nat → List Byte → List (List Byte)
  | 0, _ => []
  | n + 1, bs => bs.take len :: chop len n (bs.drop len)

/-- A counted list of pieces of `len` bytes, and what follows. -/
def takeCounted (len : Nat) (bs : List Byte) : List (List Byte) × List Byte :=
  let n := leAt bs 0 4
  (chop len n (bs.drop 4), bs.drop (4 + n * len))

def takeSized (bs : List Byte) : List Byte × List Byte :=
  let n := leAt bs 0 4
  ((bs.drop 4).take n, bs.drop (4 + n))

def recOfBytes (bs : List Byte) : HeldRec := ⟨leAt bs 8 1, leAt bs 9 1, leAt bs 0 8, leAt bs 12 4, leAt bs 16 8⟩

/-- The mirror takes the table changes of a decision. -/
def Block.takeChanges (b : Block) (j : Nat) (bs : List Byte) : Block :=
  let (ss, bs) := takeCounted 68 bs
  let (ts, bs) := takeCounted 37 bs
  let (ks, bs) := takeCounted 22 bs
  let (qs, bs) := takeCounted 16 bs
  let (ps, bs) := takeCounted 60 bs
  let (rs, bs) := takeCounted 24 bs
  let (el, bs) := takeCounted 24 bs
  let (es, _) := takeCounted 6 bs
  let b := b.each ss fun b s => b.updSs fun u => { u with slots := nset sessReset u.slots (leAt s 0 4) (sessOf (s.drop 4)) }
  let b := b.each ts fun b t => b.updSs fun u =>
    { u with tenants := nset tenReset u.tenants (leAt t 0 4) { tenOf (t.drop 4) with removing := leAt t 36 1 == 1 } }
  let b := b.each ks fun b k => b.updTick (leAt k 0 4) fun x => ⟨leAt k 4 2, leAt k 6 1, leAt k 10 12, leAt k 8 2, leAt k 7 1, x.rounds⟩
  b.updJob j fun x =>
    { x with queue := qs.map fun q => (leAt q 0 4, leAt q 4 12), pend := ps.map fun p => pendOf p (leAt p 48 12),
             recs := rs.map recOfBytes, early := el.map recOfBytes, evicts := es.map fun e => leAt e 0 6 }

def oppOfBytes (bs : List Byte) : Option (Nat × Nat) :=
  if leAt bs 0 1 ≥ 128 then some (leAt bs 1 8, leAt bs 0 1 % 16) else none

/-- The time from a folio's launch to its readiness enters the job's record of the operating point in effect (R32, R329). -/
def Job.noteSpan (x : Job) (span : Nat) : Job :=
  { x with spans := (span :: if x.oppFor == some x.sn then [] else x.spans).take (2 ^ 20) }

/-- What a cut-off shows and brings into effect: the stamps, the margin, and folio timing that DXS_APPLY staged (R40). -/
def Block.showCut (b : Block) (j : Nat) (sn : Int) (cut seal_ : Nat) : Block :=
  let b := b.takeStaged j
  let b := b.updJob j fun x => { x with cut := cut, sealAt := seal_, period := b.ftPeriod j, lead := b.ftLead j }
  let b := b.updJob j fun x => x.noteSpan (x.cut + x.lead - x.tgo)
  let x := b.job j
  let b := (b.hwHT .dxs Reg.FT_CUT j cut).hwHT .dxs Reg.FT_SEAL j seal_
  (b.hw .dxs Reg.FT_TAG j (w32 (sn % 65536).toNat)).hw .dxs Reg.FT_SLACK j
    (i32 ((((x.tgo + x.period : Nat) : Int) - ((x.cut + x.lead : Nat) : Int)) / 65536))

/-- The root that does not run the context stores a folio decision and emits it down its own tree; gives the result of its own
APPLYAT check. The registers of a cut-off change only where the decision follows one (R40). -/
def Block.mirrorFolio (b : Block) (j : Nat) (sn : Int) (bs : List Byte) : Bool × Block :=
  let tgo := htOfBytes bs 0
  let fixed := bs.drop 168
  let (chg, r) := takeSized fixed
  let (list, r) := takeSized r
  let opp := oppOfBytes r
  let (logs, r) := takeSized (r.drop 9)
  let nlog := leAt r 0 4
  let ending := endingOf (leAt r 4 1)
  let late := leAt r 5 1 == 1
  let gone := leAt r 6 1 == 1
  let okA := bit (leAt r 7 1) 0
  let guarded := bit (leAt r 7 1) 1
  let mask := leAt r 8 4
  let epoch := leAt r 12 8
  let sched := leAt r 20 12
  let cut := htOfBytes bs 12
  let b := b.takeChanges j chg
  let b := if 0 ≤ sn && cut != (b.job j).cut then b.showCut j sn cut (htOfBytes bs 24) else b
  let b := b.updJob j fun x =>
    { x with pc := leAt bs 36 2, f := leAt bs 38 1 == 1, hold := false,
             words := (chop 8 16 (bs.drop 39)).map fun w => leAt w 0 8, pstat := leAt bs 167 1, opp := opp, gone := gone,
             sn := sn.toNat, epoch := epoch, logBytes := x.logBytes + logs.length, logCnt := x.logCnt + nlog }
  let b := b.updJob j Job.markLog
  let n := (b.job j).nextSn
  let ((v, l), b) := b.checkAt mask
  let b := b.sendFolio j (ending == .commit) tgo n sn list opp
  let b := if ending == .commit && late then
      (b.bump .dxs Reg.FT_LATE_CNT j).hwMax .dxs Reg.FT_LATE_MAX j ((tgo - sched) / 65536)
    else b
  let b := if guarded then b.bump .dxs Reg.FT_EMIT_CNT j else b
  let ok := okA && (v.isNone || b.isA)
  let b := match ending with
    | .commit =>
      let b := b.afterEmitGo j n tgo late
      let b := b.updJob j fun x => { x with applyAt := if ok then l.map fun l => (mask, l) else none }
      if ok then b else b.deferPause j Pstat.applyRefused
    | .pause => b.updJob j fun x => { x.newSegment with st := .paused }
    | .halt => (b.updJob j fun x => x.newSegment).haltJob j Pstat.halted
  (v.isNone, b)

end Sys2Proof.Machine
end

