-- ==== Sys2Proof/Machine/Proposals.lean ====
section
/-! DEFINITION. Re-planning (R329 to R331): proposals, their commit, and the staging of an operating-point table at dies. -/

namespace Sys2Proof.Machine

/-! ### A job's operating-point table (R277): 16 entries of 8 bytes -/

def tabMhz (t : List Byte) (e : Nat) : Nat := leAt t (8 * e) 2
def tabSeam (t : List Byte) (e : Nat) : Nat := leAt t (8 * e + 2) 1
def tabValid (t : List Byte) (e : Nat) : Bool := bit (leAt t (8 * e + 3) 1) 0
def tabVreq (t : List Byte) (e : Nat) : Nat := leAt t (8 * e + 4) 4

/-- OPP_FREQ as an entry gives it. -/
def tabFreq (t : List Byte) (e : Nat) : Word :=
  w32 (b2n (tabValid t e) * 2 ^ 31 + tabSeam t e % 8 * 2 ^ 16 + tabMhz t e)

/-- Queues the REMOTE writes that stage a table at a die: selector, frequency word and voltage codes of each entry. -/
def Block.stageTable (b : Block) (rec : Nat) (t : List Byte) (use : RemUse) : Block :=
  b.each (List.range 16) fun b e =>
    b.remoteIssue 2 1 (b.topo.die rec).pos Reg.DC_OPP_SEL 3 [w32 e, tabFreq t e, w32 (tabVreq t e)] use

/-! ### Proposals (R329) -/

/-- One projection: the entry, the margin as an exact fraction, the die's WARN, the die and the region. -/
structure Fit where
  entry : Nat
  num : Int
  den : Nat
  warn : Nat
  die : Nat
  region : Nat
deriving DecidableEq, Repr

/-- The value at a time of the least-squares line through samples, as an exact fraction. Samples of one instant give no slope: their
mean stands (log entry 176, DESIGN CHOICE). -/
def lineAt (pts : List (Nat × Nat)) (at_ : Nat) : Option (Int × Nat) :=
  let n := pts.length
  let st := sumN (pts.map Prod.fst)
  let sy := sumN (pts.map Prod.snd)
  let d : Nat := n * sumN (pts.map fun p => p.1 * p.1) - st * st
  let a : Int := (n * sumN (pts.map fun p => p.1 * p.2) : Nat) - (st * sy : Nat)
  if n == 0 then none
  else if d == 0 then some (sy, n)
  else some ((sy * d : Nat) + a * ((n * at_ : Nat) - (st : Int)), n * d)

/-- The newest samples of a die, by its position, taken at an entry: their times and the lows of a region. -/
def Block.trendPoints (b : Block) (pos e r : Nat) : List (Nat × Nat) :=
  ((b.hub.bn.samples.filter fun s => leAt s 4 4 == pos && leAt s 2 1 == e).take (b.rf .dxs Reg.BN_TREND_CFG 15 0)).map fun s =>
    (htOfBytes s 8, leAt s (20 + r) 1)

/-- The time that a projection looks ahead to. -/
def Block.horizon (b : Block) : Nat := b.ht .dxs + b.rf .dxs Reg.BN_TREND_CFG 31 24 * 86400 * 1000000000 * 65536

/-- A die's WARN (R165): the own die's is read, the others' are `warns`, as the binder has read them. -/
def Block.warnOf (b : Block) (warns : List (Nat × Nat)) (rec idx : Nat) : Option Nat :=
  if rec == ownRec then some (b.rf .dxt Reg.DC_MARGIN_CFG 5 0) else (warns.find? fun w => w.1 == idx).map Prod.snd

/-- The projections of a job's dies and regions at the valid entries of its table. -/
def Block.projections (b : Block) (j : Nat) (warns : List (Nat × Nat)) : List Fit :=
  let t := (b.job j).table
  ((List.range 16).filter (tabValid t)).flatMap fun e =>
    ((b.jobDies j).filterMap b.recOf).flatMap fun rec =>
      let d := b.topo.die rec
      match b.warnOf warns rec d.idx with
      | none => []
      | some w => (List.range 64).filterMap fun r =>
        (lineAt (b.trendPoints d.pos e r) b.horizon).map fun m => ⟨e, m.1, m.2, w, d.idx, r⟩

/-- The projection that lies lowest. -/
def lowestFit (fits : List Fit) : Option Fit :=
  fits.foldl (fun a f => match a with
    | none => some f
    | some g => if f.num * g.den < g.num * f.den then some f else a) none

/-- The frequency that a projection leaves an entry: never raised, and not below 400 MHz. -/
def planMhz (mhz : Nat) (f : Fit) : Nat :=
  let short : Int := ((f.warn + 2) * f.den : Nat) - f.num
  if short > 0 then max 400 ((mhz : Int) * ((128 * f.den : Nat) - short) / (128 * f.den : Nat)).toNat else mhz

/-- ceil4(1.02 q mhz / mhz'), clamped; `q` in 2^-16 ns. -/
def planPeriod (q mhz mhz' : Nat) : Nat :=
  if mhz' = 0 then 10000000
  else max 2000 (min 10000000 (ceilMul 4 ((102 * q * mhz + 100 * 65536 * mhz' - 1) / (100 * 65536 * mhz'))))

/-- A table with its frequencies re-planned, each by the lowest projection of its entry. -/
def planTable (t : List Byte) (fits : List Fit) : List Byte :=
  (List.range 16).flatMap fun e =>
    let mhz := tabMhz t e
    let new := match lowestFit (fits.filter fun f => f.entry == e && tabValid t e) with
      | some f => planMhz mhz f
      | none => mhz
    leBytes 2 new ++ slice t (8 * e + 2) 6

/-- The quantile 0.999 of a list: of `n` values the one of rank ceil(0.999 n). -/
def quantile999 (l : List Nat) : Option Nat := (sortNat l)[(999 * l.length + 999) / 1000 - 1]?

/-- The spans from launch to readiness of the last 2^20 folios at the operating point in effect (R329). A change that a GO has carried
and no folio has run at has none. -/
def Job.pointSpans (x : Job) : List Nat :=
  match x.oppFor with
  | some f => if f > x.sn then [] else x.spans
  | none => x.spans

def propBytes (seq job : Nat) (tab per : Bool) (p now : Nat) (t : List Byte) (die region : Nat) (m : Int) (q stamp : Nat) : List Byte :=
  padTo 256 (leBytes 4 seq ++ leBytes 1 job ++ leBytes 1 (b2n tab + 2 * b2n per) ++ leBytes 2 0 ++ leBytes 4 p ++ leBytes 4 now ++
    t ++ leBytes 2 die ++ leBytes 1 region ++ leBytes 1 (m % 256).toNat ++ leBytes 4 q ++ leBytes 8 stamp)

/-- The evaluation at a TREND_INT, from the samples and folios that the root has kept. A ring without room, or a channel that cannot
run, takes no proposal (log entry 20, DESIGN CHOICE); a job without a folio at its operating point keeps its period (log entry 176).
Where no sample stands behind a proposal, the die, region and margin in it are free values. -/
def replanEvaluate (j : Nat) (warns : List (Nat × Nat)) (b : Block) : Block :=
  let x := b.job j
  if !b.actingRoot || !x.loaded then b
  else
    let t := x.table
    let fits := b.projections j warns
    let t' := planTable t fits
    let now := b.rf .dxs Reg.FT_PERIOD 23 0 j
    let q := quantile999 x.pointSpans
    let p : Nat := match q with
      | some q => planPeriod q (tabMhz t x.oppNow) (tabMhz t' x.oppNow)
      | none => now
    let tab := decide (padTo 128 t ≠ t')
    let per := decide (100 * ((p : Int) - now).natAbs > now)
    let r := b.propRing
    if !(tab || per) || r.room 256 < 256 || !b.chanAble .dxs chanTrend then b
    else
      let seq := (b.hub.bn.pseq + 1) % 2 ^ 32
      let (die, region, m) : Nat × Nat × Int := match lowestFit fits with
        | some f => (f.die, f.region, f.num / (f.den : Int))
        | none => (Config.freeValue b.free, Config.freeValue (b.free + 1), Config.freeValue (b.free + 2))
      let bytes := propBytes seq j tab per p now t' die region m (q.getD 0 / 65536) (stamp64 (b.ht .dxs))
      let b := b.useFree 3
      (b.updBn fun n => { n with pseq := seq, props := ⟨seq, j, bytes⟩ :: n.props.filter fun y => y.job != j }).ringPut chanTrend r
        Reg.BN_PROP_HEAD 0 bytes

/-! ### PCOMMIT (R331) -/

def PSt.staging : Nat := 1
def PSt.staged : Nat := 2
def PSt.stale : Nat := 3
def PSt.failed : Nat := 4

def Block.setPstatus (b : Block) (st failed : Nat) : Block :=
  b.hw .dxs Reg.BN_PSTATUS 0 (w32 (min failed 65535 * 65536 + st))

/-- Whether a transaction stages a job's table. -/
def RemTx.stages (t : RemTx) : Bool :=
  match t.for_ with
  | .stage _ => true
  | .none => false
  | .mailbox _ => false
  | .job _ _ => false
  | .verdict _ => false
  | .copy _ => false

/-- Posts the result once no staging write is outstanding. `any` tells that some write failed. -/
def Block.stageEnd (b : Block) : Block :=
  if b.rf .dxs Reg.BN_PSTATUS 2 0 != PSt.staging || (b.hub.bn.rem.any fun t => t.stages) then b
  else
    let f := b.hub.bn.failedDies
    if f.isEmpty then b.setPstatus PSt.staged 0 else b.setPstatus PSt.failed (f.filter fun r => r < 2 ^ 32).length

/-- A staging write has ended: a die whose write failed is counted once; the other root's counts as no die. -/
def Block.stageResult (b : Block) (t : RemTx) (ok : Bool) : Block :=
  let key := if t.tkind == 1 then t.target else 2 ^ 32
  let b := if ok then b else b.updBn fun n =>
    { n with failedDies := if n.failedDies.contains key then n.failedDies else key :: n.failedDies }
  b.stageEnd

/-- A completed PCOMMIT pair names a job and a proposal. -/
def donePcommit (b : Block) (v idx : Nat) (w : Word) : Option Block :=
  let b := b.setGuarded .dxs v idx w
  let j := fld w 7 0
  some (match b.hub.bn.props.find? fun p => p.job == j && p.seq % 2 ^ 24 == fld w 31 8 with
    | some p =>
      if !(b.job j).loaded then b.setPstatus PSt.stale 0
      else
        let t := slice p.bytes 16 128
        let b := b.updJob j fun x => { x with table := t }
        let b := (b.updBn fun n =>
          { n with failedDies := [], rem := n.rem.map fun r => if r.stages then { r with for_ := .none } else r }).setPstatus PSt.staging 0
        let b := b.stageWrite .dxs (regKey j Reg.FT_PERIOD) (w32 (leAt p.bytes 8 4))
        let b := b.each ((b.jobDies j).filterMap b.recOf) fun b rec => b.stageTable rec t (.stage j)
        let b := if b.faulty ⟨true, b.otherRoot⟩ then b
          else b.remoteIssue 2 2 b.otherRoot Reg.FT_JOBSEL 2 [w32 j, w32 (leAt p.bytes 8 4)] (.stage j)
        b.stageEnd
    | none => b.setPstatus PSt.stale 0)

/-- A write to the PCOMMIT pair. -/
def proposalCommit (off : Nat) (w : Word) (b : Block) : Block :=
  if pairOf .dxs off == some Reg.BN_PCOMMIT && isRoot b.dxs.role then b.guardWrite .dxs off 0 w donePcommit else b

def execReplanEvaluate (dt job : Nat) (warns : List (Nat × Nat)) (_q : Blank) (s : State) : Host.Outcome State Fault Refusal :=
  s.act dt [.regs .dxs, .dma .dxs, .binder, .host, .free] (replanEvaluate job warns)

def execProposalCommit (dt off : Nat) (w : Word) (s : State) : Host.Outcome State Fault Refusal :=
  s.act dt [.regs .dxs, .ports .dxs, .sheets .dxs, .jobs, .binder] (proposalCommit off w)

end Sys2Proof.Machine
end

