-- ==== Sys2Proof/Machine/FolioDie.lean ====
section
/-! DEFINITION. The life of a folio at a DX-T: GO, launch, DONE, commit lists, OPPOINT, reports, KILLs (R16 to R41, R160,
R229 to R231, R249, R256 to R260, R297). -/

namespace Sys2Proof.Machine

/-! ### GO (R20, R21, R94, R160) -/

/-- The APPLY records held for a folio. -/
def Block.applyRecs (b : Block) (folio : Nat) : List HeldRec :=
  b.dxt.step.recs.filter fun r => r.rtype == 1 && r.folio == folio

/-- The arming margin of a folio in ns (R20). -/
def Block.armingMargin (b : Block) (folio : Nat) : Nat :=
  let n := (b.applyRecs folio).length
  if n == 0 then 40 else 40 + 64 * (n + 2)

/-- Arms the launch of folio `sn` at `go`, after the descriptor check. The margin of a GO that meets the arming margin counts in
ARM_MIN whatever the descriptor check finds, and that of a late GO does not (log entry 148, DESIGN CHOICE). -/
def Block.arm (b : Block) (sn go : Nat) : Block :=
  let m := (go - b.ht .dxt) / 65536
  let b := if m < (b.reg .dxt Reg.STEP_ARM_MIN).toNat then b.hw .dxt Reg.STEP_ARM_MIN 0 (w32 m) else b
  match b.checkDesc sn with
  | .ok =>
    let ends := match b.dxt.die.desc with
      | some bs => (leAt bs 16 4, leAt bs 20 4)
      | none => (0, 0)
    let tag := b.reg .dxt Reg.STEP_TAG
    (((b.updStep fun s => { s with st := .armed, go := go, withheld := false }).updDie fun d => { d with ends := ends }).hwHT .dxt Reg.STEP_GO 0
      go).hw .dxt Reg.STEP_TAG 0 (w32 (sn % 65536 * 65536 + fld tag 15 0))
  | c => b.refuseLaunch c sn

/-- A GO that does not arm: for its number, or, with `late`, for its time, which refuses the next folio for good. -/
def Block.withhold (b : Block) (cause : Nat) (late : Bool) : Block :=
  (b.updStep fun s => { s with withheld := true, refused := s.refused || late }).raiseDxt cause

/-- What a GO of the bound job does. A duplicate is discarded as such also while HT_VALID = 0 (log entry 149, DEDUCED). -/
def Block.takeGo (b : Block) (m : Mark) : Block :=
  let s := b.dxt.step
  let sn := expandTag ((s.next : Int) - 1) m.tag
  let go := expandStamp (b.ht .dxt) m.stamp
  if sn < s.next || (sn == s.next && (s.st == .armed || s.refused)) then b.bump .dxt Reg.STEP_GO_DUP_CNT
  else if !(b.clk .dxt).htValid then b.raiseDxt Cause.timeLost
  else if sn != s.next then b.withhold Cause.goSeq false
  else if go < b.ht .dxt + b.armingMargin s.next * 65536 then
    (b.bump .dxt Reg.STEP_GO_LATE_CNT).withhold Cause.goLate true
  else b.arm s.next go

/-- A received GO: the port's books are audited (R65); a die of another job takes no notice of it. -/
def goReceive (b : Block) : Block :=
  b.withMark .dxt .go fun r b =>
    let b := b.auditCredits .dxt r.port
    if b.bound && bits r.mark.obj.toNat 7 0 == b.dxt.step.job then b.takeGo r.mark else b

/-! ### Seeds and records at a launch (R230, R231, R297) -/

/-- R231, modulo 2^64. -/
def seedOf (jobSeed sn salt s die : Nat) : Nat :=
  let m := 2 ^ 64
  let z := (jobSeed + (sn + 1) * 0x9E3779B97F4A7C15) % m
  let z := z ^^^ (salt * 2 ^ 32 + s * 65536 + die)
  let z := ((z ^^^ (z >>> 30)) * 0xBF58476D1CE4E5B9) % m
  let z := ((z ^^^ (z >>> 27)) * 0x94D049BB133111EB) % m
  z ^^^ (z >>> 31)

/-- The seed of a stream at the launch of a folio: 0 while disabled. -/
def Block.streamSeed (b : Block) (sn s : Nat) : Nat :=
  if bit (b.reg .dxt Reg.FP_STREAMS).toNat s then
    seedOf ((b.reg .dxt Reg.FP_SEED_LO).toNat + (b.reg .dxt Reg.FP_SEED_HI).toNat * 2 ^ 32) sn
      (b.reg .dxt Reg.FP_S_SALT s).toNat s (b.rf .dxt Reg.FP_DIE 15 0)
  else 0

def Block.computeSeeds (b : Block) (sn : Nat) : Block :=
  b.each [0, 1, 2, 3] fun b s =>
    let v := b.streamSeed sn s
    ((b.hw .dxt Reg.FP_S_VAL_LO s (w32 v)).hw .dxt Reg.FP_S_VAL_HI s (w32 (v / 2 ^ 32))).hw .dxt Reg.FP_S_TAG s
      (w32 (sn % 65536))

/-- A SEED record sets its stream's salt and enable. -/
def Block.applySeed (b : Block) (r : HeldRec) : Block :=
  let s := r.rsub % 4
  let en := (b.reg .dxt Reg.FP_STREAMS).toNat
  let en := if bit r.rsub 2 then en &&& (15 ^^^ 2 ^ s) else en ||| 2 ^ s
  (b.hw .dxt Reg.FP_S_SALT s (w32 r.a32)).hw .dxt Reg.FP_STREAMS 0 (w32 en)

/-- A CKPT record latches the epoch, its copy gathering and the folio tag. -/
def Block.latchEpoch (b : Block) (r : HeldRec) : Block :=
  let b := ((b.hw .dxt Reg.DXT_FQ_CK_EPOCH_LO 0 (w32 r.b64)).hw .dxt Reg.DXT_FQ_CK_EPOCH_HI 0 (w32 (r.b64 / 2 ^ 32))).hw .dxt
    Reg.DXT_FQ_CK_TAG 0 (w32 (r.a32 % 65536 * 65536 + r.folio % 65536))
  let b := { b with dxt := { b.dxt with ckSeen := true } }
  let evt := b.reg .dxt Reg.DXT_FQ_CK_EVT
  if wbit evt 31 then b.pulse (fld evt 13 0) else b

/-- The records of a folio that is about to launch: SEED before the tree fires, in list order. -/
def Block.seedRecs (b : Block) (folio : Nat) : Block :=
  let rs := b.dxt.step.recs.filter fun r => r.folio == folio && r.rtype == 2
  (b.each rs fun b r => b.applySeed r).bump .dxt Reg.FP_REC_CNT 0 rs.length

/-- The CKPT records of a folio that launches; every record of the folio is then spent. -/
def Block.ckptRecs (b : Block) (folio : Nat) : Block :=
  let rs := b.dxt.step.recs.filter fun r => r.folio == folio && r.rtype == 3
  let b := (b.each rs fun b r => b.latchEpoch r).bump .dxt Reg.FP_REC_CNT 0 rs.length
  b.updStep fun s => { s with recs := s.recs.filter fun r => folio < r.folio }

/-! ### Launch (R19, R151, R155, R161, R162) -/

/-- Valid words left in the crossings' FIFOs. -/
def Block.residue (b : Block) : Nat :=
  sumN (b.dxt.die.xings.map fun e => (e.2.fifo.filter fun w => w.2.isSome).length)

/-- The FIFOs are emptied; words left in them are counted and raise XING_RESIDUE. -/
def Block.flushXings (b : Block) : Block :=
  let n := b.residue
  let b := b.each (b.dxt.die.xings.map Prod.fst) fun b x =>
    b.updXing x fun c => { c with fifo := [], out := none, occMax := 0 }
  if n > 0 then (b.bump .dxt Reg.DC_RESIDUE_CNT 0 n).raiseDxt Cause.xingResidue else b

/-- The operating point and seam of the folio enter effect. -/
def Block.enterOpp (b : Block) (folio : Nat) : Block :=
  let e := b.oppAt folio
  let b := b.updDie fun d => { d with opp := e, target := e, seam := b.oppSeam e, targetSeam := b.oppSeam e }
  b.updStep fun s => { s with opp := match s.opp with
    | some (j, x) => if j ≤ folio then none else some (j, x)
    | none => none }

/-- The values that an APPLYAT changed for an operating point in use enter effect with the folio, and the die retargets
(R161). -/
def Block.enterOppAtLaunch (b : Block) (folio : Nat) : Block :=
  let l := b.dxt.die.atLaunch
  if l.isEmpty then b.enterOpp folio
  else
    let b := (b.updDie fun d => { d with atLaunch := [] }).each l fun b (k, w) => b.commit .dxt k w
    let b := b.enterOpp folio
    b.retarget b.dxt.die.opp

/-- Every region of the running halves starts at cycle 0; the others keep their state. -/
def Block.startRegions (b : Block) : Block :=
  b.each ((List.range 64).filter fun r => !b.dxt.die.isDisabled r) fun b r =>
    if parks b.dxt.die.seam (halfOf r) then b.updRegion r fun x => { x with started := false }
    else b.updRegion r fun x =>
      { x with cyc := 0, started := true, ended := false, held := 0, waits := [], low := 63 }

/-- The launch tree fires for folio `k`. -/
def Block.fire (b : Block) (k : Nat) : Block :=
  let b := ((b.seedRecs k).computeSeeds k).flushXings
  let b := ((b.enterOppAtLaunch k).clearSlots (k % 2)).startRegions
  let b := b.updStep fun s =>
    { s with st := .running, next := k + 1, withheld := false, holdSeen := false, endptSeen := false, reported := false,
             applyBegun := false, refused := false, doneAt := none }
  let b := (b.bump .dxt Reg.STEP_LAUNCH_CNT).ckptRecs k
  ((b.hw .dxt Reg.STEP_SN_LO 0 (w32 k)).hw .dxt Reg.STEP_SN_HI 0 (w32 (k / 2 ^ 32))).fetchDesc (k + 1)

/-- The launch tree's common vernier for a launch at `go` (R164): with `t` the HT of the last time-clock edge at or before
`go` - 4 ns, the nearest count of 4 ps steps in `go` - 4 ns - `t`. Edges lie one step of the clock apart. -/
def Clock.vernier (c : Clock) (go : Nat) : Nat :=
  let inc : Int := (2 : Int) ^ 48 + c.fw48
  let fire : Int := ((go : Int) - 4 * 65536) * 2 ^ 32
  let gap := (fire - (c.ht : Int)) % inc
  (roundOpen (gap * 250) (2 ^ 48)).toNat

/-- The seam code that the armed folio's descriptor was compiled for. -/
def Block.compiledSeam (b : Block) : Nat :=
  match b.dxt.die.desc with
  | some bs => bits (leAt bs 3 1) 2 0
  | none => 0

/-- HT reaches the armed launch time. A launch whose relock is not complete is refused, and so is one whose seam state an
APPLYAT has changed since arming: no folio runs under a seam it was not compiled for (R160). -/
def launch (b : Block) : Block :=
  let s := b.dxt.step
  let idle (b : Block) := b.updStep fun s => { s with st := .idle }
  if s.st != .armed || b.ht .dxt < s.go then b
  else if b.dxt.die.relockFrom.isSome then (idle b).refuseLaunch .relock s.next
  else if b.compiledSeam != b.oppSeamAt s.next (b.oppAt s.next) then (idle b).refuseLaunch .seam s.next
  else (b.updStep fun x => { x with vernier := (b.clk .dxt).vernier s.go }).fire s.next

/-! ### DONE (R22, R34, R38, R178, R249) -/

/-- Sends DONE with the HT at which its last condition became true, then retargets for a held OPPOINT. -/
def Block.sendDone (b : Block) (t : Nat) : Block :=
  let tag := b.reg .dxt Reg.STEP_TAG
  let b := b.offerBoth (mkMark .done b.dxt.step.job b.curTag t 1)
  let b := ((b.updStep fun s => { s with st := .doneSent, ran := true }).hwHT .dxt Reg.STEP_DONE 0 t).hw .dxt Reg.STEP_TAG 0
    (w32 (fld tag 31 16 * 65536 + b.curTag))
  match b.nextOpp with
  | some e => b.retarget e
  | none => b

def doneSend (b : Block) : Block :=
  let b := b.watchDone
  match b.dxt.step.st, b.dxt.step.doneAt with
  | .ended, some t => b.sendDone t
  | _, _ => b

/-! ### Reports (R249) -/

/-- Report entries of 8 bytes, DIE filled in. -/
def reportEntries (bs : List Byte) (die : Nat) : Nat → List (List Byte)
  | 0 => []
  | n + 1 => (bs.take 4 ++ leBytes 2 die ++ (bs.drop 6).take 2) :: reportEntries (bs.drop 8) die n

/-- Groups of up to 29 entries: at least one group. -/
def groupsFuel : Nat → List (List Byte) → List (List (List Byte))
  | 0, _ => []
  | n + 1, es => if es.length ≤ 29 then [es] else es.take 29 :: groupsFuel n (es.drop 29)

/-- The SESSION_LIST sheets of a report (R249): sub-header LKIND 1, count, entries. -/
def reportSheets (job tag : Nat) (es : List (List Byte)) : List Sheet :=
  let gs := groupsFuel (es.length / 29 + 1) es
  (gs.zip (List.range gs.length)).map fun (g, i) =>
    ⟨tSessionList, 1, i == 0, i + 1 == gs.length, 4 + 8 * g.length, job, tag,
      leBytes 1 1 ++ leBytes 1 0 ++ leBytes 2 g.length ++ g.flatten⟩

def reportSend (b : Block) : Block :=
  let s := b.dxt.step
  if s.st != .ended || s.reported || !b.usesSess || !b.chanAble .dxt 0 then b
  else
    let k := s.next - 1
    let a := (b.reg .dxt Reg.DXT_SS_REPORT_BASE).toNat + k % 2 * 524288
    let cnt := ofLe (b.sramRead a 4)
    let n := min cnt (b.rf .dxt Reg.DXT_SS_REPORT_CFG 15 0)
    let es := reportEntries (b.sramRead (a + 4) (8 * n)) (b.rf .dxt Reg.FP_DIE 15 0) n
    let ss := reportSheets s.job (k % 65536) es
    let b := ((b.queueSheets .dxt 0 ss).queueSheets .dxt 1 ss).bump .dxt Reg.DXT_SS_REPORT_ENT_CNT 0 n
    let b := (b.countXfer .dxt 0 (4 + 8 * n) 0).updStep fun s => { s with reported := true }
    if cnt > n then (b.bump .dxt Reg.DXT_SS_REPORT_LEN_CNT).raiseDxt Cause.reportLen else b

/-! ### The kill mask (R257, R260) -/

/-- Whether version `a` is newer than `c`, modulo 2^30. -/
def newerVersion (a c : Nat) : Bool :=
  let d := (a + 2 ^ 30 - c % 2 ^ 30) % 2 ^ 30
  1 ≤ d && d ≤ 2 ^ 29 - 1

/-- A version: generation and turn. -/
def versionOf (gen turn : Nat) : Nat := gen % 16384 * 65536 + turn % 65536

def killAddr (b : Block) (slot : Nat) : Nat := (b.reg .dxt Reg.DXT_SS_KILL_BASE).toNat + 4 * slot

/-- A kill-mask entry: [31] KILL, [29:0] version. -/
def Block.killEntry (b : Block) (slot : Nat) : Nat := ofLe (b.sramRead (killAddr b slot) 4)

def Block.setKill (b : Block) (slot : Nat) (kill : Bool) (ver : Nat) : Block :=
  (b.sramWrite (killAddr b slot) (leBytes 4 (b2n kill * 2 ^ 31 + ver))).bump .dxt (dmBase .dxt + Reg.DM_KILLW_CNT)

/-- A RUN entry of a commit list. -/
def Block.runEntry (b : Block) (handle turn : Nat) : Block :=
  let slot := handle % 2 ^ 18
  let v := versionOf (handle / 2 ^ 18) turn
  if newerVersion v (b.killEntry slot % 2 ^ 30) then b.setKill slot false v else b

/-- The first copy of a KILL: the entry is written and the event pulsed unless the KILL's version is older. -/
def Block.takeKill (b : Block) (handle turn : Nat) : Block :=
  let slot := handle % 2 ^ 18
  let v := versionOf (handle / 2 ^ 18) turn
  let e := b.killEntry slot % 2 ^ 30
  if e == v || newerVersion v e then
    let b := ((b.setKill slot true v).hw .dxt Reg.DXT_SS_KILL_LAST 0 (w32 handle)).bump .dxt Reg.DXT_SS_KILL_CNT
    let evt := b.reg .dxt Reg.DXT_SS_KILL_EVT
    if wbit evt 31 then b.pulse (fld evt 13 0) else b
  else b.bump .dxt Reg.DXT_SS_KILL_OLD_CNT

/-- A received KILL. What is a second copy is DESIGN CHOICE (log entry 170): the first KILL of the same handle and turn on the
port other than that of one taken before. It has no effect. -/
def killReceive (b : Block) : Block :=
  b.withMark .dxt .kill fun r b =>
    let handle := r.mark.obj.toNat * 65536 + r.mark.arg.toNat
    let turn := r.mark.tag.toNat
    match takeFirst (fun (k : Nat × Nat × Nat) => k.1 != r.port && k.2 == (handle, turn)) b.dxt.kills with
    | some (_, ks) => { b with dxt := { b.dxt with kills := ks } }
    | none => ({ b with dxt := { b.dxt with kills := b.dxt.kills ++ [(r.port, handle, turn)] } } : Block).takeKill handle turn

/-! ### Commit lists (R33, R229, R230, R256, R257) -/

/-- The program record in 16 bytes, its folio expanded. -/
def recordOf (last : Int) (bs : List Byte) : HeldRec × Int :=
  let j := expandTag last (BitVec.ofNat 16 (leAt bs 2 2))
  (⟨leAt bs 0 1, leAt bs 1 1, j.toNat, leAt bs 4 4, leAt bs 8 8⟩, j)

/-- Holds a record of a commit list, or discards it as late. -/
def Block.holdRecord (b : Block) (bs : List Byte) : Block :=
  let s := b.dxt.step
  let (r, j) := recordOf ((s.next : Int) - 1) bs
  if j < s.next || (r.rtype == 1 && j == s.next && s.applyBegun) then
    (b.bump .dxt Reg.FP_REC_LATE_CNT).raiseDxt Cause.recLate
  else b.updStep fun s => { s with recs := s.recs ++ [r] }

/-- Applies a commit list: the stream into its slot, the kill mask, the records. -/
def Block.applyList (b : Block) (bs : List Byte) : Block :=
  let size := b.rf .dxt Reg.DXT_SS_COMMIT_CFG 22 0
  let slot := (b.dxt.step.list + 1) % 2
  let nsess := leAt bs 4 4
  let stored := bs.take size
  let b := (b.sramWrite ((b.reg .dxt Reg.DXT_SS_COMMIT_BASE).toNat + slot * size) stored).countXfer .dxt 0 0 stored.length
  let b := if bs.length > size then (b.bump .dxt Reg.DXT_SS_COMMIT_LEN_CNT).raiseDxt Cause.commitLen else b
  let b := b.bump .dxt Reg.DXT_SS_COMMIT_ENT_CNT 0 nsess
  let b := b.each (List.range nsess) fun b i =>
    let e := slice bs (16 + 16 * i) 16
    if leAt e 4 1 == 1 then b.runEntry (leAt e 0 4) (leAt e 8 2) else b
  let b := b.each (List.range (leAt bs 3 1)) fun b i => b.holdRecord (slice bs (16 + 16 * nsess + 16 * i) 16)
  let b := b.updStep fun s => { s with list := s.list + 1 }
  let evt := b.reg .dxt Reg.DXT_SS_COMMIT_EVT
  if wbit evt 31 then b.pulse (fld evt 13 0) else b

/-- The first intact commit list of the folio that is awaited; other copies are discarded. -/
def commitListReceive (b : Block) : Block :=
  match b.takeMessage .dxt tCommit with
  | none => b
  | some (m, b') =>
    let s := b.dxt.step
    if !b.bound || m.obj != s.job || m.tag != (s.list + 65535) % 65536 then b'
    else if b.chanAble .dxt 0 then b'.applyList m.bytes
    else b

/-! ### OPPOINT (R37, R38, R163) -/

def oppointReceive (b : Block) : Block :=
  b.withMark .dxt .oppoint fun r b =>
    let s := b.dxt.step
    let j := expandTag ((s.next : Int) - 1) r.mark.tag
    let e := bits r.mark.arg.toNat 3 0
    if !b.bound || bits r.mark.obj.toNat 7 0 != s.job || j < s.next || s.opp == some (j.toNat, e) then b
    else
      let b := b.updStep fun s => { s with opp := some (j.toNat, e) }
      if b.oppValid e then b.requestHigher else b.raiseDxt Cause.oppInvalid

/-! ### Binding (R160, R166, R279) -/

/-- Binds the die to a job whose last launched folio is `next` - 1: egress discarded, the descriptor of `next` fetched, the
commit list that travels with GO `list` awaited. -/
def Block.bindStep (b : Block) (job next list : Nat) : Block :=
  let b := b.updStep fun _ => { StepCtx.reset with st := .idle, job := job, next := next, list := list }
  let b := if next == 0 then b else
    (b.hw .dxt Reg.STEP_SN_LO 0 (w32 (next - 1))).hw .dxt Reg.STEP_SN_HI 0 (w32 ((next - 1) / 2 ^ 32))
  let b := b.updDie fun d => { d with descCount := max 1 (b.rf .dxt Reg.DC_DESC_CFG 8 0), atLaunch := [] }
  b.fetchDesc next

/-- Releases the die from its job. -/
def Block.unbindStep (b : Block) : Block := b.updStep fun _ => StepCtx.reset

/-! ### The commands -/

def execGoReceive (dt : Nat) (s : State) : Host.Outcome State Fault Refusal :=
  s.act dt [.regs .dxt, .ports .dxt, .inbox .dxt, .raised .dxt, .step, .die, .lastCause] goReceive

def execLaunch (dt : Nat) (s : State) : Host.Outcome State Fault Refusal :=
  s.act dt [.regs .dxt, .ports .dxt, .dma .dxt, .raised .dxt, .step, .die, .sync, .binds, .syncAudit, .lastCause,
    .ckSeen] launch

def execDoneSend (dt : Nat) (s : State) : Host.Outcome State Fault Refusal :=
  s.act dt [.regs .dxt, .ports .dxt, .step, .die] doneSend

def execCommitListReceive (dt : Nat) (s : State) : Host.Outcome State Fault Refusal :=
  s.act dt [.regs .dxt, .ports .dxt, .sheets .dxt, .dma .dxt, .raised .dxt, .sram .dxt, .step, .sync, .binds,
    .lastCause] fun b => (commitListReceive b).watchDone

def execOppointReceive (dt : Nat) (s : State) : Host.Outcome State Fault Refusal :=
  s.act dt [.regs .dxt, .ports .dxt, .inbox .dxt, .raised .dxt, .step, .die, .lastCause] fun b => (oppointReceive b).watchDone

def execReportSend (dt : Nat) (s : State) : Host.Outcome State Fault Refusal :=
  s.act dt [.regs .dxt, .ports .dxt, .dma .dxt, .raised .dxt, .step, .lastCause] fun b => (reportSend b).watchDone

def execKillReceive (dt : Nat) (s : State) : Host.Outcome State Fault Refusal :=
  s.act dt [.regs .dxt, .ports .dxt, .inbox .dxt, .raised .dxt, .sram .dxt, .sync, .binds, .lastCause,
    .kills] killReceive

end Sys2Proof.Machine
end

