-- ==== Sys2Proof/Machine/Path.lean ====
section
/-! DEFINITION. The log reader of a job that replays, and the commands of the decision path (R31, R184, R232 to R236, R302). -/

namespace Sys2Proof.Machine

/-! ### The reader (R236, R302) -/

/-- Whether varies results come from the log now. -/
def Job.reads (x : Job) : Bool := x.replays && !x.live

/-- The log bytes that the reader has before it. -/
def Block.replayLeft (b : Block) (j : Nat) : Nat :=
  let x := b.job j
  if x.rst.st == .catchup then x.logEnd - x.logBytes else (b.logRing j).used

/-- The reader's offset in the ring. -/
def Block.replayAt (b : Block) (j : Nat) : Nat :=
  let r := b.logRing j
  if (b.job j).rst.st == .catchup then (r.head + r.size - b.replayLeft j % r.size) % r.size else r.tail

/-- The entry before the reader: its 32-byte header and its payload. -/
def Block.nextEntry (b : Block) (j : Nat) : Option (List Byte) :=
  if b.replayLeft j < 32 then none
  else
    let r := b.logRing j
    let h := b.ringRead r (b.replayAt j) 32
    let n := min (leAt h 24 4) (b.replayLeft j - 32)
    some (h ++ b.ringRead r (b.replayAt j + 32) n)

def entryGood (e : List Byte) : Bool :=
  e.length == 32 + leAt e 24 4 && crc32c (e.take 28 ++ e.drop 32) == leAt e 28 4

/-- The reader passes an entry. -/
def Block.passEntry (b : Block) (j : Nat) (e : List Byte) : Block :=
  let b := b.bump .dxs Reg.FS_C_VARIES_CNT j
  if (b.job j).rst.st == .catchup then
    b.updJob j fun x => { x with logBytes := x.logBytes + e.length, logCnt := x.logCnt + 1 }
  else
    let r := b.logRing j
    b.hw .dxs Reg.FS_C_LOG_TAIL j (w32 ((r.tail + e.length) % r.size))

def isGathEntry (e : List Byte) : Bool := leAt e 0 1 == 0x3F

def Job.hasLaunched (x : Job) (sn : Nat) : Bool :=
  match x.launched with
  | some n => sn ≤ n
  | none => false

/-- Acts on a gathering entry whose folio has launched: its outcome is the decision, if none has been made. -/
def Block.actEntry (b : Block) (e : List Byte) : Block :=
  let g := leAt e 14 2
  let sn := leAt e 4 8
  let b := b.updInst g sn fun i => i.openAt sn
  if (b.inst g sn).outcome != 0 then b else b.decideGath g sn (leAt e 12 1 % 16) (htOfBytes e 32)

/-- Acts on the entries that the reader has passed before their folio launched. -/
def Block.actAhead (b : Block) (j : Nat) : Block :=
  let x := b.job j
  let due (e : List Byte) : Bool := x.hasLaunched (leAt e 4 8)
  (b.updJob j fun x => { x with ahead := x.ahead.filter fun e => !due e }).each (x.ahead.filter due) Block.actEntry

/-- The reader passes the gathering entries before it, which take no part in the comparison with the program's (R236): it acts on those
whose folio has launched, and keeps the others for their launch. -/
def Block.passGaths (b : Block) (j : Nat) : Nat → Block
  | 0 => b
  | n + 1 =>
    if !(b.job j).reads then b
    else match b.nextEntry j with
      | none => b
      | some e =>
        if !entryGood e then b.progFault j Pstat.logBad
        else if !isGathEntry e then b
        else if (b.job j).hasLaunched (leAt e 4 8) then ((b.passEntry j e).actEntry e).passGaths j n
        else ((b.passEntry j e).updJob j fun x => { x with ahead := x.ahead ++ [e] }).passGaths j n

def Block.readAhead (b : Block) (j : Nat) : Block := (b.actAhead j).passGaths j (b.replayLeft j / 32 + 1)

/-- The reader has run out (R236): the deferred pause, and live results until the segment ends. -/
def Block.replayEnd (b : Block) (j : Nat) : Block :=
  (b.deferPause j Pstat.replayEnd).updJob j fun x => { x with live := true }

/-! ### Decisions received and acknowledged (R232, R233) -/

/-- A gathering decision at the root that does not act: the instance takes its outcome and COMPLETE goes down the tree. -/
def Block.mirrorGath (b : Block) (sn : Nat) (bs : List Byte) : Block :=
  let g := leAt bs 0 2
  let o := leAt bs 2 1
  let st := htOfBytes bs 4
  ((b.updInst g sn fun i => { i.openAt sn with outcome := o, dstamp := st }).emitComplete g sn o st)

/-- The first DECISION message, if its kind fits. -/
def Block.takeDecision (b : Block) (ack : Bool) : Option (List Byte × Block) :=
  match b.takeMessage .dxs tDecision with
  | some (m, b') => if (leAt m.bytes 0 1 == 2) == ack then some (m.bytes, b') else none
  | none => none

def decisionReceive (b : Block) : Block :=
  match b.takeDecision false with
  | none => b
  | some (bs, b) =>
    let j := leAt bs 1 1
    if !isRoot b.dxs.role || (if leAt bs 0 1 == 0 then b.runsJob j else b.actingRoot) then b
    else
      let sn := sx 64 (leAt bs 4 8)
      let body := bs.drop 16
      let (ok, b) := if leAt bs 0 1 == 0 then b.mirrorFolio j sn body else (true, b.mirrorGath sn.toNat body)
      b.sendDecision 2 j (leAt bs 2 2) sn (leBytes 1 (b2n ok))

def decisionAckReceive (b : Block) : Block :=
  match b.takeDecision true with
  | none => b
  | some (bs, b) =>
    let q := leAt bs 2 2
    let ok := leAt bs 16 1 == 1
    let ns (t : Nat) (b : Block) : Block := b.hwMax .dxs Reg.FS_XACK_MAX 0 (b.now - t)
    match b.hub.jobs.find? fun e => match e.2.dec with
      | some d => d.dseq == some q
      | none => false with
    | some (j, x) =>
      match x.dec with
      | some d => (ns d.sentAt b).emitFolio j (d.verdict.isNone && (ok || !b.isA))
      | none => b
    | none =>
      match b.hub.path.gdecs.find? fun g => g.dseq == some q with
      | some g => (ns g.sentAt b).emitGath g
      | none => b

/-! ### What lets a held decision go -/

/-- HT has reached 400,000 ns before the launch time (R31). -/
def decisionHoldExpire (j : Nat) (b : Block) : Block := b.tryHand j

/-- Software has freed space in the job's log ring (R235). -/
def logSpaceAvailable (j : Nat) (b : Block) : Block := (b.tryHand j).tryGath

/-- Software has freed space in the event ring (R264). -/
def eventSpaceAvailable (j : Nat) (b : Block) : Block := (b.pumpEvents b.hub.ss.evq.length).tryHand j

/-! ### A launch at the roots (R40, R342, R343) -/

/-- Whether a register keeps its applied value for the launch of the named folio. -/
def isFolioTiming (k : Nat) : Bool :=
  let off := k % 2 ^ 21
  off == Reg.FT_PERIOD || off == Reg.FT_LEAD || off == Reg.FT_DELIVERY

/-- 192 ns before the launch, each root commits the configuration it checked; folio timing waits for the launch. -/
def rootApplyatCommit (j : Nat) (b : Block) : Block :=
  let x := b.job j
  match x.applyAt with
  | none => b
  | some (mask, l) =>
    if b.ht .dxs + 192 * 65536 < x.tgo || mask == 0 then b
    else
      let late := l.filter fun e => isFolioTiming e.1
      let b := b.commitAll .dxs true (l.filter fun e => !isFolioTiming e.1)
      b.updJob j fun y => { y with applyAt := if late.isEmpty then none else some (0, late) }

/-- HT passes the launch time of the last GO: the folio runs, and the entries of its gatherings may be acted on. -/
def rootLaunchTime (j : Nat) (b : Block) : Block :=
  let x := b.job j
  if !isRoot b.dxs.role || !x.gone || b.ht .dxs < x.tgo || x.launched == some x.sn then b
  else
    let b := match x.applyAt with
      | some (_, l) => (b.commitAll .dxs true l).updJob j fun y => { y with applyAt := none }
      | none => b
    let b := b.updJob j fun y => { y with launched := some y.sn }
    let b := (b.hw .dxs Reg.FT_SN_LO j (w32 x.sn)).hw .dxs Reg.FT_SN_HI j (w32 (x.sn / 2 ^ 32))
    if b.actingRoot then b.readAhead j else b

/-! ### The commands -/

def execDecisionReceive (dt : Nat) (s : State) : Host.Outcome State Fault Refusal :=
  s.act dt [.regs .dxs, .ports .dxs, .inbox .dxs, .sheets .dxs, .dma .dxs, .raised .dxs, .instances, .dones, .folds,
    .jobs, .sess, .gaAudit, .gaOver, .host] decisionReceive

def execDecisionAckReceive (dt : Nat) (s : State) : Host.Outcome State Fault Refusal :=
  s.act dt [.regs .dxs, .ports .dxs, .inbox .dxs, .sheets .dxs, .dma .dxs, .raised .dxs, .instances, .dones, .folds,
    .jobs, .path, .sess, .gaAudit, .gaOver, .host] decisionAckReceive

def execDecisionHoldExpire (dt job : Nat) (s : State) : Host.Outcome State Fault Refusal :=
  s.act dt [.regs .dxs, .ports .dxs, .inbox .dxs, .dma .dxs, .raised .dxs, .instances, .dones, .folds, .jobs, .path,
    .sess, .gaAudit, .gaOver, .host] (decisionHoldExpire job)

def execLogSpaceAvailable (dt job : Nat) (s : State) : Host.Outcome State Fault Refusal :=
  s.act dt [.regs .dxs, .ports .dxs, .inbox .dxs, .dma .dxs, .raised .dxs, .instances, .dones, .folds, .jobs, .path,
    .sess, .gaAudit, .gaOver, .host] (logSpaceAvailable job)

def execEventSpaceAvailable (dt job : Nat) (s : State) : Host.Outcome State Fault Refusal :=
  s.act dt [.regs .dxs, .ports .dxs, .inbox .dxs, .dma .dxs, .raised .dxs, .instances, .dones, .folds, .jobs, .path,
    .sess, .gaAudit, .gaOver, .host] (eventSpaceAvailable job)

def execRootApplyatCommit (dt job : Nat) (s : State) : Host.Outcome State Fault Refusal :=
  s.act dt [.clk .dxs, .regs .dxs, .ports .dxs, .inbox .dxs, .sheets .dxs, .outs .dxs, .dma .dxs, .eyes .dxs, .raised .dxs,
    .sram .dxs, .root, .folds, .jobs, .host, .free] (rootApplyatCommit job)

def execRootLaunchTime (dt job : Nat) (s : State) : Host.Outcome State Fault Refusal :=
  s.act dt [.clk .dxs, .regs .dxs, .ports .dxs, .inbox .dxs, .sheets .dxs, .outs .dxs, .dma .dxs, .eyes .dxs, .raised .dxs,
    .sram .dxs, .root, .instances, .folds, .jobs, .path, .sess, .host, .free] (rootLaunchTime job)

end Sys2Proof.Machine
end

