-- ==== Sys2Proof/Machine/SessionOps.lean ====
section
/-! DEFINITION. What RETIRE, CHARGE, ADMIT and FORM do to sessions, tenants and tickets (R242, R247, R251 to R255, R262 to
R266). -/

namespace Sys2Proof.Machine

/-! ### Commit-list actions and log items -/

def Act.run : Nat := 0x01
def Act.hold : Nat := 0x02
def Act.trim : Nat := 0x03
def Act.endComplete : Nat := 0x10
def Act.endCancelled : Nat := 0x11
def Act.endDeadline : Nat := 0x12
def Act.park : Nat := 0x20
def Act.fetch : Nat := 0x21
def Act.close : Nat := 0x22
def Act.evict : Nat := 0x23

def Pk.park : Nat := 1
def Pk.close : Nat := 2
def Pk.tenant : Nat := 3
/-- The FETCH mark of a resumed session. -/
def Pk.fetch : Nat := 4

def Item.end_ : Nat := 1
def Item.cancelResult : Nat := 2
def Item.park : Nat := 3
def Item.fetch : Nat := 4
def Item.close : Nat := 5
def Item.tenant : Nat := 6

/-- An item of a RETIRE entry's payload (R266). -/
def itemBytes (handle kind code value : Nat) : List Byte :=
  leBytes 4 handle ++ leBytes 1 kind ++ leBytes 1 code ++ leBytes 2 0 ++ leBytes 8 value

/-! ### Small effects -/

/-- Adds a session entry to the segment's commit list. -/
def Block.addEntry (b : Block) (j : Nat) (e : SessEntry) : Block := b.updJob j fun x => { x with entries := x.entries ++ [e] }

/-- Adds an event to the decision that ends the segment. -/
def Block.addEvent (b : Block) (j : Nat) (e : List Byte) : Block := b.updJob j fun x => { x with events := x.events ++ [e] }

/-- A hall time rounded up to a whole millisecond of continuous count. -/
def ceilMs (t : Nat) : Nat := ceilMul (1000000 * 65536) t

def Block.parkAddr (b : Block) (i : Nat) : Nat :=
  (b.reg .dxs Reg.DXS_SS_PARK_BASE_LO).toNat + (b.reg .dxs Reg.DXS_SS_PARK_BASE_HI).toNat * 2 ^ 32 + 64 * i

/-! ### The timing wheel (R263)

65,536 buckets of 1 ms stand at WHEEL_BASE. The manual gives no layout but that each heads a list linked through LINK: in the model a
bucket and a LINK are a parked index plus 1, and 0 ends a list (log entry 173, DESIGN CHOICE). -/

/-- A millisecond of continuous count in 2^-16 ns. -/
def msUnit : Nat := 1000000 * 65536

def wheelSize : Nat := 65536

/-- The rounds that the wheel still makes before it comes to an expiry. -/
def wheelRounds (expiry now : Nat) : Nat := (expiry / msUnit - now / msUnit - 1) / wheelSize

/-- Where the bucket of an expiry stands in host memory. -/
def Block.wheelAddr (b : Block) (expiry : Nat) : Nat :=
  (b.reg .dxs Reg.DXS_SS_WHEEL_BASE_LO).toNat + (b.reg .dxs Reg.DXS_SS_WHEEL_BASE_HI).toNat * 2 ^ 32 +
    4 * (expiry / msUnit % wheelSize)

/-- Where the LINK of a parked record stands. -/
def Block.linkAddr (b : Block) (i : Nat) : Nat := b.parkAddr i + 60

def Block.hostWord (b : Block) (a : Nat) : Nat := leAt (b.hostRead a 4) 0 4

/-- A parked record goes onto the wheel, at the head of its bucket's list. -/
def Block.wheelAdd (b : Block) (i expiry : Nat) : Block :=
  let a := b.wheelAddr expiry
  let b := b.hostWrite chanParkWr (b.linkAddr i) (leBytes 4 (b.hostWord a))
  (b.hostWrite chanParkWr a (leBytes 4 (i + 1))).updTick i fun t => { t with rounds := wheelRounds expiry (b.ht .dxs) }

/-- The place, in a list, that points at a parked record. -/
def Block.wheelFind (b : Block) (i : Nat) : Nat → Nat → Option Nat
  | 0, _ => none
  | n + 1, a =>
    let w := b.hostWord a
    if w == 0 then none else if w == i + 1 then some a else b.wheelFind i n (b.linkAddr (w - 1))

/-- A parked record leaves the wheel. -/
def Block.wheelDrop (b : Block) (i : Nat) : Block :=
  match b.wheelFind i (b.hub.ss.tickets.length + 1) (b.wheelAddr (b.ticket i).expiry) with
  | some a => b.hostWrite chanParkWr a (leBytes 4 (b.hostWord (b.linkAddr i)))
  | none => b

/-- A parked record is gone: its ticket is free, and the wheel does not hold it. -/
def Block.dropParked (b : Block) (i : Nat) : Block := (b.wheelDrop i).freeTick i

/-- A parked record: the layout of a resident one, with its ticket, STATE 5 and the expiry. -/
def parkedBytes (ticket expiry link : Nat) (s : Session) : List Byte := sessBytes ticket 5 expiry link s

/-- The KILL mark of a cancel (R259). -/
def killMark (k : QKill) : Mark := mkMark .kill (k.handle / 65536) k.turn k.stamp (k.handle % 65536)

/-- Removes a resolved cancel's KILL from the binder's queue (R259). -/
def Block.dropKill (b : Block) (handle turn : Nat) : Block :=
  b.updSs fun u => { u with kills := u.kills.filter fun k => !(k.handle == handle && k.turn == turn),
                            relayed := u.relayed.filter fun k => !(k.handle == handle && k.turn == turn) }

def clampNat (lo hi v : Int) : Nat := (max lo (min hi v)).toNat

/-- A TENANT_SET or removal applied to an existing tenant (R245). -/
def Tenant.set (t : Tenant) (p : Pend) : Tenant :=
  if bit p.flags 1 then Tenant.reset
  else { t with refill := p.refill, cap := p.cap, frozen := bit p.flags 0, bal := clampNat 0 p.cap ((t.bal : Int) + p.add) }

/-- The pending TENANT_SET takes effect. -/
def Block.setTenant (b : Block) (j : Nat) (p : Pend) : Block := b.updTen j p.tenant fun t => t.set p

/-- A PARK takes effect: the record moves to the parked table, the slot becomes free (R262). -/
def Block.parkSession (b : Block) (j handle ticket : Nat) : Block :=
  let slot := slotOf handle
  let s := b.sess slot
  let i := ticket % 2 ^ 22
  let expiry := ceilMs ((b.job j).cut + s.ttl * 1000000 * 65536)
  let b := b.hostWrite chanParkWr (b.parkAddr i) (parkedBytes ticket expiry 0 { s with park := false })
  let b := b.updTick i fun t => { t with gen := ticket / 2 ^ 22, st := 2, expiry := expiry, tenant := s.tenant, job := j }
  let b := b.wheelAdd i expiry
  let b := b.addEntry j ⟨handle, Act.park, 0, s.pgroup, s.turn⟩
  let b := b.addEvent j (eventBytes Ev.parked 0 j ticket (b.job j).sn expiry handle)
  b.freeSess j slot

def Block.closeSession (b : Block) (j handle : Nat) : Block :=
  let s := b.sess (slotOf handle)
  (b.addEntry j ⟨handle, Act.close, 0, s.pgroup, s.turn⟩).freeSess j (slotOf handle)

def Block.fetchSession (b : Block) (j handle ticket : Nat) : Block :=
  let s := b.sess (slotOf handle)
  let b := b.addEntry j ⟨handle, Act.fetch, 0, s.pgroup, s.turn⟩
  let b := b.addEvent j (eventBytes Ev.resumed 0 j handle (b.job j).sn (b.job j).cut ticket)
  b.updSess j (slotOf handle) fun s => { s with fetch := false }

/-- The parked record of a ticket moves into a slot: OPEN, with FETCH pending (R245). -/
def Block.unpark (b : Block) (j slot ticket pgroup : Nat) : Block :=
  let i := ticket % 2 ^ 22
  let s := sessOf (b.hostRead (b.parkAddr i) 64)
  let gen := (b.sess slot).gen
  let b := b.countXfer .dxs chanParkRd 64 0
  let b := b.updSess j slot fun _ =>
    { s with gen := gen, st := Sess.open_, job := j, pgroup := if pgroup == 0xFFFF then s.pgroup else pgroup, cancel := false,
             park := false, close := false, fetch := true, rsv := 0, cstamp := 0 }
  (b.updTen j s.tenant fun t => { t with live := t.live + 1 }).dropParked i

/-! ### Reports (R249, R251) -/

/-- An entry of a report. -/
structure RepEntry where
  handle : Nat
  die : Nat
  tokens : Nat
  fin : Bool
deriving DecidableEq, Repr

def repEntries : List Byte → List RepEntry
  | a :: c :: d :: e :: f :: g :: t :: l :: r =>
    ⟨ofLe [a, c, d, e], ofLe [f, g], t.toNat, bit l.toNat 0⟩ :: repEntries r
  | _ => []

def insertRep (x : RepEntry) : List RepEntry → List RepEntry
  | [] => [x]
  | y :: ys => if x.handle * 65536 + x.die ≤ y.handle * 65536 + y.die then x :: y :: ys else y :: insertRep x ys

/-- Ascending handle, ties by ascending die. -/
def sortReps (l : List RepEntry) : List RepEntry := l.foldr insertRep []

/-- The report that CUTOFF uses: that of the tree whose DONE set completed first. -/
def Block.report (b : Block) (j : Nat) : List RepEntry :=
  let x := b.job j
  sortReps (repEntries ((x.reportOf x.cutB x.sn).getD []))

/-- Whether an entry counts: the first of its handle, of a RUNNING session of the job. -/
def Block.repCounts (b : Block) (j : Nat) (seen : List Nat) (e : RepEntry) : Bool :=
  let s := b.sess (slotOf e.handle)
  !seen.contains e.handle && b.handleOk e.handle && s.st == Sess.running && s.job == j

/-- The entries that count, by slot, with those above a reservation limited to it; ignored and limited ones are counted. -/
def Block.takeReport (b : Block) (j : Nat) : List (Nat × Nat × Bool × Bool) × Block :=
  let step (a : List Nat × List (Nat × Nat × Bool × Bool) × Nat × Nat) (e : RepEntry) :=
    if !b.repCounts j a.1 e then (e.handle :: a.1, a.2.1, a.2.2.1 + 1, a.2.2.2)
    else
      let rsv := (b.sess (slotOf e.handle)).rsv
      let isOver := decide (e.tokens > rsv)
      (e.handle :: a.1, a.2.1 ++ [(slotOf e.handle, min e.tokens rsv, e.fin, isOver)], a.2.2.1, a.2.2.2 + b2n isOver)
  let r := (b.report j).foldl step ([], [], 0, 0)
  (r.2.1, (b.bump .dxs Reg.DXS_SS_REPORT_DUP_CNT 0 r.2.2.1).bump .dxs Reg.DXS_SS_REPORT_OVER_CNT 0 r.2.2.2)

/-! ### Ending a turn (R252) -/

/-- One more CANCEL_RESULT. -/
def Block.cancelResult (b : Block) (j slot code : Nat) : Block × List Byte :=
  let s := b.sess slot
  let h := handleOf slot s
  let b := b.addEvent j (eventBytes Ev.cancelResult code j h (b.job j).sn s.cstamp 0)
  ((b.updSess j slot fun s => { s with cancel := false, cstamp := 0 }).dropKill h s.turn, itemBytes h Item.cancelResult code 0)

/-- The stamp of an END event. -/
def endStamp (x : Job) (s : Session) (code : Nat) : Nat :=
  if code == End.cancelled then s.cstamp else if code == End.deadline then x.sealAt else x.cut

def endAct (code : Nat) : Nat :=
  if code == End.complete then Act.endComplete else if code == End.cancelled then Act.endCancelled else Act.endDeadline

/-- Ends a turn with a code; `kept` tokens of the folio are committed. A QUEUED turn puts no entry in the list. Gives the log
item. -/
def Block.closeTurn (b : Block) (j slot code kept : Nat) : Block × List Byte :=
  let s := b.sess slot
  let x := b.job j
  let h := handleOf slot s
  let out := s.turnOut + kept
  let b := b.updSess j slot fun s => { s with st := Sess.open_, turnOut := out }
  let b := b.on (s.st != Sess.queued) fun b => b.addEntry j ⟨h, endAct code, kept, s.pgroup, s.turn⟩
  let b := b.updJob j fun x => { x with queue := x.queue.filter fun q => q.1 != slot,
                                        kept := if kept == 0 then x.kept else x.kept ++ [(slot, kept)] }
  let b := (b.addEvent j (eventBytes Ev.end_ code j h x.sn (endStamp x s code) out)).bump .dxs Reg.DXS_SS_END_CNT
  (b, itemBytes h Item.end_ code out)

/-- Ends a turn, and answers the cancel that is pending for it. Gives the log items. -/
def Block.endTurn (b : Block) (j slot code kept : Nat) : Block × List Byte :=
  let cancel := (b.sess slot).cancel
  let (b, items) := b.closeTurn j slot code kept
  if cancel then
    let (b, more) := b.cancelResult j slot (if code == End.cancelled then 1 else 2)
    (b, items ++ more)
  else (b, items)

/-- A continuing turn commits its tokens, with a TRIM entry where they were limited. -/
def Block.keepTurn (b : Block) (j slot tokens : Nat) (isOver : Bool) : Block :=
  let s := b.sess slot
  let b := b.updSess j slot fun s => { s with turnOut := s.turnOut + tokens }
  let b := b.updJob j fun x => { x with kept := if tokens == 0 then x.kept else x.kept ++ [(slot, tokens)] }
  b.on isOver fun b => b.addEntry j ⟨handleOf slot s, Act.trim, tokens, s.pgroup, s.turn⟩

/-- The outcome of a RUNNING or THROTTLED turn: an END code and the tokens kept, or none while it continues. -/
def turnOutcome (x : Job) (s : Session) (tokens : Nat) (fin : Bool) : Option (Nat × Nat) :=
  if s.cancel && s.cstamp ≤ x.cut then some (End.cancelled, 0)
  else if (match s.deadline with | some d => decide (d < x.sealAt) | none => false) then some (End.deadline, 0)
  else if fin || s.turnOut + tokens ≥ s.turnMax then some (End.complete, min tokens (s.turnMax - s.turnOut))
  else none

/-- The outcome of a QUEUED turn. -/
def queuedOutcome (x : Job) (s : Session) : Option Nat :=
  if s.cancel && s.cstamp ≤ x.cut then some End.cancelled
  else match s.deadline with
    | some d => if d ≤ x.cut then some End.deadline else none
    | none => none

/-! ### RETIRE -/

/-- What RETIRE gathers: the block, the log payload, the number of turns ended. -/
structure Retired where
  b : Block
  pay : List Byte
  n : Nat

/-- The pending effects stamped at or before the cut-off, TENANT_SETs first. -/
def Job.duePend (x : Job) (tenants : Bool) : List Pend :=
  x.pend.filter fun p => p.stamp ≤ x.cut && (p.kind == Pk.tenant) == tenants

/-- One deferred effect. -/
def Retired.pending (r : Retired) (j : Nat) (p : Pend) : Retired :=
  if p.kind == Pk.tenant then
    let b := r.b.setTenant j p
    { r with b := b, pay := r.pay ++ itemBytes 0 Item.tenant 0 p.tenant ++ tenBytes (b.tenant p.tenant) }
  else if p.kind == Pk.park then
    { r with b := r.b.parkSession j p.handle p.ticket, pay := r.pay ++ itemBytes p.handle Item.park 0 p.ticket }
  else if p.kind == Pk.close then
    { r with b := r.b.closeSession j p.handle, pay := r.pay ++ itemBytes p.handle Item.close 0 0 }
  else { r with b := r.b.fetchSession j p.handle p.ticket, pay := r.pay ++ itemBytes p.handle Item.fetch 0 p.ticket }

/-- One RUNNING or THROTTLED session. -/
def Retired.running (r : Retired) (j : Nat) (rep : List (Nat × Nat × Bool × Bool)) (slot : Nat) : Retired :=
  let (tokens, fin, isOver) := match rep.find? fun e => e.1 == slot with
    | some (_, t, f, o) => (t, f, o)
    | none => (0, false, false)
  match turnOutcome (r.b.job j) (r.b.sess slot) tokens fin with
  | some (code, kept) =>
    let (b, items) := r.b.endTurn j slot code kept
    ⟨b, r.pay ++ items, r.n + 1⟩
  | none => { r with b := r.b.keepTurn j slot tokens isOver }

/-- One QUEUED session. -/
def Retired.queued (r : Retired) (j slot : Nat) : Retired :=
  match queuedOutcome (r.b.job j) (r.b.sess slot) with
  | some code =>
    let (b, items) := r.b.endTurn j slot code 0
    ⟨b, r.pay ++ items, r.n + 1⟩
  | none => r

def Block.slotsIn (b : Block) (j : Nat) (p : Session → Bool) : List Nat := (b.jobSlots j).filter fun i => p (b.sess i)

def onTurn (s : Session) : Bool := s.st == Sess.running || s.st == Sess.throttled

/-- RETIRE, computed live: the number of turns ended and the log payload. -/
def Block.retireLive (b : Block) (j : Nat) : Retired :=
  let x := b.job j
  let r : Retired := ⟨b, [], 0⟩
  let r := (x.duePend true).foldl (fun r p => r.pending j p) r
  let r := (x.duePend false).foldl (fun r p => r.pending j p) r
  let r := { r with b := r.b.updJob j fun x => { x with pend := x.pend.filter fun p => !(p.stamp ≤ x.cut) } }
  let (rep, b) := r.b.takeReport j
  let r := { r with b := b }
  let r := (r.b.slotsIn j onTurn).foldl (fun r i => r.running j rep i) r
  (r.b.slotsIn j fun s => s.st == Sess.queued).foldl (fun r i => r.queued j i) r

/-! ### RETIRE replayed (R236, R266) -/

/-- A cancel that the log tells of and no command of this run has made: its stamp is not in the log, so it is a free value (log entry
177). -/
def Block.loggedCancel (b : Block) (j slot : Nat) : Block :=
  if (b.sess slot).cancel then b
  else (b.updSess j slot fun s => { s with cancel := true, cstamp := Config.freeValue b.free % 2 ^ 112 }).useFree

/-- The effect of one logged item; gives the bytes that follow it. -/
def Block.replayItem (b : Block) (j : Nat) (bs : List Byte) : Block × List Byte :=
  let h := leAt bs 0 4
  let kind := leAt bs 4 1
  let code := leAt bs 5 1
  let v := leAt bs 8 8
  let rest := bs.drop 16
  let slot := slotOf h
  let unpend (b : Block) : Block := b.updJob j fun x => { x with pend := x.pend.filter fun p => !(p.handle == h && p.kind != Pk.tenant) }
  if kind == Item.end_ then
    let b := b.on (code == End.cancelled) fun b => b.loggedCancel j slot
    ((b.closeTurn j slot code (v - (b.sess slot).turnOut)).1, rest)
  else if kind == Item.cancelResult then (((b.loggedCancel j slot).cancelResult j slot code).1, rest)
  else if kind == Item.park then (unpend (b.parkSession j h v), rest)
  else if kind == Item.fetch then
    let b := if b.handleOk h then b
      else (b.updSess j slot fun s => { s with gen := h / 2 ^ 18 }).unpark j slot v 0xFFFF
    (unpend (b.fetchSession j h v), rest)
  else if kind == Item.close then (unpend (b.closeSession j h), rest)
  else
    ((b.updTen j v fun _ => tenOf (rest.take 32)).updJob j fun x =>
      { x with pend := x.pend.filter fun p => !(p.tenant == v && p.kind == Pk.tenant) }, rest.drop 32)

def Block.replayItems (b : Block) (j : Nat) : Nat → List Byte → Block
  | 0, _ => b
  | n + 1, bs =>
    if bs.length < 16 then b
    else
      let (b, r) := b.replayItem j bs
      b.replayItems j n r

/-- RETIRE from the log: the items, and the reported output of the turns that go on. -/
def Block.retireReplay (b : Block) (j : Nat) (pay : List Byte) : Block :=
  let (rep, b) := b.takeReport j
  let b := b.replayItems j (pay.length / 16) pay
  b.each rep fun b e => if onTurn (b.sess e.1) then b.keepTurn j e.1 e.2.1 e.2.2.2 else b

/-! ### CHARGE (R253) -/

/-- Settles one session with a reservation; gives the tokens charged. -/
def Block.settle (b : Block) (j slot : Nat) : Block × Nat :=
  let s := b.sess slot
  let c := match (b.job j).kept.find? fun e => e.1 == slot with
    | some (_, n) => n
    | none => 0
  let b := b.updTen j s.tenant fun t => { t with bal := t.bal - min c t.bal, rsv := t.rsv - s.rsv }
  (b.updSess j slot fun s => { s with charged := (s.charged + c) % 2 ^ 64, rsv := 0 }, c)

def Tenant.refilled (t : Tenant) : Tenant := { t with bal := min (t.bal + t.refill) t.cap }

/-- Renews one RUNNING or THROTTLED session's reservation, with a RUN or HOLD entry where its state changes. -/
def Block.renew (b : Block) (j slot : Nat) : Block :=
  let s := b.sess slot
  let t := b.tenant s.tenant
  let h := handleOf slot s
  if !t.frozen && t.rsv + s.maxtok ≤ t.bal then
    let b := b.updTen j s.tenant fun t => { t with rsv := t.rsv + s.maxtok }
    let b := b.updSess j slot fun s => { s with rsv := s.maxtok, st := Sess.running }
    b.on (s.st == Sess.throttled) fun b => b.addEntry j ⟨h, Act.run, s.maxtok, s.pgroup, s.turn⟩
  else
    let b := b.updSess j slot fun s => { s with st := Sess.throttled }
    b.on (s.st == Sess.running) fun b => b.addEntry j ⟨h, Act.hold, 0, s.pgroup, s.turn⟩

/-- CHARGE: the tokens charged. -/
def Block.charge (b : Block) (j : Nat) : Nat × Block :=
  let (b, n) := (b.slotsIn j fun s => s.rsv != 0).foldl (fun (a : Block × Nat) i =>
    let (b, c) := a.1.settle j i
    (b, a.2 + c)) (b, 0)
  let b := b.each (b.jobTenants j) fun b t => b.updTen j t Tenant.refilled
  (n, b.each (b.slotsIn j onTurn) fun b i => b.renew j i)

/-! ### ADMIT (R247, R254) -/

/-- A request's session becomes RUNNING with its reservation and a RUN entry. -/
def Block.admitSlot (b : Block) (j slot : Nat) : Block :=
  let s := b.sess slot
  let b := b.updTen j s.tenant fun t => { t with rsv := t.rsv + s.maxtok }
  let b := b.updSess j slot fun s => { s with st := Sess.running, rsv := s.maxtok }
  let b := b.updJob j fun x => { x with queue := x.queue.filter fun q => q.1 != slot }
  (b.addEntry j ⟨handleOf slot s, Act.run, s.maxtok, s.pgroup, s.turn⟩).bump .dxs Reg.DXS_SS_ADMIT_CNT

def Block.mayAdmit (b : Block) (slot : Nat) : Bool :=
  let s := b.sess slot
  let t := b.tenant s.tenant
  !s.cancel && !t.frozen && decide (t.rsv + s.maxtok ≤ t.bal)

/-- ADMIT, computed live over the requests stamped at or before `cut`: those admitted and their records. -/
def Block.admitLive (b : Block) (j imm cut : Nat) : Retired :=
  ((b.job j).queue.filter fun q => q.2 ≤ cut).foldl (fun (r : Retired) q =>
    if (imm != 0 && r.n ≥ imm) || !r.b.mayAdmit q.1 then r
    else
      let b := r.b.admitSlot j q.1
      ⟨b, r.pay ++ b.sessRec q.1, r.n + 1⟩) ⟨b, [], 0⟩

/-- A logged admission: the record goes back into its slot. -/
def Block.admitReplay (b : Block) (j : Nat) (bs : List Byte) : Block :=
  let s := sessOf bs
  let slot := slotOf (leAt bs 0 4)
  let old := b.sess slot
  let fresh := old.st == Sess.free
  let b := b.updSess j slot fun _ => { s with st := Sess.queued, rsv := old.rsv }
  let b := b.on fresh fun b => b.updTen j s.tenant fun t => { t with live := t.live + 1 }
  b.admitSlot j slot

def Block.admitReplays (b : Block) (j : Nat) (pay : List Byte) : Block :=
  b.each (chop 64 (pay.length / 64) pay) fun b r => b.admitReplay j r

/-! ### FORM (R255) -/

def entryKey (e : SessEntry) : Nat := e.act * 2 ^ 32 + e.handle

def insertSessEntry (e : SessEntry) : List SessEntry → List SessEntry
  | [] => [e]
  | f :: fs => if entryKey e ≤ entryKey f then e :: f :: fs else f :: insertSessEntry e fs

def sortEntries (l : List SessEntry) : List SessEntry := l.foldr insertSessEntry []

/-- An EVICT entry from a queued eviction: ticket * 65,536 + placement group. -/
def evictEntry (e : Nat) : SessEntry := ⟨e / 65536, Act.evict, 0, e % 65536, 0⟩

/-- FORM: the segment's entries with the evictions due, in order of (ACT, HANDLE); a replay sends no EVICT entry (R282). -/
def Job.formList (x : Job) : Job :=
  let ev := if x.replays then [] else x.evicts
  { x with entries := sortEntries (x.entries ++ ev.map evictEntry), evicts := if x.replays then x.evicts else [], formed := true }

def Block.form (b : Block) (j : Nat) : Block := b.updJob j Job.formList

/-- The ending instruction forms the list where FORM has not. -/
def Block.formFirst (b : Block) (j : Nat) : Block := b.on ((b.job j).sess && !(b.job j).formed) fun b => b.form j

end Sys2Proof.Machine
end

