-- ==== Sys2Proof/Machine/Pages.lean ====
section
/-! DEFINITION. Mailbox pages: their fields, results, ownership, and what a control command or a session record meets before
its own effect (R243, R244, R246, R309 to R314, R393). -/

namespace Sys2Proof.Machine

/-! ### Pages (R310) -/

/-- The bytes of a page. -/
def pageSize : Nat := 4096

def nMbox : Nat := 16

def Block.page (b : Block) (mb i n : Nat) : List Byte := memReadN b.hub.mbox (mb * pageSize + i) n

def Block.pageAt (b : Block) (mb i n : Nat) : Nat := ofLe (b.page mb i n)

def Block.setPage (b : Block) (mb i : Nat) (bs : List Byte) : Block :=
  b.updHub fun h => { h with mbox := memWriteN h.mbox (mb * pageSize + i) bs }

def Own.host : Nat := 0
def Own.posted : Nat := 1
def Own.taken : Nat := 2
def Own.done : Nat := 3

def Block.own (b : Block) (mb : Nat) : Nat := b.pageAt mb 0 4 % 4

def Block.setOwn (b : Block) (mb o : Nat) : Block := b.setPage mb 0 (leBytes 4 o)

/-- The status codes of R314. -/
def Cs.ok : Nat := 0x00
def Cs.badCmd : Nat := 0x01
def Cs.badPage : Nat := 0x02
def Cs.notActing : Nat := 0x03
def Cs.busy : Nat := 0x04
def Cs.hostErr : Nat := 0x05
def Cs.paramRange : Nat := 0x06
def Cs.jobState : Nat := 0x07
def Cs.jobBusy : Nat := 0x08
def Cs.progBad : Nat := 0x09
def Cs.progSpace : Nat := 0x0A
def Cs.leadShort : Nat := 0x0B
def Cs.seqBudget : Nat := 0x0C
def Cs.gathActive : Nat := 0x0D
def Cs.idRange : Nat := 0x0E
def Cs.idBusy : Nat := 0x0F
def Cs.notMember : Nat := 0x10
def Cs.descBusy : Nat := 0x11
def Cs.fmtBad : Nat := 0x12
def Cs.foldSize : Nat := 0x13
def Cs.foldUndef : Nat := 0x14
def Cs.foldLimit : Nat := 0x15
def Cs.foldSpace : Nat := 0x16
def Cs.egressOpen : Nat := 0x17
def Cs.gathOpen : Nat := 0x18
def Cs.imgBad : Nat := 0x19
def Cs.progMismatch : Nat := 0x1A
def Cs.bindMismatch : Nat := 0x1B
def Cs.geomMismatch : Nat := 0x1C
def Cs.gathRange : Nat := 0x1D
def Cs.slotBusy : Nat := 0x1E
def Cs.tenantBusy : Nat := 0x1F
def Cs.ticketBusy : Nat := 0x20
def Cs.bindBusy : Nat := 0x21
def Cs.notReady : Nat := 0x22
def Cs.fenced : Nat := 0x23
def Cs.handbackRefused : Nat := 0x24
def Cs.topoBad : Nat := 0x25
def Cs.topoMismatch : Nat := 0x26
def Cs.timeout : Nat := 0x27
def Cs.badAddr : Nat := 0x28
def Cs.refused : Nat := 0x29
def Cs.conflict : Nat := 0x2A

/-- A page is answered: its results and status, then OWN = DONE. -/
def Block.answer (b : Block) (mb status : Nat) (results : List (Nat × List Byte) := []) : Block :=
  let b := b.each results fun b r => b.setPage mb r.1 r.2
  (b.setPage mb 10 (leBytes 2 status)).setOwn mb Own.done

/-! ### Commands that wait for what they have begun -/

/-- Whether a waiting command has been accepted: a JOB_PAUSE that has deferred its pause. -/
def acceptedReset (_ : Nat) : Nat := 0

def Block.isAccepted (b : Block) (mb : Nat) : Bool := nget acceptedReset b.hub.bn.accepted mb == 1

def Block.setAccepted (b : Block) (mb v : Nat) : Block :=
  b.updBn fun n => { n with accepted := nset acceptedReset n.accepted mb v }

/-- A command that waited is answered. -/
def Block.answerWait (b : Block) (mb status : Nat) (results : List (Nat × List Byte) := []) : Block :=
  (b.setAccepted mb 0).answer mb status results

/-- A command whose writes at other nodes it has to wait for is answered when the last of them has ended (R170, R322). -/
def Block.answerCopied (b : Block) (mb : Nat) (results : List (Nat × List Byte) := []) : Block :=
  if b.copying mb then b.each results fun b r => b.setPage mb r.1 r.2 else b.answer mb Cs.ok results

/-! ### Control commands (R309, R312, R313) -/

def Cmd.topoLoad : Nat := 0x01
def Cmd.jobLoad : Nat := 0x02
def Cmd.jobStart : Nat := 0x03
def Cmd.jobPause : Nat := 0x04
def Cmd.jobResume : Nat := 0x05
def Cmd.jobUnload : Nat := 0x06
def Cmd.jobSave : Nat := 0x07
def Cmd.jobRestore : Nat := 0x08
def Cmd.jobRestart : Nat := 0x09
def Cmd.restoreDone : Nat := 0x0A
def Cmd.gatherDefine : Nat := 0x0B
def Cmd.foldDefine : Nat := 0x0C
def Cmd.reinstate : Nat := 0x0D
def Cmd.handback : Nat := 0x0E
def Cmd.funcReinit : Nat := 0x0F
def Cmd.remote : Nat := 0x10
def Cmd.ptpConfig : Nat := 0x11
def Cmd.status : Nat := 0x12

/-- A control command's code, while its page is TAKEN. -/
def Block.takenCmd (b : Block) (mb : Nat) : Option Nat :=
  if mb < nMbox && b.own mb == Own.taken && b.pageAt mb 8 1 == 0 then some (b.pageAt mb 16 2) else none

def hallWide (cmd : Nat) : Bool := cmd == Cmd.topoLoad || cmd == Cmd.handback || cmd == Cmd.reinstate

/-- The job that the control command of a page names: in the page, or a GATHER_DEFINE in its definition (R168). -/
def Block.jobNamed (b : Block) (mb : Nat) : Option Nat :=
  let cmd := b.pageAt mb 16 2
  if 0x02 ≤ cmd && cmd ≤ 0x0A then some (b.pageAt mb 18 1) else if cmd == Cmd.gatherDefine then some (b.pageAt mb 67 1) else none

/-- Whether a command is answered BUSY because of one in progress: another of its job, or either is hall-wide. -/
def Block.cmdBusy (b : Block) (mb : Nat) : Bool :=
  let cmd := b.pageAt mb 16 2
  ((List.range nMbox).filter fun m => m != mb).any fun m =>
    match b.takenCmd m with
    | some c => hallWide c || hallWide cmd || ((b.jobNamed mb).isSome && b.jobNamed m == b.jobNamed mb)
    | none => false

/-- A command buffer's bytes. -/
def Block.buf (b : Block) (mb : Nat) : List Byte := b.hostRead (b.pageAt mb 20 8) (b.pageAt mb 28 4)

/-- The address and length of the command buffer. -/
def Block.bufAt (b : Block) (mb : Nat) : Nat × Nat := (b.pageAt mb 20 8, b.pageAt mb 28 4)

/-- Reads the command buffer through the mailbox channel: HOST_ERR where the channel cannot run. PROGRESS shows the bytes processed
(R310). -/
def Block.withBuf (b : Block) (mb : Nat) (f : List Byte → Block → Block) : Block :=
  if !b.chanAble .dxs chanMbox then b.answer mb Cs.hostErr
  else f (b.buf mb) ((b.countXfer .dxs chanMbox (b.pageAt mb 28 4) 0).setPage mb 12 (leBytes 4 (b.pageAt mb 28 4)))

/-- Runs a control command's effect on its mailbox, if its page is TAKEN with that code and does not wait for writes alone. -/
def Block.control (b : Block) (mb cmd : Nat) (f : Block → Block) : Block :=
  if b.takenCmd mb == some cmd && (b.isAccepted mb || !b.copying mb) then f b else b

/-! ### Session pages (R243, R244, R246, R312, R393) -/

def Ss.ok : Nat := 0
def Ss.badCmd : Nat := 1
def Ss.notActing : Nat := 2
def Ss.badHandle : Nat := 3
def Ss.badState : Nat := 4
def Ss.noSlot : Nat := 5
def Ss.noTenant : Nat := 6
def Ss.jobState : Nat := 7
def Ss.replay : Nat := 8
def Ss.alreadyDone : Nat := 9
def Ss.cancelDup : Nat := 10
def Ss.parkFull : Nat := 11
def Ss.expired : Nat := 12
def Ss.paramRange : Nat := 13
def Ss.frozen : Nat := 14

def recSize : Nat := 48

def recAt (i : Nat) : Nat := 64 + recSize * i

def cursorReset (_ : Nat) : Nat := 0

/-- The next record of a TAKEN session page. -/
def Block.cursor (b : Block) (mb : Nat) : Nat := nget cursorReset b.hub.bn.cursor mb

def Block.setCursor (b : Block) (mb i : Nat) : Block := b.updBn fun n => { n with cursor := nset cursorReset n.cursor mb i }

def Block.nrec (b : Block) (mb : Nat) : Nat := b.pageAt mb 9 1

/-- The record that a TAKEN session page comes to next. -/
def Block.nextRec (b : Block) (mb : Nat) : Option (List Byte) :=
  if mb < nMbox && b.own mb == Own.taken && b.pageAt mb 8 1 == 1 && b.cursor mb < b.nrec mb then
    some (b.page mb (recAt (b.cursor mb)) recSize)
  else none

/-- The bits of FLAGS that a command may carry (R244, R393). -/
def flagsOf (cmd : Nat) : Nat := if cmd == 6 then 2 else if cmd == 7 || cmd == 8 then 3 else 0

/-- A record that no command row takes: unknown CMD, or a reserved bit or byte not 0. -/
def recBad (r : List Byte) : Bool :=
  let cmd := leAt r 0 1
  cmd == 0 || cmd > 8 || leAt r 1 1 &&& (255 - flagsOf cmd) != 0 || leAt r 14 2 != 0

/-- Answers a record: its status and results; the cursor moves on. -/
def Block.answerRec (b : Block) (mb status : Nat) (results : List (Nat × List Byte)) : Block :=
  let at_ := recAt (b.cursor mb)
  let b := b.each results fun b r => b.setPage mb (at_ + r.1) r.2
  let b := (b.setPage mb (at_ + 2) (leBytes 2 status)).setCursor mb (b.cursor mb + 1)
  b.bump .dxs (if status == Ss.ok then Reg.DXS_SS_CMD_CNT else Reg.DXS_SS_REFUSED_CNT)

/-- Answers records that are BAD_CMD, and every one at a root that acts no more; then the page, once all its records are answered. -/
def Block.passBad (b : Block) (mb : Nat) : Nat → Block
  | 0 => b
  | n + 1 =>
    match b.nextRec mb with
    | some r =>
      if !b.actingRoot then (b.answerRec mb Ss.notActing []).passBad mb n
      else if recBad r then (b.answerRec mb Ss.badCmd []).passBad mb n
      else b
    | none => b.answer mb Cs.ok

/-- A session page on its being taken (R312): BAD_PAGE (CMD, JOB and FLAGS are its reserved bytes, log entry 27, DEDUCED), NOT_ACTING,
or its records one by one. -/
def Block.openPage (b : Block) (mb : Nat) : Block :=
  let n := b.nrec mb
  if n == 0 || n > 64 || b.pageAt mb 16 4 != 0 then b.answer mb Cs.badPage
  else if !b.actingRoot then
    let b := b.each (List.range n) fun b i => b.setPage mb (recAt i + 2) (leBytes 2 Ss.notActing)
    (b.bump .dxs Reg.DXS_SS_REFUSED_CNT 0 n).answer mb Cs.notActing
  else (b.setCursor mb 0).passBad mb 65

/-- What a session command gives: a refusal, or the job it is about, its results and the block after its immediate effect. -/
abbrev SessResult := Except Nat (Nat × List (Nat × List Byte) × Block)

/-- The time at which a command is accepted. -/
def Block.accepted (b : Block) : Nat := b.ht .dxs

/-- Runs a session command on the next record of a mailbox, if the record names it (`sel` picks by FLAGS). -/
def Block.sessCommand (b : Block) (mb cmd : Nat) (sel : Nat → Bool) (f : List Byte → Block → SessResult) : Block :=
  match b.nextRec mb with
  | none => b
  | some r =>
    if !b.actingRoot then b.passBad mb 65
    else if recBad r || leAt r 0 1 != cmd || !sel (leAt r 1 1) then b
    else
      let res := if wbit (b.reg .dxs Reg.DXS_SS_CTRL) 0 then f r b else .error Ss.jobState
      let b := match res with
        | .error e => b.answerRec mb e []
        | .ok (j, out, b) =>
          b.answerRec mb Ss.ok (out ++ [(36, leBytes 4 (b.job j).sn), (40, leBytes 8 (stamp64 b.accepted))])
      b.passBad mb 65

end Sys2Proof.Machine
end

