-- ==== Sys2Proof/Machine/Gather.lean ====
section
/-! DEFINITION. Arrivals, aggregation and decisions of gatherings, of DONE, and of folds at a DX-S48 (R22, R23, R171, R176,
R179 to R187, R205, R206). -/

namespace Sys2Proof.Machine

/-! ### Marks upward -/

/-- An arrival mark of a stream. -/
def arrivalMark (k : Kind) (obj sn n stamp : Nat) : Mark := mkMark k obj (sn % 65536) stamp n

def Block.offerUp (b : Block) (m : Mark) : Block :=
  match b.upPortOf with
  | some p => b.offer .dxs p m
  | none => b

/-- R180: an arrival added into a queued mark of its stream and instance. -/
def addInto (own : Nat) (m n : Mark) : Mark :=
  { m with arg := m.arg + n.arg,
           stamp := if expandStamp own m.stamp < expandStamp own n.stamp then n.stamp else m.stamp }

def sameStream (m n : Mark) : Bool := m.kind == n.kind && m.obj == n.obj && m.tag == n.tag

/-- Adds a mark into the first of its stream in a queue. -/
def coalesce (own : Nat) (n : Mark) : List QMark → Option (List QMark)
  | [] => none
  | q :: qs =>
    if sameStream q.mark n then some ({ q with mark := addInto own q.mark n } :: qs)
    else (coalesce own n qs).map fun r => q :: r

/-- Offers an increment upward: into the mark of its instance that has not left, else as a new one. -/
def Block.offerCount (b : Block) (m : Mark) : Block :=
  match b.upPortOf with
  | none => b
  | some p =>
    let t := (b.port .dxs p).tx
    match coalesce (b.ht .dxs) m t.q1 with
    | some q => b.updTx .dxs p fun t => { t with q1 := q }
    | none =>
      match coalesce (b.ht .dxs) m t.waiting with
      | some w => b.updTx .dxs p fun t => { t with waiting := w }
      | none => b.offer .dxs p m

/-! ### DONE (R22, R23, R250) -/

/-- Whether a tier node may send its aggregated DONE: the job's reports of the folio have been merged and queued. -/
def Block.reportsSent (b : Block) (j sn : Nat) : Bool := !(b.job j).sess || ((b.job j).reportOf false sn).isSome

/-- A tier node sends its aggregated DONE once every die beneath it has arrived. -/
def Block.tryDone (b : Block) (j sn : Nat) : Block :=
  let i := b.done j sn
  if isRoot b.dxs.role || !i.live || i.sn != sn || i.fwd || i.recv != b.jobUnder j || !b.reportsSent j sn then b
  else
    (b.updDone j sn fun i => { i with fwd := true, sent := i.sent + i.held, held := 0 }).offerUp
      (arrivalMark .done j sn i.recv i.stamp)

/-- Whether a mark at a root comes from tree A: its own DOWN ports at root A, the other root's relay at root B. -/
def Block.fromA (b : Block) (port : Nat) : Bool := (b.portRole port == roleCross) != b.isA

/-- A root adds an arrival to a tree's total. -/
def GInst.record (i : GInst) (treeA : Bool) (n stamp : Nat) : GInst :=
  if treeA then { i with recv := i.recv + n, stamp := max i.stamp stamp, sent := i.sent + n }
  else { i with recvB := i.recvB + n, stampB := max i.stampB stamp, sent := i.sent + n }

/-- The root that does not act passes DONEs on to the acting root; the one that completes the tree only after the report. -/
def Block.relayDone (b : Block) (j : Nat) (m : Mark) (n : Nat) : Block :=
  if b.actingRoot then b
  else if (b.job j).sess && n ≥ (b.jobDies j).length && ((b.job j).reportOf (!b.isA) m.tag.toNat).isNone then
    b.updDone j m.tag.toNat fun i => { i with waiting := i.waiting ++ [(m.arg.toNat, expandStamp (b.ht .dxs) m.stamp)],
                                              sent := i.sent - m.arg.toNat }
  else b.offerCross m

/-- A root notes when a tree's DONE set is complete, and which was first. -/
def Block.noteDone (b : Block) (j sn : Nat) (treeA : Bool) : Block :=
  let i := b.done j sn
  let n := (b.jobDies j).length
  if i.fwd || (if treeA then i.recv else i.recvB) < n then b
  else (b.updDone j sn fun i => { i with fwd := true }).updJob j fun x => { x with cutB := !treeA }

def doneAggregate (b : Block) : Block :=
  b.withMark .dxs .done fun r b =>
    let j := bits r.mark.obj.toNat 7 0
    let n := r.mark.arg.toNat
    let st := expandStamp (b.ht .dxs) r.mark.stamp
    if isRoot b.dxs.role && (b.job j).stopped then b
    else match placeArrival (nget pairReset b.hub.dones j) (expandTag (b.job j).sn r.mark.tag) with
    | .at_ sn =>
      if isRoot b.dxs.role then
        let a := b.fromA r.port
        let b := b.updDone j sn fun i => (i.openAt sn).record a n st
        let i := b.done j sn
        let b := b.noteDone j sn a
        if b.portRole r.port == roleDown then b.relayDone j r.mark (if a then i.recv else i.recvB) else b
      else
        (b.updDone j sn fun i =>
          let i := i.openAt sn
          { i with recv := i.recv + n, held := i.held + n, stamp := max i.stamp st }).tryDone j sn
    | .stale => b
    | .ahead => b

/-! ### Arrivals at a tier node (R176, R179 to R182) -/

/-- A tier node sends its aggregated ARRIVE once every member beneath it has arrived and, for a fold, its data is queued. -/
def Block.tryForward (b : Block) (g sn : Nat) : Block :=
  let i := b.inst g sn
  if isRoot b.dxs.role || !i.live || i.sn != sn || i.fwd || i.outcome != 0 || i.recv != b.gaExpect g || i.recv == 0 then b
  else if b.gaKind g == 4 && !b.foldUpDone g sn then b
  else
    (b.updInst g sn fun i => { i with fwd := true, sent := i.sent + i.held, held := 0 }).offerUp
      (arrivalMark .arrive g sn i.recv i.stamp)

/-- An arrival of the COUNT stream goes upward, on time or late. -/
def Block.streamUp (b : Block) (g sn n st : Nat) (late : Bool) : Block :=
  let b := b.updInst g sn fun i => { i with sent := i.sent + n, late := i.late + (if late then n else 0) }
  b.offerCount (arrivalMark (if late then .arrive else .count) g sn n st)

/-- A TIMED arrival of the COUNT stream: by its deadline, or pending until the GO that fixes it has passed. -/
def Block.timedUp (b : Block) (g sn n st : Nat) : Block :=
  match b.deadlineAt g sn with
  | some d => b.streamUp g sn n st (decide (st > d))
  | none => b.updInst g sn fun i => { i with waiting := i.waiting ++ [(n, st)] }

/-- Whether the first sheet of a port's leaf of an instance has come. -/
def Block.leafHere (b : Block) (g sn p : Nat) : Bool :=
  (b.dxs.node.rxSheets.any fun r => r.port == p && r.sheet.typ == tFoldIn && r.sheet.obj == g && r.sheet.tag == sn % 65536) ||
    b.hub.fd.seen.contains (g, sn, p)

/-- A member's ARRIVE for a fold starts the wait for its leaf (R205). -/
def Block.awaitLeaf (b : Block) (g sn p : Nat) : Block :=
  if b.gaKind g == 4 && (b.entryOf p).kind == 2 && !b.leafHere g sn p then
    b.updInst g sn fun i => { i with leafDue := i.leafDue ++ [(p, b.now, false)] }
  else b

/-- An arrival at a tier node. `arrive` is the kind of the mark. -/
def Block.tierArrival (b : Block) (g sn p n st : Nat) (arrive : Bool) : Block :=
  let b := b.updInst g sn fun i =>
    let i := i.openAt sn
    { i with recv := i.recv + n, stamp := max i.stamp st }
  if (b.inst g sn).outcome != 0 then
    (b.updInst g sn fun i => { i with sent := i.sent + n }).offerUp (arrivalMark (if arrive then .arrive else .count) g sn n st)
  else if b.arriveStream g then
    ((b.updInst g sn fun i => { i with held := i.held + n }).awaitLeaf g sn p).tryForward g sn
  else if b.timedCount g && !arrive then b.timedUp g sn n st
  else b.streamUp g sn n st arrive

/-! ### Arrivals at a root (R183, R185, R186, R206) -/

/-- The required count: K, or 1 for ANY. -/
def Block.gaNeed (b : Block) (g : Nat) : Nat :=
  let kind := if b.gaKind g == 3 then b.gaBase g else b.gaKind g
  if kind == 2 then 1 else b.rf .dxs Reg.GA_K 16 0 g

def GInst.lateOf (i : GInst) (treeA : Bool) : Nat := if treeA then i.late else i.lateB
def GInst.stampOf (i : GInst) (treeA : Bool) : Nat := if treeA then i.stamp else i.stampB

/-- The outcome that a tree's totals have met: the code and its deciding stamp. A fold's readiness is tested at the
decision. -/
def Block.metBy (b : Block) (g sn : Nat) (i : GInst) (treeA : Bool) (markStamp : Nat) : Option (Nat × Nat) :=
  let t := i.total treeA
  let late := i.lateOf treeA
  let n := b.gaN g
  match b.gaKind g with
  | 0 => if t ≥ n then some (outComplete, i.stampOf treeA) else none
  | 4 => none
  | 1 => if t ≥ b.gaNeed g then some (outComplete, i.stampOf treeA) else none
  | 2 => if t ≥ 1 then some (outComplete, markStamp) else none
  | _ =>
    match b.deadlineAt g sn with
    | none => none
    | some d =>
      if b.gaBase g == 0 then
        if late > 0 then some (outExpired, d) else if t ≥ n then some (outComplete, i.stampOf treeA) else none
      else if t - late ≥ b.gaNeed g then some (outComplete, if b.gaBase g == 2 then markStamp else i.stampOf treeA)
      else if late > n - b.gaNeed g then some (outExpired, d)
      else none

/-- Whether arrivals of a gathering come from the log instead (R184, R236). -/
def Block.gathReads (b : Block) (g : Nat) : Bool := varies (b.gaKind g) && (b.job (b.gaJob g)).reads

/-- The first moment at which a condition of R183 holds is kept. -/
def Block.latchMet (b : Block) (g sn : Nat) (treeA : Bool) (markStamp : Nat) : Block :=
  let i := b.inst g sn
  if i.due != 0 || i.outcome != 0 then b
  else match b.metBy g sn i treeA markStamp with
  | some (o, st) => b.updInst g sn fun i => { i with due := o, dstamp := st }
  | none => b

/-- The root that does not act relays an arrival; the one that completes a fold's tree-B total only with its own result. -/
def Block.relayArrival (b : Block) (g sn n st : Nat) (m : Mark) : Block :=
  if b.actingRoot then b
  else if b.gaKind g == 4 && (b.inst g sn).recvB ≥ b.gaN g && !b.resultReady g sn then
    b.updInst g sn fun i => { i with waiting := i.waiting ++ [(n, st)], sent := i.sent - n }
  else b.offerCross m

/-- The acting root raises GATH_OVER where an arrival takes a tree's total above N. -/
def Block.noteOver (b : Block) (g sn : Nat) (treeA : Bool) (n : Nat) : Block :=
  let t := (b.inst g sn).total treeA
  let b := b.overAnew
  if b.actingRoot && t > b.gaN g && t ≤ b.gaN g + n then b.raiseDxs Cause.gathOver noPort (some (b.gaJob g)) else b

/-- An arrival at a root. The stamp of an on-time arrival alone counts for COMPLETE of the COUNT stream. -/
def Block.rootArrival (b : Block) (g sn p n st : Nat) (arrive : Bool) (m : Mark) : Block :=
  let a := b.fromA p
  let b := b.updInst g sn fun i => i.openAt sn
  let late := match b.deadlineAt g sn with
    | some d => b.gaKind g == 3 && (decide (st > d) || (b.timedCount g && arrive))
    | none => false
  let old := b.inst g sn
  let b := b.updInst g sn fun i =>
    let i := i.record a n (if late && b.timedCount g then 0 else st)
    if late then (if a then { i with late := i.late + n } else { i with lateB := i.lateB + n }) else i
  let b := b.noteOver g sn a n
  let b := if b.portRole p == roleDown then b.relayArrival g sn n st m else b
  if old.outcome != 0 then
    let b := b.bump .dxs Reg.GA_LATE_ARR_CNT
    match b.deadlineAt g sn with
    | some d => if old.outcome == outExpired && st ≤ d then b.bump .dxs Reg.GA_SETTLE_VIOL_CNT else b
    | none => b
  else b.latchMet g sn a st

/-! ### ARRIVE and COUNT -/

/-- Whether a tier-1 node finds an arrival of a die in the wrong stream (R176). -/
def Block.wrongStream (b : Block) (g p : Nat) (arrive : Bool) : Bool :=
  (b.entryOf p).kind == 2 && (b.arriveStream g != arrive)

/-- An arrival mark: dropped without a record, stale, too far ahead or in the wrong stream; else counted. -/
def Block.arrival (b : Block) (r : RxMark) (arrive : Bool) : Block :=
  let g := r.mark.obj.toNat
  if !b.gaValid g then b.bump .dxs Reg.GA_NOREC_CNT
  else if b.wrongStream g r.port arrive then
    (b.bump .dxs Reg.GA_KIND_CNT).raiseDxs Cause.gathKind r.port (some (b.gaJob g))
  else if isRoot b.dxs.role && (b.job (b.gaJob g)).stopped then b
  else match placeArrival (nget pairReset b.hub.ga g) (expandTag (b.job (b.gaJob g)).sn r.mark.tag) with
  | .stale => b.bump .dxs Reg.GA_STALE_CNT
  | .ahead => (b.bump .dxs Reg.GA_SEQ_CNT).raiseDxs Cause.gathSeq r.port
  | .at_ sn =>
    let st := expandStamp (b.ht .dxs) r.mark.stamp
    let n := r.mark.arg.toNat
    if isRoot b.dxs.role then b.rootArrival g sn r.port n st arrive r.mark else b.tierArrival g sn r.port n st arrive

def arriveReceive (b : Block) : Block := b.withMark .dxs .arrive fun r b => b.arrival r true

def countReceive (b : Block) : Block := b.withMark .dxs .count fun r b => b.arrival r false

/-! ### COMPLETE passes (R182) -/

/-- A COMPLETE from the UP port: pending arrivals leave in one mark, and the COMPLETE goes on. -/
def completeForward (b : Block) : Block :=
  b.withMark .dxs .complete fun r b =>
    let g := r.mark.obj.toNat
    let sn := (expandTag (b.job (b.gaJob g)).sn r.mark.tag).toNat
    let b := b.updInst g sn fun i => i.openAt sn
    let i := b.inst g sn
    let n := i.held + sumN (i.waiting.map Prod.fst)
    let k := if b.arriveStream g then Kind.arrive else Kind.count
    let m := arrivalMark k g sn n i.stamp
    let b := if n == 0 then b else if b.arriveStream g then b.offerUp m else b.offerCount m
    let b := b.updInst g sn fun i =>
      { i with outcome := bits r.mark.arg.toNat 3 0, dstamp := expandStamp (b.ht .dxs) r.mark.stamp, sent := i.sent + n, held := 0,
               waiting := [] }
    b.offerAll .dxs (b.jobPorts (b.gaJob g)) r.mark

/-! ### Decisions (R183, R184, R298) -/

/-- A fold is decided on a tree's full total, when that tree's result is known to be ready. -/
def Block.foldMet (b : Block) (g sn : Nat) : Option Nat :=
  let i := b.inst g sn
  let n := b.gaN g
  let own := b.isA
  if i.total own ≥ n && b.resultReady g sn then some (i.stampOf own)
  else if b.isA && i.recvB ≥ n then some i.stampB
  else none

/-- An epoch is sealed, if its slot still holds it. -/
def Block.sealSlot (b : Block) (j i epoch : Nat) : Block :=
  match (b.job j).slots[i]? with
  | some c =>
    if c.epoch == epoch && epoch != 0 then
      (b.hw .dxs Reg.DXS_FQ_J_SEALED j (w32 epoch)).updJob j fun x => { x with slots := x.slots.set i { c with sealed := true } }
    else b
  | none => b

/-- R298: a COMPLETE copy gathering seals its epoch, if the epoch's snapshot is still held and fitted. -/
def Block.sealEpoch (b : Block) (g sn : Nat) : Block :=
  let j := b.gaJob g
  let i := (b.job j).slots.findIdx fun c => c.epoch != 0 && c.gid == g && c.folio == sn && c.fits && !c.sealed
  match (b.job j).slots[i]? with
  | none => b
  | some c =>
    (b.appendVerdict Vk.seal none 0 (some j) 0 i 0 c.epoch).actLater (.seal j i c.epoch) fun b => b.sealSlot j i c.epoch

/-- A decision falls due while its job reads the log (R236): the log's outcome comes first; a reader that stands at the log's end has
run out, and the live one is taken. -/
def Block.dueInReplay (b : Block) (g slot o st : Nat) : Block :=
  let j := b.gaJob g
  let b := b.readAhead j
  let i := b.inst g slot
  if i.live && i.outcome == 0 && b.replayLeft j == 0 && (b.job j).hasLaunched i.sn && (b.job j).rst.st != .catchup then
    (b.replayEnd j).decideGath g i.sn o st
  else b

/-- The folio of a slot's instance. -/
def gatherDecide (g slot : Nat) (b : Block) : Block :=
  let i := b.inst g slot
  let sn := i.sn
  if !b.actingRoot || !i.live || i.outcome != 0 || !b.gaValid g || (b.job (b.gaJob g)).stopped then b
  else if b.gathReads g then (if i.due != 0 then b.dueInReplay g slot i.due i.dstamp else b.readAhead (b.gaJob g))
  else
    let met := if b.gaKind g == 4 then (b.foldMet g sn).map fun st => (outComplete, st)
      else if i.due != 0 then some (i.due, i.dstamp) else none
    match met with
    | some (o, st) =>
      let b := b.decideGath g sn o st
      if o == outComplete then b.sealEpoch g sn else b
    | none => b

/-- Records the arrivals of a gathering that were accepted up to a time and that no command has taken. -/
def Block.recordUpTo (b : Block) (g t : Nat) : Block :=
  let own (r : RxMark) : Bool := (r.mark.kind == .arrive || r.mark.kind == .count) && r.mark.obj.toNat == g && r.time ≤ t
  let rs := (b.node .dxs).inbox.filter own
  (b.updNode .dxs fun n => { n with inbox := n.inbox.filter fun r => !own r }).each rs fun b r =>
    b.arrival r (r.mark.kind == .arrive)

/-- HT has passed the deadline and the settle window with the condition unmet (R183): every arrival accepted within the window is
recorded before the test. -/
def settleExpire (g slot : Nat) (b : Block) : Block :=
  let lim := (b.reg .dxs Reg.GA_SETTLE g).toNat * 65536
  let b := match b.deadlineAt g (b.inst g slot).sn with
    | some d => if b.actingRoot && b.ht .dxs > d + lim then b.recordUpTo g (d + lim) else b
    | none => b
  let i := b.inst g slot
  match b.deadlineAt g i.sn with
  | some d =>
    if b.actingRoot && b.gaValid g && b.gaKind g == 3 && i.live && i.outcome == 0 && i.due == 0 && !(b.job (b.gaJob g)).stopped &&
        b.ht .dxs > d + lim then
      if b.gathReads g then b.dueInReplay g slot outExpired d else b.decideGath g i.sn outExpired d
    else b
  | none => b

/-! ### A GO passes a tier node (R65, R171, R181, R187, R214) -/

/-- TIMED arrivals that waited for the GO of their folio. -/
def Block.releaseTimed (b : Block) (j n : Nat) : Block :=
  b.each ((b.liveGaths j).filter b.timedCount) fun b g =>
    let i := b.inst g n
    if !i.live || i.sn != n || i.waiting.isEmpty then b
    else (b.updInst g n fun i => { i with waiting := [] }).each i.waiting fun b w => b.timedUp g n w.1 w.2

def goPass (b : Block) : Block :=
  if isTriad b.dxs.role then b
  else b.withMark .dxs .go fun r b =>
    let j := bits r.mark.obj.toNat 7 0
    let n := (expandTag (if (b.job j).gone then ((b.job j).sn : Int) else -1) r.mark.tag).toNat
    let t := expandStamp (b.ht .dxs) r.mark.stamp
    let ports := b.jobPorts j
    let b := b.offerAll .dxs ports r.mark
    let b := b.updJob j fun x => { x with sn := n, gone := true, tgoPrev := x.tgo, tgo := t }
    (b.goBooks j n (r.port :: ports)).releaseTimed j n

/-! ### Folds (R205, R206, R209) -/

/-- Every FOLD instance whose messages have all been queued upward. -/
def Block.tryFolds (b : Block) : Block :=
  b.each ((b.hub.ga.map Prod.fst).filter fun g => b.gaKind g == 4) fun b g =>
    b.each [0, 1] fun b s => b.tryForward g (b.inst g s).sn

def foldMessageReceive (b : Block) : Block :=
  match b.foldTake with
  | some (_, b) => b.tryFolds
  | none => b

/-- A leaf that has not followed its member's ARRIVE in time: FOLD_MISSING, once. -/
def foldWaitExpire (g slot p : Nat) (b : Block) : Block :=
  let i := b.inst g slot
  let lim := (b.reg .dxs Reg.DXS_FD_WAIT).toNat
  match i.leafDue.find? fun e => e.1 == p && !e.2.2 with
  | some (_, t, _) =>
    if !i.live || b.now < t + lim || b.leafHere g i.sn p then b
    else
      let b := b.updInst g slot fun i => { i with leafDue := i.leafDue.map fun e => if e.1 == p then (p, e.2.1, true) else e }
      (b.bump .dxs Reg.DXS_FD_MISSING_CNT).raiseDxs Cause.foldMissing p
  | none => b

def foldTaskComplete (e : Nat) (b : Block) : Block :=
  match (b.eng e).run with
  | some _ => (b.endTask e).tryFolds
  | none => b

/-- A root's own result is ready: it goes down its tree, and an arrival that waited for it goes to the other root. -/
def foldResultReady (g slot : Nat) (b : Block) : Block :=
  let sn := (b.inst g slot).sn
  let b := b.finishFold g sn
  if b.actingRoot || !b.resultReady g sn then b
  else
    let ws := (b.inst g slot).waiting
    let b := b.updInst g slot fun i => { i with waiting := [], sent := i.sent + sumN (i.waiting.map Prod.fst) }
    b.each ws fun b w => b.offerCross (arrivalMark .arrive g sn w.1 w.2)

/-! ### The commands -/

def execDoneAggregate (dt : Nat) (s : State) : Host.Outcome State Fault Refusal :=
  s.act dt [.regs .dxs, .ports .dxs, .inbox .dxs, .dones, .jobs] doneAggregate

def execArriveReceive (dt : Nat) (s : State) : Host.Outcome State Fault Refusal :=
  s.act dt [.regs .dxs, .ports .dxs, .inbox .dxs, .raised .dxs, .instances, .gaOver] arriveReceive

def execCountReceive (dt : Nat) (s : State) : Host.Outcome State Fault Refusal :=
  s.act dt [.regs .dxs, .ports .dxs, .inbox .dxs, .raised .dxs, .instances, .gaOver] countReceive

def execCompleteForward (dt : Nat) (s : State) : Host.Outcome State Fault Refusal :=
  s.act dt [.regs .dxs, .ports .dxs, .inbox .dxs, .instances] completeForward

def execGatherDecide (dt gid slot : Nat) (s : State) : Host.Outcome State Fault Refusal :=
  s.act dt [.regs .dxs, .ports .dxs, .sheets .dxs, .dma .dxs, .instances, .jobs, .path, .sess, .quorum, .binder,
    .host] (gatherDecide gid slot)

def execSettleExpire (dt gid slot : Nat) (s : State) : Host.Outcome State Fault Refusal :=
  s.act dt [.regs .dxs, .ports .dxs, .inbox .dxs, .raised .dxs, .dma .dxs, .instances, .jobs, .path, .sess, .gaOver,
    .host] (settleExpire gid slot)

def execGoPass (dt : Nat) (s : State) : Host.Outcome State Fault Refusal :=
  s.act dt [.regs .dxs, .ports .dxs, .inbox .dxs, .raised .dxs, .instances, .dones, .folds, .jobs, .gaAudit, .gaOver] goPass

def execFoldMessageReceive (dt : Nat) (s : State) : Host.Outcome State Fault Refusal :=
  s.act dt [.regs .dxs, .ports .dxs, .inbox .dxs, .sheets .dxs, .raised .dxs, .instances, .folds] foldMessageReceive

def execFoldWaitExpire (dt gid slot p : Nat) (s : State) : Host.Outcome State Fault Refusal :=
  s.act dt [.regs .dxs, .ports .dxs, .inbox .dxs, .raised .dxs, .instances] (foldWaitExpire gid slot p)

def execFoldTaskComplete (dt e : Nat) (s : State) : Host.Outcome State Fault Refusal :=
  s.act dt [.regs .dxs, .ports .dxs, .instances, .folds] (foldTaskComplete e)

def execFoldResultReady (dt gid slot : Nat) (s : State) : Host.Outcome State Fault Refusal :=
  s.act dt [.regs .dxs, .ports .dxs, .instances, .folds] (foldResultReady gid slot)

end Sys2Proof.Machine
end

