-- ==== Sys2Proof/Machine/Program.lean ====
section
/-! DEFINITION. The folio sequencer: instruction words, issuing, and the instructions that touch words, flow and time (R217,
R221 to R224, R227, R235, R236, R392). -/

namespace Sys2Proof.Machine

/-! ### Instruction words (R221) -/

def opOf (w : Nat) : Nat := bits w 63 58
def wdOf (w : Nat) : Nat := bits w 57 54
def waOf (w : Nat) : Nat := bits w 53 50
def wbOf (w : Nat) : Nat := bits w 49 46
def subOf (w : Nat) : Nat := bits w 45 40
def aheadOf (w : Nat) : Nat := bits w 39 32
def immOf (w : Nat) : Nat := bits w 31 0

def Op.nop : Nat := 0x00
def Op.halt : Nat := 0x01
def Op.branch : Nat := 0x02
def Op.movi : Nat := 0x03
def Op.calc : Nat := 0x04
def Op.get : Nat := 0x05
def Op.stamp : Nat := 0x06
def Op.live : Nat := 0x07
def Op.note : Nat := 0x08
def Op.assert : Nat := 0x09
def Op.waitt : Nat := 0x0A
def Op.waitg : Nat := 0x0B
def Op.testg : Nat := 0x0C
def Op.cutoff : Nat := 0x10
def Op.retire : Nat := 0x11
def Op.charge : Nat := 0x12
def Op.admitOp : Nat := 0x13
def Op.form : Nat := 0x14
def Op.commit : Nat := 0x15
def Op.pause : Nat := 0x16
def Op.oppoint : Nat := 0x18
def Op.applyat : Nat := 0x19
def Op.seed : Nat := 0x1A
def Op.ckpt : Nat := 0x1B

/-! ### Context words -/

def word64 (v : Int) : Nat := (v % 2 ^ 64).toNat

def Job.word (x : Job) (i : Nat) : Nat := x.words.getD i 0

def Block.setWord (b : Block) (j i v : Nat) : Block := b.updJob j fun x => { x with words := x.words.set i (v % 2 ^ 64) }

def Block.setF (b : Block) (j : Nat) (f : Bool) : Block := b.updJob j fun x => { x with f := f }

/-! ### Issuing (R217, R224, R227) -/

def progZero (_ : Nat) : Nat := 0

/-- The word at a job's program counter. -/
def Block.progWord (b : Block) (j : Nat) : Nat := nget progZero b.hub.prog ((b.job j).base + (b.job j).pc)

def CtxWait.isNone : CtxWait → Bool
  | .none => true
  | .time _ => false
  | .gath _ _ => false
  | .cutoff => false
  | .ending => false

/-- Whether a context could issue if the sequencer served it. -/
def Job.ready (x : Job) : Bool := x.active && x.wait.isNone && x.dec.isNone && !x.stopped

/-- A context that has cut off and could issue: those go first. -/
def Job.first (x : Job) : Bool := x.ready && x.st == .deciding && x.ran.contains Op.cutoff

/-- How far a job lies behind the one that the round-robin comes to next. -/
def Block.turnDist (b : Block) (j : Nat) : Nat := (j + 256 - b.hub.path.turn % 256) % 256

/-- Whether a context has to leave the issue slot to another one. A context that has cut off goes before the others, the earliest
cut-off first, ties to the lower index; the others take turns by job index. -/
def Block.outranked (b : Block) (j : Nat) : Bool :=
  let x := b.job j
  b.hub.jobs.any fun (i, y) =>
    if y.first then i != j && (!x.first || y.cut < x.cut || (y.cut == x.cut && decide (i < j)))
    else y.ready && !x.first && decide (b.turnDist i < b.turnDist j)

/-- One instruction issues in a cycle at most (R217). -/
def Block.canIssue (b : Block) (j : Nat) : Bool :=
  b.runsJob j && (b.job j).ready && !b.outranked j && decide (b.hub.path.issueAt ≤ b.now)

/-- The issue slot of this cycle is taken; after a context that takes its turn the next one's comes. -/
def Block.takeSlot (b : Block) (j : Nat) : Block :=
  b.updPath fun p => { p with issueAt := b.now + 1, turn := if (b.job j).first then p.turn else (j + 1) % 256 }

/-- Counts an issued instruction. -/
def Block.countIssue (b : Block) (j : Nat) : Block :=
  let n := (b.reg .dxs Reg.FS_ISSUE_LO).toNat + (b.reg .dxs Reg.FS_ISSUE_HI).toNat * 2 ^ 32 + 1
  let b := (b.hw .dxs Reg.FS_ISSUE_LO 0 (w32 n)).hw .dxs Reg.FS_ISSUE_HI 0 (w32 (n / 2 ^ 32))
  b.updJob j fun x =>
    if x.prologue then { x with pc := x.pc + 1 }
    else { x with pc := x.pc + 1, seg := x.seg + 1, segMax := max x.segMax (x.seg + 1) }

/-- Issues the instruction at a job's program counter if it has the opcode; `f` gets its word. -/
def Block.issue (b : Block) (j op : Nat) (f : Nat → Block → Block) : Block :=
  let x := b.job j
  if !b.canIssue j then b
  else if x.pc ≥ x.len then b.progFault j Pstat.pcRange
  else
    let w := b.progWord j
    if opOf w != op then b
    else if !x.prologue && x.seg + 1 > x.ipf then b.progFault j Pstat.ipf
    else f w ((b.takeSlot j).countIssue j)

/-! ### Varies results (R235, R236) -/

/-- What a varies instruction computes: the word, F, and its log payload. -/
structure Varied where
  value : Nat
  f : Bool
  pay : List Byte

/-- A varies result computed live, logged in record mode. -/
def Block.variesLive (b : Block) (j op pc wd : Nat) (live : Block → Varied × Block) : Block :=
  let (v, b) := live b
  let b := (b.setWord j wd v.value).setF j v.f
  if (b.job j).logging then
    b.updJob j fun x => { x with logs := x.logs ++ [logEntry op j pc x.sn v.value v.f v.pay] }
  else b

/-- A varies result taken from a matching log entry. -/
def Block.variesLogged (b : Block) (j wd : Nat) (e : List Byte) (replay : List Byte → Block → Block) : Block :=
  let b := replay (e.drop 32) (b.passEntry j e)
  (b.setWord j wd (leAt e 12 8)).setF j (bit (leAt e 20 1) 0)

def entryMatches (e : List Byte) (op pc sn : Nat) : Bool := leAt e 0 1 == op && leAt e 2 2 == pc && leAt e 4 8 == sn

/-- A varies instruction's result: from the log while the job reads it, else live. -/
def Block.varies (b : Block) (j op pc wd : Nat) (live : Block → Varied × Block) (replay : List Byte → Block → Block) : Block :=
  if !(b.job j).reads then b.variesLive j op pc wd live
  else match b.nextEntry j with
    | none => ((if (b.job j).rst.st == .catchup then b.updJob j fun x => { x with live := true } else b.replayEnd j)).variesLive
        j op pc wd live
    | some e =>
      if !entryGood e then b.progFault j Pstat.logBad
      else if !entryMatches e op pc (b.job j).sn then b.progFault j Pstat.diverge
      else b.variesLogged j wd e replay

/-- Issues a varies instruction. While the job reads its log, the reader first passes the gathering entries before it. -/
def Block.issueVaries (b : Block) (j op : Nat) (f : Nat → Nat → Block → Block) : Block :=
  let b := if (b.job j).reads && b.canIssue j then b.readAhead j else b
  let pc := (b.job j).pc
  b.issue j op fun w b => f pc w b

/-! ### Words and flow (R222) -/

/-- A condition of BRANCH and ASSERT. -/
def Job.holds (x : Job) (cond wa : Nat) : Bool :=
  match cond with
  | 0 => true
  | 1 => x.f
  | 2 => !x.f
  | 3 => x.word wa == 0
  | 4 => x.word wa != 0
  | _ => false

/-- CALC: the word, and the new F if the function sets it. -/
def calcOp (sub a c : Nat) : Nat × Option Bool :=
  let flag (f : Bool) : Nat × Option Bool := (b2n f, some f)
  match sub with
  | 0 => ((a + c) % 2 ^ 64, none)
  | 1 => ((a + 2 ^ 64 - c) % 2 ^ 64, none)
  | 2 => (a &&& c, none)
  | 3 => (a ||| c, none)
  | 4 => (a ^^^ c, none)
  | 5 => (a * 2 ^ (c % 64) % 2 ^ 64, none)
  | 6 => (a / 2 ^ (c % 64), none)
  | 7 => (min a c, none)
  | 8 => (max a c, none)
  | 9 => flag (a == c)
  | 10 => flag (decide (a < c))
  | 11 => flag (decide (sx 64 a < sx 64 c))
  | _ => (0, none)

def doMovi (j w : Nat) (b : Block) : Block :=
  if bit (subOf w) 0 then b.setWord j (wdOf w) (immOf w * 2 ^ 32 + (b.job j).word (wdOf w) % 2 ^ 32)
  else b.setWord j (wdOf w) (word64 (sx 32 (immOf w)))

def doCalc (j w : Nat) (b : Block) : Block :=
  let x := b.job j
  let (v, f) := calcOp (subOf w) (x.word (waOf w)) (x.word (wbOf w))
  let b := b.setWord j (wdOf w) v
  match f with
  | some f => b.setF j f
  | none => b

/-- GET's selectors. -/
def Block.getValue (b : Block) (j sub : Nat) : Nat :=
  let x := b.job j
  match sub with
  | 0 => x.sn
  | 1 => j
  | 2 => x.seed
  | 3 => b.rf .dxs Reg.FT_PERIOD 23 0 j
  | 4 => b.rf .dxs Reg.FT_LEAD 15 0 j
  | _ => (b.jobDies j).length

def doBranch (j w : Nat) (b : Block) : Block :=
  if (b.job j).holds (subOf w) (waOf w) then b.updJob j fun x => { x with pc := bits (immOf w) 13 0 } else b

/-- The low 64 bits of the continuous count of a hall time. -/
def count64 (t : Nat) : Nat := htNs t % 2 ^ 64

def Block.stampValue (b : Block) (j sub : Nat) : Nat :=
  let x := b.job j
  count64 (match sub with
    | 0 => b.ht .dxs
    | 1 => x.tgo
    | 2 => x.sealAt
    | _ => x.cut)

/-- LIVE's selectors; every one reads 0 in a job without sessions. -/
def Block.liveValue (b : Block) (j sub : Nat) : Nat :=
  let x := b.job j
  if !x.sess then 0
  else match sub with
    | 0 => (b.jobSlots j).length
    | 1 => x.queue.length
    | _ => (b.hub.ss.tickets.filter fun t => t.2.st == 2 && t.2.job == j).length

/-- The log is not replayed by more than the word and F. -/
def noEffect (_ : List Byte) (b : Block) : Block := b

def doStamp (j pc w : Nat) (b : Block) : Block :=
  b.varies j Op.stamp pc (wdOf w) (fun b => (⟨b.stampValue j (subOf w), (b.job j).f, []⟩, b)) noEffect

def doLive (j pc w : Nat) (b : Block) : Block :=
  b.varies j Op.live pc (wdOf w) (fun b => (⟨b.liveValue j (subOf w), (b.job j).f, []⟩, b)) noEffect

def doNote (j w : Nat) (b : Block) : Block :=
  b.updJob j fun x => { x with notes := x.notes ++ [(x.word (waOf w), bits (immOf w) 15 0)] }

def doAssert (j w : Nat) (b : Block) : Block :=
  if (b.job j).holds (subOf w) (waOf w) then b else b.deferPause j Pstat.assert

/-! ### Waits and gatherings (R222) -/

def doWaitt (j w : Nat) (b : Block) : Block :=
  let n := (b.job j).word (waOf w)
  if count64 (b.ht .dxs) ≥ n then b else b.updJob j fun x => { x with wait := .time n }

def waittRelease (j : Nat) (b : Block) : Block :=
  match (b.job j).wait with
  | .time n => if count64 (b.ht .dxs) ≥ n then b.updJob j fun x => { x with wait := .none } else b
  | _ => b

/-- Whether the job has defined a gathering. -/
def Block.hasGath (b : Block) (j g : Nat) : Bool :=
  match b.gdef g with
  | some d => gdJob d.bytes == j
  | none => false

/-- The outcome code of an instance; 0 while it is not decided. -/
def Block.outcomeAt (b : Block) (g sn : Nat) : Nat :=
  let i := b.inst g sn
  if i.live && i.sn == sn then i.outcome else 0

/-- The folio that SUB[0] of WAITG and TESTG names; the one before folio 0 has no instance. -/
def Job.gathFolio (x : Job) (sub : Nat) : Nat := if !bit sub 0 then x.sn else if x.sn == 0 then 2 ^ 64 - 1 else x.sn - 1

def Block.gathDecided (b : Block) (g sn : Nat) : Bool := b.outcomeAt g sn != 0

def doWaitg (j w : Nat) (b : Block) : Block :=
  let g := bits (immOf w) 15 0
  if !b.hasGath j g then b.progFault j Pstat.gathUndef
  else
    let sn := (b.job j).gathFolio (subOf w)
    if b.gathDecided g sn then b else b.updJob j fun x => { x with wait := .gath g sn }

def waitgRelease (j : Nat) (b : Block) : Block :=
  match (b.job j).wait with
  | .gath g sn => if b.gathDecided g sn then b.updJob j fun x => { x with wait := .none } else b
  | _ => b

def doTestg (j pc w : Nat) (b : Block) : Block :=
  let g := bits (immOf w) 15 0
  if !b.hasGath j g then b.progFault j Pstat.gathUndef
  else b.varies j Op.testg pc (wdOf w) (fun b =>
    let v := b.outcomeAt g ((b.job j).gathFolio (subOf w))
    (⟨v, v == 1, []⟩, b)) noEffect

/-! ### The rows -/

def execNop (dt job : Nat) (s : State) : Host.Outcome State Fault Refusal :=
  s.act dt [.regs .dxs, .dma .dxs, .jobs, .path, .sess, .host] fun b => b.issue job Op.nop fun _ b => b

def execBranch (dt job : Nat) (s : State) : Host.Outcome State Fault Refusal :=
  s.act dt [.regs .dxs, .dma .dxs, .jobs, .path, .sess, .host] fun b => b.issue job Op.branch (doBranch job)

def execMovi (dt job : Nat) (s : State) : Host.Outcome State Fault Refusal :=
  s.act dt [.regs .dxs, .dma .dxs, .jobs, .path, .sess, .host] fun b => b.issue job Op.movi (doMovi job)

def execCalc (dt job : Nat) (s : State) : Host.Outcome State Fault Refusal :=
  s.act dt [.regs .dxs, .dma .dxs, .jobs, .path, .sess, .host] fun b => b.issue job Op.calc (doCalc job)

def execGet (dt job : Nat) (s : State) : Host.Outcome State Fault Refusal :=
  s.act dt [.regs .dxs, .dma .dxs, .jobs, .path, .sess, .host]
    fun b => b.issue job Op.get fun w b => b.setWord job (wdOf w) (b.getValue job (subOf w))

def execStamp (dt job : Nat) (s : State) : Host.Outcome State Fault Refusal :=
  s.act dt [.regs .dxs, .ports .dxs, .dma .dxs, .instances, .jobs, .path, .sess, .host]
    fun b => b.issueVaries job Op.stamp (doStamp job)

def execLive (dt job : Nat) (s : State) : Host.Outcome State Fault Refusal :=
  s.act dt [.regs .dxs, .ports .dxs, .dma .dxs, .instances, .jobs, .path, .sess, .host]
    fun b => b.issueVaries job Op.live (doLive job)

def execNote (dt job : Nat) (s : State) : Host.Outcome State Fault Refusal :=
  s.act dt [.regs .dxs, .dma .dxs, .jobs, .path, .sess, .host] fun b => b.issue job Op.note (doNote job)

def execAssert (dt job : Nat) (s : State) : Host.Outcome State Fault Refusal :=
  s.act dt [.regs .dxs, .dma .dxs, .jobs, .path, .sess, .host] fun b => b.issue job Op.assert (doAssert job)

def execWaitt (dt job : Nat) (s : State) : Host.Outcome State Fault Refusal :=
  s.act dt [.regs .dxs, .dma .dxs, .jobs, .path, .sess, .host] fun b => b.issue job Op.waitt (doWaitt job)

def execWaittRelease (dt job : Nat) (s : State) : Host.Outcome State Fault Refusal :=
  s.act dt [.jobs] (waittRelease job)

def execWaitg (dt job : Nat) (s : State) : Host.Outcome State Fault Refusal :=
  s.act dt [.regs .dxs, .dma .dxs, .jobs, .path, .sess, .host] fun b => b.issue job Op.waitg (doWaitg job)

def execWaitgRelease (dt job : Nat) (s : State) : Host.Outcome State Fault Refusal :=
  s.act dt [.jobs] (waitgRelease job)

def execTestg (dt job : Nat) (s : State) : Host.Outcome State Fault Refusal :=
  s.act dt [.regs .dxs, .ports .dxs, .dma .dxs, .instances, .jobs, .path, .sess, .host]
    fun b => b.issueVaries job Op.testg (doTestg job)

end Sys2Proof.Machine
end

