-- ==== Sys2Proof/Machine/JobOps.lean ====
section
/-! DEFINITION. What the job commands are made of: program images, binding, gathering records, job images loaded, snapshots (R170,
R191, R204, R218 to R221, R238, R265, R276 to R279, R392). -/

namespace Sys2Proof.Machine

/-! ### Program images (R218, R221, R392) -/

/-- The bits of an instruction word that its opcode uses under its SUB, [57:0]; none where the opcode or SUB is unassigned. -/
def usedBits (op sub : Nat) : Option Nat :=
  let wd := 15 * 2 ^ 54
  let wa := 15 * 2 ^ 50
  let wb := 15 * 2 ^ 46
  let subs (n : Nat) := n * 2 ^ 40
  let ahead := 255 * 2 ^ 32
  let imm := 2 ^ 32 - 1
  let upTo (n : Nat) (m : Nat) : Option Nat := if sub ≤ n then some m else none
  let onWord := if sub == 3 || sub == 4 then wa else 0
  if op == Op.nop || op == Op.cutoff || op == Op.form || op == Op.commit || op == Op.pause then some 0
  else if op == Op.halt then some 65535
  else if op == Op.branch then upTo 4 (subs 63 + onWord + 16383)
  else if op == Op.movi then some (wd + subs 1 + imm)
  else if op == Op.calc then upTo 11 (subs 63 + wd + wa + wb)
  else if op == Op.get then upTo 5 (subs 63 + wd)
  else if op == Op.stamp then upTo 3 (subs 63 + wd)
  else if op == Op.live then upTo 2 (subs 63 + wd)
  else if op == Op.note then some (wa + 65535)
  else if op == Op.assert then upTo 4 (subs 63 + onWord + 65535)
  else if op == Op.waitt then some wa
  else if op == Op.waitg then some (subs 1 + 65535)
  else if op == Op.testg then some (wd + subs 1 + 65535)
  else if op == Op.retire || op == Op.charge then some wd
  else if op == Op.admitOp then some (wd + imm)
  else if op == Op.oppoint then some (ahead + 15)
  else if op == Op.applyat then some (ahead + imm)
  else if op == Op.seed then some (ahead + subs 7 + imm)
  else if op == Op.ckpt then some (wd + 65535)
  else none

def wordGood (len w : Nat) : Bool :=
  match usedBits (opOf w) (subOf w) with
  | none => false
  | some m => (w % 2 ^ 58) ||| m == m && (opOf w != Op.branch || decide (bits (immOf w) 13 0 < len))

def progHeader : Nat := 64

def pLen (bs : List Byte) : Nat := leAt bs 4 2
def pPeriod (bs : List Byte) : Nat := leAt bs 12 4
def pLead (bs : List Byte) : Nat := leAt bs 16 4
def pDelivery (bs : List Byte) : Nat := leAt bs 20 4
def pIpf (bs : List Byte) : Nat := leAt bs 8 4

def progWords (bs : List Byte) : List Nat := (List.range (pLen bs)).map fun i => leAt bs (progHeader + 8 * i) 8

/-- Not PROG_BAD. -/
def progGood (bs : List Byte) : Bool :=
  let n := pLen bs
  let fl := leAt bs 3 1
  leAt bs 0 2 == 1 && 1 ≤ n && n ≤ 16384 && bs.length ≥ progHeader + 8 * n && decide (leAt bs 6 2 < n) && fl ≤ 7 &&
    !(bit fl 1 && bit fl 2) && leAt bs 48 1 ≤ 15 && leAt bs 49 8 == 0 && leAt bs 57 3 == 0 &&
    crc32c (bs.take 60 ++ (bs.drop 64).take (8 * n)) == leAt bs 60 4 && (progWords bs).all (wordGood n)

/-- Words of program memory (R217). -/
def progSpace : Nat := 16384

/-- The regions in use, by base. -/
def Block.progRegions (b : Block) : List (Nat × Nat) := sortPairs (b.loadedJobs.map fun j => ((b.job j).base, (b.job j).len))

/-- The lowest free region of `n` words at or above `from_`. -/
def findGap (n : Nat) : Nat → List (Nat × Nat) → Option Nat
  | from_, [] => if from_ + n ≤ progSpace then some from_ else none
  | from_, (a, l) :: r => if from_ + n ≤ a then some from_ else findGap n (max from_ (a + l)) r

def Block.progGap (b : Block) (n : Nat) : Option Nat := findGap n 0 b.progRegions

def stepOf4 (v lo hi : Nat) : Bool := lo ≤ v && v ≤ hi && v % 4 == 0

/-- The first status of R219 that applies, or the base of the region. -/
def Block.checkLoad (b : Block) (j : Nat) (bs : List Byte) : Except Nat Nat :=
  if !progGood bs then .error Cs.progBad
  else if (b.job j).loaded then .error Cs.jobBusy
  else if !(1 ≤ pIpf bs && pIpf bs ≤ 1000000) || !stepOf4 (pPeriod bs) 2000 10000000 || !stepOf4 (pLead bs) 800 50000 then
    .error Cs.paramRange
  else if pLead bs < pDelivery bs + 200 then .error Cs.leadShort
  else match b.progGap (pLen bs) with
    | none => .error Cs.progSpace
    | some base =>
      let per (i : Nat) : Nat := b.rf .dxs Reg.FT_PERIOD 23 0 i
      if budgetFits ((pIpf bs, pPeriod bs) :: b.budgetLoads per) then .ok base else .error Cs.seqBudget

/-- The die's own table, for a job that none has been given yet. -/
def Block.placeProgram (b : Block) (base : Nat) (bs : List Byte) : Block :=
  let ws := progWords bs
  b.updHub fun h => { h with prog := (ws.zip (List.range ws.length)).foldl (fun m (w, i) => nset progZero m (base + i) w) h.prog }

/-- Writes a register that a command of the binder sets: both copies, and the running CRC is stale. -/
def Block.setReg (b : Block) (sd : Side) (off idx : Nat) (w : Word) : Block :=
  (b.commit sd (regKey idx off) w).setStg sd (regKey idx off) w

def Block.setTiming (b : Block) (j per lead del : Nat) : Block :=
  ((b.setReg .dxs Reg.FT_PERIOD j (w32 per)).setReg .dxs Reg.FT_LEAD j (w32 lead)).setReg .dxs Reg.FT_DELIVERY j (w32 del)

/-- A job as its program image gives it; no checkpoint epoch of an earlier load remains. -/
def Block.loadProgram (b : Block) (j base : Nat) (bs : List Byte) : Block :=
  let fl := leAt bs 3 1
  let b := (b.placeProgram base bs).setTiming j (pPeriod bs) (pLead bs) (pDelivery bs)
  let b := ((b.hw .dxs Reg.DXS_FQ_J_SEALED j 0).hw .dxs Reg.DXS_FQ_J_STORED j 0).hw .dxs Reg.DXS_FQ_J_TARGET j 0
  let b := b.hw .dxs Reg.FT_LATE_MAX j 0
  let t := b.optable
  b.updJob j fun _ =>
    { Job.reset with base := base, len := pLen bs, ipf := pIpf bs, sess := bit fl 0, record := bit fl 1, replay := bit fl 2,
                     seed := leAt bs 24 8, progCrc := leAt bs 60 4, pc := leAt bs 6 2, streams := leAt bs 48 1,
                     salts := (List.range 4).map fun i => leAt bs (32 + 4 * i) 4, st := .loaded, table := t }

/-- Loads a program here and mirrors it to the other root (R219); every node learns whether the job has sessions. -/
def Block.loadHere (b : Block) (use : RemUse) (j base : Nat) (bs : List Byte) : Block :=
  ((b.loadProgram j base bs).copyTo use b.mirror Ck.prog (base * 256 + j) bs).copyTo use
    (b.otherNodes.filter fun n => !b.topo.isRootNode n) Ck.sess j (leBytes 1 (b2n (bit (leAt bs 3 1) 0)))

/-! ### Binding (R238, R268, R279) -/

/-- The block's own die is bound to a job by the table. -/
def Block.ownOf (b : Block) (j : Nat) : Bool := decide (0 < b.topo.dies.length) && b.ownDie.ofJob j

def Block.ownReady (b : Block) : Bool := b.dxt.die.bring == .ready

/-- The seed state and the session bit that the binder writes at the block's own die. -/
def Block.writeOwn (b : Block) (idx : Nat) (x : Job) : Block :=
  let b := (b.commit .dxt (regKey 0 Reg.FP_DIE) (w32 idx)).commit .dxt (regKey 0 Reg.FP_SEED_LO) (w32 x.seed)
  let b := (b.commit .dxt (regKey 0 Reg.FP_SEED_HI) (w32 (x.seed / 2 ^ 32))).commit .dxt (regKey 0 Reg.FP_STREAMS) (w32 x.streams)
  let b := b.each (List.range 4) fun b s => b.commit .dxt (regKey s Reg.FP_S_SALT) (w32 (x.salts.getD s 0))
  b.commit .dxt (regKey 0 Reg.DXT_SS_CTRL) (w32 (b2n x.sess))

/-- The same at another die, over REMOTE. -/
def Block.writeFar (b : Block) (d : DieRec) (x : Job) : Block :=
  let b := b.remoteIssue 2 1 d.pos Reg.FP_DIE 4 [w32 d.idx, w32 x.seed, w32 (x.seed / 2 ^ 32), w32 x.streams] .none
  let b := b.each (List.range 4) fun b s => b.remoteIssue 2 1 d.pos Reg.FP_SSEL 2 [w32 s, w32 (x.salts.getD s 0)] .none
  b.remoteIssue 2 1 d.pos Reg.DXT_SS_CTRL 1 [w32 (b2n x.sess)] .none

/-- The operating-point table into the block's own die. -/
def Block.writeTable (b : Block) (t : List Byte) : Block :=
  b.each (List.range 16) fun b e => (b.setReg .dxt Reg.DC_OPP_FREQ e (tabFreq t e)).setReg .dxt Reg.DC_OPP_VREQ e (w32 (tabVreq t e))

/-- The operating point of a binding takes effect: a higher voltage first, then the oscillators; the die relocks (R38, R162).
The seam in effect changes at the launch alone (R158). -/
def Block.bindOpp (b : Block) (e : Nat) : Block :=
  let b := b.updDie fun d => { d with opp := e }
  if b.oppVolt e > b.dxt.die.vcode then
    (b.requestVolt (b.oppVolt e) true).updDie fun d => { d with relockFrom := some b.now, retargetDue := true }
  else b.retarget e

/-- A die of the job has a binding that waits for its relock (R279). -/
def Block.binding (b : Block) (j : Nat) : Bool :=
  b.bound && b.dxt.step.job == j && (b.dxt.die.retargetDue || b.dxt.die.relockFrom.isSome)

/-- Binds every die of a job at JOB_LOAD: folio 0 is the first. -/
def Block.bindFresh (b : Block) (j : Nat) : Block :=
  let x := b.job j
  b.each ((b.jobDies j).filterMap b.recOf) fun b rec =>
    if rec == ownRec then
      ((b.writeOwn (b.topo.die rec).idx x).bindStep j 0 0).updJob j fun y => { y with oppNow := b.dxt.die.opp }
    else b.writeFar (b.topo.die rec) x

/-- Binds every die of a job whose next folio is `next`: the table, the seeds and the operating point as the job has them. -/
def Block.bindAt (b : Block) (j next : Nat) : Block :=
  let x := b.job j
  b.each ((b.jobDies j).filterMap b.recOf) fun b rec =>
    if rec == ownRec then (((b.writeOwn (b.topo.die rec).idx x).writeTable x.table).bindOpp x.oppNow).bindStep j next next
    else ((b.writeFar (b.topo.die rec) x).stageTable rec x.table .none).remoteIssue 2 1 (b.topo.die rec).pos Reg.CM_APPLY 1
      [w32 64] .none

/-! ### Gathering records (R168, R170, R204) -/

/-- The first words of a definition's record: CFG, EXPECT, DEADLINE; at a root N, K and SETTLE follow. -/
def GDef.record (root : Bool) (d : GDef) : List Word :=
  let bs := d.bytes
  let cfg := 2 ^ 31 + gdJob bs * 256 + gdBase bs * 16 + gdKind bs
  let settle := if gdSettle bs == 0 then 1000 else gdSettle bs
  [w32 cfg, w32 d.expect, w32 (gdDeadline bs)] ++ if root then [w32 (gdN bs), w32 (gdK bs), w32 settle] else []

/-- The record of a definition at this node. -/
def Block.writeRecord (b : Block) (g : Nat) (d : GDef) : Block :=
  let ws := d.record true
  b.each (ws.zip [Reg.GA_CFG, Reg.GA_EXPECT, Reg.GA_DEADLINE, Reg.GA_N, Reg.GA_K, Reg.GA_SETTLE]) fun b x => b.setReg .dxs x.2 g x.1

/-- Keeps a definition: the fold blocks reserved for it, and no instance of an older one. -/
def Block.keepDef (b : Block) (g : Nat) (d : GDef) : Block :=
  let b := b.updHub fun h => { h with gdefs := nset gdefReset h.gdefs g (some d), ga := nset pairReset h.ga g GPair.reset }
  let b := b.freeFold g fun _ => true
  match b.foldOp g with
  | some o => b.updHub fun h => { h with gdefs := nset gdefReset h.gdefs g (some { d with blocks := b.reserveOf d o }) }
  | none => b

/-- A definition is gone, with its instances. -/
def Block.loseDef (b : Block) (g : Nat) : Block :=
  (b.freeFold g fun _ => true).updHub fun h =>
    { h with gdefs := nset gdefReset h.gdefs g none, ga := nset pairReset h.ga g GPair.reset }

/-- A definition with its plan as a copy carries it. -/
def GDef.wire (d : GDef) : List Byte :=
  let nats (l : List Nat) : List Byte := leBytes 4 l.length ++ l.flatMap (leBytes 2)
  d.bytes.take 32 ++ nats d.members ++ nats d.dests ++ nats d.ports ++ leBytes 4 d.plan.length ++
    d.plan.flatMap fun e => leBytes 4 e.1 ++ nats e.2

/-- A counted list of 2-byte numbers, and what follows it. -/
def takeNats (bs : List Byte) : List Nat × List Byte :=
  let n := leAt bs 0 4
  ((List.range n).map fun i => leAt bs (4 + 2 * i) 2, bs.drop (4 + 2 * n))

/-- The plan's ports with their ranks. -/
def takePlan : Nat → List Byte → List (Nat × List Nat)
  | 0, _ => []
  | n + 1, bs =>
    let r := takeNats (bs.drop 4)
    (leAt bs 0 4, r.1) :: takePlan n r.2

def gdefOf (bs : List Byte) : GDef :=
  let ms := takeNats (bs.drop 32)
  let ds := takeNats ms.2
  let ps := takeNats ds.2
  ⟨bs.take 32, ms.1, ds.1, 0, takePlan (min (leAt ps.2 0 4) 48) (ps.2.drop 4), ps.1⟩

/-- The other nodes that a definition reaches: those with a member beneath them, and the other root. -/
def Block.reached (b : Block) (d : GDef) : List Nat :=
  b.otherNodes.filter fun n => n == b.otherRoot || !(b.planAt n d).plan.isEmpty

/-- The words of a fold descriptor's registers. -/
def descWords (d : List Byte) : List Word :=
  [w32 (2 ^ 31 + leAt d 3 1 % 4 * 2 ^ 24 + leAt d 4 1 * 65536 + leAt d 2 1 * 256 + leAt d 1 1 * 16 + leAt d 0 1), w32 (leAt d 6 2),
    w32 (leAt d 8 4), w32 (leAt d 12 4)]

/-- Writes at another node a group of registers behind a selector, then applies their page. -/
def Block.writeGroup (b : Block) (use : RemUse) (n sel i : Nat) (ws : List Word) : Block :=
  (b.remoteIssue 2 2 n sel (ws.length + 1) (w32 i :: ws) use).remoteIssue 2 2 n Reg.CM_APPLY 1 [w32 (2 ^ (sel / 4096))] use

/-- Copies a definition to every node that it reaches: its fold descriptor, itself with the node's plan, and the record (R170, R192,
R204). -/
def Block.shareDef (b : Block) (use : RemUse) (g : Nat) (d : GDef) : Block :=
  b.each (b.reached d) fun b n =>
    let x := b.planAt n d
    let i := gdFold d.bytes
    let b := if gdKind d.bytes == 4 then b.writeGroup use n Reg.DXS_FD_DESCSEL i (descWords (b.foldDesc i)) else b
    (b.copyOne use n Ck.gdef g x.wire).writeGroup use n Reg.GA_IDSEL g (x.record (b.topo.isRootNode n))

/-- Stores a definition here and at every node that it reaches. -/
def Block.storeDef (b : Block) (use : RemUse) (g : Nat) (d : GDef) : Block :=
  let d := b.planAt b.dxs.nodeNo d
  ((b.keepDef g d).writeRecord g d).shareDef use g d

/-- A definition is gone, here and at every node that it reached. -/
def Block.dropDef (b : Block) (g : Nat) : Block :=
  let ns := match b.gdef g with
    | some d => b.reached d
    | none => []
  let b := (b.loseDef g).updPath fun p => { p with gdecs := p.gdecs.filter fun d => d.gid != g }
  (b.setReg .dxs Reg.GA_CFG g 0).each ns fun b n =>
    (b.copyOne .none n Ck.gend g []).writeGroup .none n Reg.GA_IDSEL g [0]

/-- The binding has moved: each definition's count and plan are made anew (R204). -/
def Block.replan (b : Block) (use : RemUse) (j : Nat) : Block := b.each (b.jobGaths j) fun b d => b.storeDef use d.1 d.2

/-! ### Fold descriptors (R191, R192, R215) -/

/-- A descriptor of R191 into the descriptor registers. -/
def Block.storeDesc (b : Block) (i : Nat) (d : List Byte) : Block :=
  b.each ((descWords d).zip [Reg.DXS_FD_D_OP, Reg.DXS_FD_D_D, Reg.DXS_FD_D_ROWS, Reg.DXS_FD_D_COLS]) fun b x => b.setReg .dxs x.2 i x.1

/-! ### The end of a job (R265) -/

/-- The tickets that a job's pending PARKs hold. -/
def Job.parkTickets (x : Job) : List Nat := (x.pend.filter fun p => p.kind == Pk.park).map fun p => p.ticket % 2 ^ 22

/-- The sessions, pending effects and ticket reservations of a job go; its tenants stay. -/
def Block.clearSessions (b : Block) (j : Nat) : Block :=
  let b := b.each (b.jobSlots j) fun b i => b.freeSess j i
  let b := b.each (b.jobTenants j) fun b t => b.updTen j t fun x => { x with live := 0, rsv := 0, removing := false }
  (b.each (b.job j).parkTickets fun b i => b.freeTick i).updJob j fun x => { x with queue := [], pend := [] }

/-- Pending changes of a job's tenants take effect: no folio is open any more, and a removal always applies (R245, R247; log entry 175,
DESIGN CHOICE). -/
def Block.settleTenants (b : Block) (j : Nat) : Block :=
  b.each ((b.job j).pend.filter fun p => p.kind == Pk.tenant) fun b p => b.setTenant j p

/-- The context of a job is gone, and its aggregation with it. -/
def Block.dropJob (b : Block) (j : Nat) : Block :=
  b.updHub fun h => { h with jobs := nset jobReset h.jobs j Job.reset, dones := nset pairReset h.dones j GPair.reset }

/-- JOB_UNLOAD: every turn ends, the sessions go, the definitions, the binding and the program memory are free, here and at the
other nodes. -/
def Block.unloadJob (b : Block) (j : Nat) : Block :=
  let b := ((b.releaseJob j).settleTenants j).clearSessions j
  let b := b.each (b.jobGaths j) fun b d => b.dropDef d.1
  let b := (b.copyTo .none b.mirror Ck.jend j []).copyTo .none b.otherNodes Ck.sess j [0]
  (if b.bound && b.dxt.step.job == j then b.unbindStep else b).dropJob j

/-! ### Loading a job image (R276 to R279) -/

def imgSn (img : List Byte) : Int := sx 64 (leAt img 8 8)

/-- The context, timing and id range of an image; `now` is the time its effects are taken as stamped at. -/
def Block.loadContext (b : Block) (j : Nat) (img : List Byte) (ss : List Section) : Block :=
  let c := sectionOf ss 1
  let k := imgSn img
  let held := leAt c 6 1
  let recs := (chop 16 (sectionCount ss 2) (sectionOf ss 2)).map fun r =>
    (⟨leAt r 0 1, leAt r 1 1, (expandTag (k + 1) (BitVec.ofNat 16 (leAt r 2 2))).toNat, leAt r 4 4, leAt r 8 8⟩ : HeldRec)
  let b := (b.setTiming j (leAt img 48 4) (leAt img 52 4) (leAt img 56 4)).setReg .dxs Reg.GA_RANGE j (w32 (leAt c 172 4))
  b.updJob j fun x =>
    { x.newSegment with
      pc := leAt c 0 2, f := bit (leAt c 2 1) 0, pstat := leAt c 3 1, streams := leAt c 4 1 % 16, oppNow := leAt c 5 1 % 16,
      opp := if bit held 7 then some (leAt c 8 8, held % 16) else none, oppFor := none,
      salts := (List.range 4).map fun i => leAt c (16 + 4 * i) 4, epoch := leAt c 32 8,
      words := (List.range 16).map fun i => leAt c (40 + 8 * i) 8, recs := recs, restored := true, table := sectionOf ss 3,
      sn := k.toNat, gone := decide (0 ≤ k), prologue := decide (k < 0), launched := if 0 ≤ k then some k.toNat else none,
      deferred := 0, evicts := [], logBytes := leAt img 32 8, logCnt := leAt img 40 8,
      logPos := leAt img 32 8, logPosCnt := leAt img 40 8, early := [], ahead := [], applyAt := none, st := .paused }

/-- The definitions and descriptors of an image. -/
def Block.loadDefs (b : Block) (use : RemUse) (j : Nat) (ss : List Section) : Block :=
  let ds := chop 48 (sectionCount ss 5) (sectionOf ss 5)
  let b := b.each ds fun b d => b.storeDesc (leAt d 0 4 % 4096) (d.drop 16)
  b.each (splitGather (sectionCount ss 4) (sectionOf ss 4)) fun b (d, ms, ns) =>
    let d := d.take 3 ++ leBytes 1 j ++ d.drop 4
    b.storeDef use (leAt d 0 2) ⟨d, if gdListed d then sortNat ms else b.jobDies j, sortNat ns, 0, [], []⟩

/-- A pending FETCH has no PENDING entry; the ticket that it came from is not in the image: a free value. -/
def Block.pendFetch (b : Block) (j slot t : Nat) : Block :=
  let h := handleOf slot (b.sess slot)
  let p : Pend := ⟨Pk.fetch, t, h, Config.freeValue b.free % 2 ^ 32, (b.sess slot).tenant, 0, 0, 0, 0⟩
  (b.updJob j fun x => { x with pend := x.pend ++ [p] }).useFree

/-- The tenants, sessions, queue and pending effects of an image; `shift` is added to each deadline. -/
def Block.loadSessions (b : Block) (j : Nat) (ss : List Section) (shift : Int) : Block :=
  let now := b.ht .dxs
  let b := b.each (chop 48 (sectionCount ss 7) (sectionOf ss 7)) fun b t =>
    b.updTen j (leAt t 0 4 % 65536) fun _ => { tenOf (t.drop 16) with job := j }
  let b := b.each (chop 64 (sectionCount ss 6) (sectionOf ss 6)) fun b r =>
    let s := sessOf r
    let slot := slotOf (leAt r 0 4)
    let s := { s with job := j, deadline := s.deadline.map fun d => ((d : Int) + shift * 65536).toNat,
                      cstamp := if s.cancel then now else s.cstamp }
    let b := b.updSess j slot fun _ => s
    if s.fetch then b.pendFetch j slot now else b
  let b := b.updJob j fun x =>
    { x with queue := (chop 4 (sectionCount ss 8) (sectionOf ss 8)).map fun h => (slotOf (leAt h 0 4), now),
             pend := (chop 48 (sectionCount ss 9) (sectionOf ss 9)).map (fun p => pendOf p now) ++ x.pend }
  let b := b.each ((b.job j).pend.filter fun p => p.kind == Pk.tenant && bit p.flags 1) fun b p =>
    b.updTen j p.tenant fun t => { t with removing := true }
  b.each ((b.job j).pend.filter fun p => p.kind == Pk.park) fun b p =>
    (b.wheelDrop (p.ticket % 2 ^ 22)).updTick (p.ticket % 2 ^ 22) fun _ => ⟨p.ticket / 2 ^ 22, 1, 0, (b.sess (slotOf p.handle)).tenant, j, 0⟩

/-- A KILL for every session with a cancel pending, at once over CROSS and queued (R259, R279); none of a job that replays. -/
def Block.killPending (b : Block) (j : Nat) : Block :=
  if (b.job j).replays then b
  else
    let ks := ((b.jobSlots j).filter fun i => (b.sess i).cancel).map fun i =>
      (⟨handleOf i (b.sess i), (b.sess i).turn, (b.sess i).cstamp⟩ : QKill)
    (b.each ks fun b k => b.offerCross (killMark k)).updSs fun u => { u with kills := u.kills ++ ks }

/-- The context and the sessions of an image. -/
def Block.loadTables (b : Block) (j : Nat) (img : List Byte) (ss : List Section) (shift : Int) : Block :=
  (b.loadContext j img ss).loadSessions j ss shift

/-- The period and the operating-point table that a job goes on with. -/
def Block.setPlan (b : Block) (j per : Nat) (table : List Byte) : Block :=
  (b.setReg .dxs Reg.FT_PERIOD j (w32 per)).updJob j fun x => { x with table := table }

/-- What an image puts into the root's tables: the context, the sessions, the definitions; the other root takes the same. The period
and the table are the image's own at a restore, and at a restart those of an accepted proposal (R331). -/
def Block.loadImage (b : Block) (use : RemUse) (j : Nat) (img : List Byte) (ss : List Section) (shift : Int) (per : Nat)
    (table : List Byte) : Block :=
  let b := ((b.loadTables j img ss shift).setPlan j per table).loadDefs use j ss
  b.copyTo use b.mirror Ck.image j (leBytes 8 (shift % 2 ^ 64).toNat ++ leBytes 4 per ++ table ++ img)

/-- The job's sessions, pending effects and tenants go, for those of an image. -/
def Block.clearTables (b : Block) (j : Nat) : Block :=
  let ts := b.jobTenants j
  (b.clearSessions j).each ts fun b t => b.updTen j t fun _ => Tenant.reset

/-- An image that the other root has loaded. -/
def Block.mirrorImage (b : Block) (j : Nat) (bs : List Byte) : Block :=
  let img := bs.drop 140
  match imageSections img with
  | some ss => ((b.clearTables j).loadTables j img ss (sx 64 (leAt bs 0 8))).setPlan j (leAt bs 8 4) (slice bs 12 128)
  | none => b

/-! ### Snapshots (R297 to R302) -/

/-- The snapshot of the epoch J_TARGET, as the job's checkpoint area holds it. -/
def Block.target (b : Block) (j : Nat) : Option (CkSlot × List Byte) :=
  let e := (b.reg .dxs Reg.DXS_FQ_J_TARGET j).toNat
  let l := (b.job j).slots
  match (List.range 4).find? fun i => (l.getD i CkSlot.reset).epoch != 0 && (l.getD i CkSlot.reset).epoch % 2 ^ 32 == e with
  | none => none
  | some i =>
    let a := b.ckBase j + i * b.ckSize j
    let n := ofLe (b.hostRead (a + 16) 8)
    some (l.getD i CkSlot.reset, b.hostRead a (min n (b.ckSize j)))

end Sys2Proof.Machine
end

