-- ==== Sys2Proof/Machine/Faults.lean ====
section
/-! DEFINITION. Evidence, opinions, votes, verdicts and what they cost (R114, R233, R248, R284 to R301). -/

namespace Sys2Proof.Machine

/-! ### Scopes (R284, R285) -/

inductive Scope where
  | self
  | port
  | path
  | job
  | info
deriving DecidableEq, Repr

/-- The scope of a cause; FOLD_LEN's depends on its origin. Reserved codes have scope INFO. -/
def scopeOf (cause : Nat) (isNode : Bool) : Scope :=
  if 0x01 ≤ cause && cause ≤ 0x04 then .path
  else if (0x05 ≤ cause && cause ≤ 0x0A) || (0x10 ≤ cause && cause ≤ 0x1E) || cause == 0x33 || cause == 0x37 || cause == 0x38 then .self
  else if (0x20 ≤ cause && cause ≤ 0x28) || cause == 0x31 || cause == 0x32 then .job
  else if cause == 0x34 then (if isNode then .port else .job)
  else if cause == 0x30 || cause == 0x35 then .port
  else .info

/-! ### Links (R289) -/

/-- The tier-1 node and port that face a die record on tree `t`. -/
def Topo.facing (t : Topo) (rec tree : Nat) : Option (Nat × Nat) :=
  (t.nodes.filter fun r => r.tree == tree).findSome? fun r =>
    ((List.range 48).find? fun p => (r.port p).role == 0 && (r.port p).kind == 2 && (r.port p).nbr == rec).map fun p => (r.num, p)

/-- The part and port at the other end of a link. -/
def Block.partner (b : Block) (e : Part) (p : Nat) : Option (Part × Nat) :=
  let t := b.topo
  if e.isNode then
    match t.nodeOf e.num with
    | none => none
    | some r =>
      let x := r.port p
      if x.kind == 1 then some (Part.dxs x.nbr, x.nport)
      else if x.kind == 2 then some (b.partOfRec x.nbr, r.tree)
      else none
  else (b.recOfPart e).bind fun rec => (t.facing rec p).map fun (n, q) => (Part.dxs n, q)

/-- Whether evidence of a lost link is on the link with this end. -/
def Block.onLink (b : Block) (e : Evidence) (part : Part) (p : Nat) : Bool :=
  e.about.isNone && ((e.end1 == part && e.port == p) || b.partner e.end1 e.port == some (part, p))

/-! ### Opinions (R289) -/

/-- Whether a die's link on a tree is lost. -/
def Block.linkLost (b : Block) (s : Part) (tree : Nat) : Bool :=
  (b.hub.fq.evidence.any fun e => b.onLink e s tree) ||
    match b.partner s tree with
    | some (n, _) => b.faulty n
    | none => false

/-- The neighbours whose PATH evidence speaks of a node. -/
def Block.accusers (b : Block) (s : Part) : List Part :=
  ((b.hub.fq.evidence.filter fun e => e.about.isNone && e.end1 != s && (b.partner e.end1 e.port).map Prod.fst == some s).map
    fun e => e.end1).eraseDups

/-- Whether this voter holds a subject FAULTY. -/
def Block.opinion (b : Block) (s : Part) : Bool :=
  (b.hub.fq.evidence.any fun e => e.about == some s) ||
    if s.isNode then decide ((b.accusers s).length ≥ 2) else b.linkLost s 0 && b.linkLost s 1

/-- The evidence that speaks of a subject, earliest first. -/
def insertEv (x : Evidence) : List Evidence → List Evidence
  | [] => [x]
  | y :: ys => if x.stamp ≤ y.stamp then x :: y :: ys else y :: insertEv x ys

def Block.evidenceOn (b : Block) (s : Part) : List Evidence :=
  (b.hub.fq.evidence.filter fun e => e.about == some s || b.onLink e s 0 || b.onLink e s 1 ||
    (s.isNode && e.about.isNone && e.end1 != s && (b.partner e.end1 e.port).map Prod.fst == some s)).foldr insertEv []

/-- The subjects that evidence or a vote of this voter speaks of. -/
def Block.subjects (b : Block) : List Part :=
  let q := b.hub.fq
  (q.evidence.flatMap (fun e => e.about.toList ++ [e.end1] ++ ((b.partner e.end1 e.port).map Prod.fst).toList) ++
    (q.votes.filter fun v => v.voter == b.dxs.role.voter).map (fun v => v.subject) ++
    (b.topo.dies.zipIdx.map fun d => b.partOfRec d.2)).eraseDups

/-! ### Votes (R290, R291) -/

def voteMark (idx voter stamp : Nat) (bad : Bool) : Mark := mkMark .vote idx 0 stamp (voter + 4 * b2n bad)

/-- The logical index by which a VOTE names a die: none if it would name another one (log entry 179, DESIGN CHOICE). -/
def Block.voteIdx (b : Block) (s : Part) : Option Nat := if b.dieNamed (b.subjOf s) == s then some (b.subjOf s) else none

/-- The value of a node vote. -/
def nvoteWord (s : Part) (voter : Nat) (bad : Bool) : Word := w32 (b2n bad * 2 ^ 31 + voter * 65536 + s.num)

/-- A vote goes to the other voters: on a node to NVOTE of each, on a die as a mark. -/
def Block.sendVote (b : Block) (s : Part) (stamp : Nat) (bad : Bool) : Block :=
  let me := b.dxs.role.voter
  if s.isNode then
    b.each ([0, 1, 2].filter fun v => v != me) fun b v => b.remoteWriteNode v Reg.DXS_FQ_NVOTE [nvoteWord s me bad]
  else match b.voteIdx s with
    | some i => b.offerAll .dxs b.faultPorts (voteMark i me stamp bad)
    | none => b

def Block.votesOn (b : Block) (s : Part) : List Vote :=
  b.hub.fq.votes.filter fun v => v.subject == s && b.presentVoters.contains v.voter

/-- Notes a vote; a repeated one keeps the time it first came. -/
def Block.putVote (b : Block) (v : Vote) : Block :=
  if b.hub.fq.votes.any fun x => x.voter == v.voter && x.subject == v.subject then b
  else b.updFq fun q => { q with votes := q.votes ++ [v] }

/-- A vote is withdrawn; a dispute ends with the last one. -/
def Block.dropVote (b : Block) (voter : Nat) (s : Part) : Block :=
  let b := b.updFq fun q => { q with votes := q.votes.filter fun x => !(x.voter == voter && x.subject == s) }
  if b.hub.fq.votes.any fun x => x.subject == s then b
  else b.updFq fun q => { q with disputed := q.disputed.filter fun d => d != s }

/-- The recorder decides on a subject once its votes suffice (R291). -/
def Block.weigh (b : Block) (s : Part) : Block :=
  let n := (b.votesOn s).length
  let enough := n ≥ 2 || (n ≥ 1 && b.presentVoters == [b.dxs.role.voter])
  if !enough || !b.recorder (some s) || b.faulty s || b.hub.fq.due.any fun d => d.1 == s then b
  else b.updFq fun q => { q with due := q.due ++ [(s, Vk.faulty)] }

/-- Forms this voter's opinion on a subject afresh, and votes where it changed (R290). -/
def Block.reopine (b : Block) (s : Part) : Block :=
  let me := b.dxs.role.voter
  if s == Part.dxs b.dxs.nodeNo || b.faulty (Part.dxs me) then b
  else
    let had := b.hub.fq.votes.any fun v => v.voter == me && v.subject == s
    let now := b.opinion s
    if now == had then b
    else if now then
      let (st, c) := match (b.evidenceOn s).head? with
        | some e => (e.stamp, e.cause)
        | none => (b.ht .dxs, Cause.partnerLost)
      ((b.putVote ⟨me, s, c, st, b.now⟩).sendVote s st true).weigh s
    else (b.dropVote me s).sendVote s (b.ht .dxs) false

/-- Every opinion, and every subject that has votes. -/
def Block.reopineAll (b : Block) : Block :=
  let b := b.each b.subjects fun b s => b.reopine s
  b.each ((b.hub.fq.votes.map fun v => v.subject).eraseDups) fun b s => b.weigh s

/-! ### Evidence (R289) -/

/-- One evidence; a second of the same link or the same accusation keeps the first. -/
def Block.addEvidence (b : Block) (e : Evidence) : Block :=
  if b.hub.fq.evidence.any fun x => x.cause == e.cause && x.about == e.about && x.end1 == e.end1 && x.port == e.port then b
  else b.updFq fun q => { q with evidence := q.evidence ++ [e] }

/-- PATH_UP withdraws all PATH evidence on the link. -/
def Block.withdraw (b : Block) (s : Part) (p : Nat) : Block :=
  let out := b.hub.fq.evidence.filter fun e => !b.onLink e s p
  b.updFq fun q => { q with evidence := out }

/-! ### Stopping a job (R296, R300, R301) -/

/-- The SN of the last folio decided; the decision of the job's current folio is made once the job is PAUSED. -/
def Job.lastDecided (x : Job) : Int := if x.st == .paused then x.folio else if x.gone then (x.sn : Int) - 1 else -1

/-- The act of a JOB_LOST entry. -/
def Block.haltLost (b : Block) (j : Nat) : Block :=
  (b.haltJob j Pstat.halted).updJob j fun x => { x with rst := { x.rst with st := .lost } }

/-- The act of a FALLBACK entry: every index is to be restored, from the slower tier. -/
def Block.retargetTo (b : Block) (j stored : Nat) : Block :=
  (b.hw .dxs Reg.DXS_FQ_J_TARGET j (w32 stored)).updJob j fun x =>
    { x with rst := { x.rst with fallback := true, exposed := [], left := b.jobDies j } }

/-- Whether a JOB_LOST or FALLBACK entry of a job waits to be stored. -/
def Block.lossWaits (b : Block) (j : Nat) : Bool :=
  b.hub.fq.acts.any fun a => match a.2 with
    | .jobLost k | .fallback k _ => k == j
    | .fault _ _ | .jobFault _ _ | .seal _ _ _ | .reinstate _ => false

/-- No epoch is left: the entry, and the job is halted. -/
def Block.loseJob (b : Block) (j cause : Nat) : Block :=
  if b.lossWaits j then b
  else (b.appendVerdict Vk.jobLost none cause (some j) 0 0 0 0).actLater (.jobLost j) fun b => b.haltLost j

/-- The target falls back to J_STORED (R301); without a usable one the job is lost. -/
def Block.fallBack (b : Block) (j cause : Nat) : Block :=
  let stored := (b.reg .dxs Reg.DXS_FQ_J_STORED j).toNat
  let target := (b.reg .dxs Reg.DXS_FQ_J_TARGET j).toNat
  let sealed_ := (b.job j).slots.any fun c => c.epoch != 0 && c.sealed && c.epoch % 2 ^ 32 == stored
  if !sealed_ || stored ≥ target then b.loseJob j cause
  else if b.lossWaits j then b
  else
    let b := (b.appendVerdict Vk.fallback none cause (some j) 0 0 0 stored).bump .dxs Reg.DXS_FQ_FALLBACK_CNT
    b.actLater (.fallback j stored) fun b => b.retargetTo j stored

/-- The buddy of a logical index. -/
def Block.buddyOf (b : Block) (idx : Nat) : Option Nat := (b.recOf idx).map fun r => (b.topo.die r).buddy

/-- A decision not handed over yet is not made. -/
def Job.dropUndecided (x : Job) : Job :=
  let keep := match x.dec with
    | some d => d.dseq.isSome
    | none => false
  if keep then x else { x with dec := none, wait := .none }

/-- Stops a job for restart. -/
def Block.stopJob (b : Block) (j cause : Nat) (idx : Nat) : Block :=
  let last := (b.job j).lastDecided
  let ev := eventBytes Ev.restart 0 j 0 (last % 2 ^ 64).toNat (b.ht .dxs) cause
  let b := (b.postEvent ev).bump .dxs Reg.DXS_FQ_RESTART_CNT
  let epoch := b.reg .dxs Reg.DXS_FQ_J_SEALED j
  let b := (b.hw .dxs Reg.DXS_FQ_J_TARGET j epoch).updJob j fun x =>
    { x.dropUndecided with rst := ⟨.stopped, cause, x.rst.short, false, [idx], [], [], last.toNat⟩ }
  if epoch == 0 then b.loseJob j cause else b

/-- A die of a job is FAULTY. -/
def Block.expel (b : Block) (j cause idx : Nat) : Block :=
  let x := b.job j
  if !x.loaded || x.st == .halted then b
  else match x.rst.st with
    | .stopped => b.updJob j fun x => { x with rst := { x.rst with expelled := x.rst.expelled ++ [idx] } }
    | .restoring =>
      let hit := x.rst.exposed.any fun e => b.buddyOf e == some idx
      let b := b.updJob j fun x => { x with rst := { x.rst with expelled := x.rst.expelled ++ [idx] } }
      if hit then b.fallBack j cause else b
    | .none | .ready | .catchup | .lost | .fault => b.stopJob j cause idx

/-- The act of a JOB_FAULT entry. -/
def Block.stopForFault (b : Block) (j cause : Nat) : Block :=
  if !(b.job j).loaded || (b.job j).st == .halted then b
  else
    ((b.bump .dxs Reg.DXS_FQ_RESTART_CNT).haltJob j Pstat.halted).updJob j fun x =>
      { x with rst := { x.rst with st := .fault, cause := cause } }

/-- R295: a JOB cause halts its job; one entry waits to be stored at a time. -/
def Block.faultJob (b : Block) (j cause : Nat) : Block :=
  let x := b.job j
  let waits := b.hub.fq.acts.any fun a => match a.2 with
    | .jobFault k _ => k == j
    | .fault _ _ | .seal _ _ _ | .reinstate _ | .jobLost _ | .fallback _ _ => false
  if !x.loaded || x.st == .halted || waits then b
  else (b.appendVerdict Vk.jobFault none cause (some j) 0 0 0 0).actLater (.jobFault j cause) fun b => b.stopForFault j cause

/-- A JOB cause at the recorder: the job of the die, of the mark's own node, or asked of another node. -/
def Block.jobCause (b : Block) (origin : Part) (cause : Nat) : Block :=
  if !b.actingRoot then b
  else if !origin.isNode then
    match b.recOfPart origin with
    | some r => b.on (b.topo.die r).bound fun b => b.faultJob (b.topo.die r).job cause
    | none => b
  else if origin.num == b.dxs.nodeNo then
    let w := b.reg .dxs Reg.DXS_FQ_FR_INFO
    if wbit w 24 then b.faultJob (fld w 23 16) cause else b
  else b.remoteIssue 1 2 origin.num Reg.DXS_FQ_FR_INFO 1 [] (.job cause origin.num)

/-! ### FAULT_RECEIVE (R286) -/

/-- A voter takes a FAULT. -/
def Block.takeFault (b : Block) (origin : Part) (cause port stamp : Nat) : Block :=
  match scopeOf cause origin.isNode with
  | .self => (b.addEvidence ⟨cause, some origin, origin, port, stamp⟩).reopineAll
  | .port =>
    match b.partner origin port with
    | some (s, _) => (b.addEvidence ⟨cause, some s, origin, port, stamp⟩).reopineAll
    | none => b
  | .path =>
    if cause == Cause.pathUp then (b.withdraw origin port).reopineAll
    else (b.addEvidence ⟨cause, none, origin, port, stamp⟩).reopineAll
  | .job => b.jobCause origin cause
  | .info => b

/-- The ports a received FAULT is forwarded on: a root's CROSS and quorum ports whichever it came by; at another node its UP ports
if it came by a DOWN port. -/
def Block.forwardPorts (b : Block) (p : Nat) : List Nat :=
  if isRoot b.dxs.role then b.faultPorts
  else if b.portRole p == roleDown then b.faultPorts else []

def faultReceive (sd : Side) (b : Block) : Block :=
  b.withMark sd .fault fun r b =>
    if sd == .dxt then b
    else
      let arg := r.mark.arg.toNat
      let origin := if bit arg 15 then Part.dxs r.mark.obj.toNat else b.dieNamed r.mark.obj.toNat
      let cause := bits arg 7 0
      let key := (b2n (bit arg 15) * 65536 + r.mark.obj.toNat, cause, r.mark.stamp.toNat)
      let own := r.port == ownPort
      let seen := b.dxs.node.forwarded.contains key
      let b := if own then b else b.bump .dxs Reg.DXS_FQ_FAULT_RX_CNT
      let b := b.on (!own && !seen) fun b => b.offerAll .dxs (b.forwardPorts r.port) r.mark
      let b := b.on (!seen) fun b => b.updNode .dxs fun n => { n with forwarded := key :: n.forwarded }
      if isTriad b.dxs.role && !seen then b.takeFault origin cause (bits arg 14 8) (expandStamp (b.ht .dxs) r.mark.stamp) else b

/-- SELF_REPORT (R287). -/
def selfReport (sd : Side) (w : Word) (b : Block) : Block :=
  (match sd with
    | .dxt => b.hw .dxt Reg.DXT_FQ_RAISE 0 w
    | .dxs => b.hw .dxs Reg.DXS_FQ_RAISE 0 w).raise sd Cause.selfReport

/-- The heartbeat limit: the register, or its default at a DX-T. -/
def Block.hbPairs (b : Block) : Side → Nat
  | .dxs => b.rf .dxs Reg.DXS_FQ_CTRL 15 0
  | .dxt => 256

/-- A port in UP has had no IDLE for HB_PAIRS pairs (R288). -/
def hbMiss (sd : Side) (p : Nat) (b : Block) : Block :=
  let q := b.port sd p
  if q.st != .up || q.rx.hbMiss || q.rx.sinceIdle < b.hbPairs sd then b
  else
    let b := b.updRx sd p fun r => { r with hbMiss := true }
    (b.on (sd == .dxs) fun b => b.bump .dxs Reg.DXS_FQ_HB_MISS_CNT).raisePath sd Cause.hbMiss p

/-! ### Votes received -/

def voteReceive (b : Block) : Block :=
  b.withMark .dxs .vote fun r b =>
    if !isTriad b.dxs.role then b
    else
      let arg := r.mark.arg.toNat
      let s := b.dieNamed r.mark.obj.toNat
      let voter := arg % 4
      if bit arg 2 then (b.putVote ⟨voter, s, 0, expandStamp (b.ht .dxs) r.mark.stamp, b.now⟩).weigh s
      else b.dropVote voter s

def nvoteWrite (w : Word) (b : Block) : Block :=
  if !isTriad b.dxs.role then b
  else
    let b := b.hw .dxs Reg.DXS_FQ_NVOTE 0 (w &&& 0x8003FFFF)
    let s := Part.dxs (fld w 15 0)
    let voter := fld w 17 16
    if wbit w 31 then (b.putVote ⟨voter, s, 0, b.ht .dxs, b.now⟩).weigh s else b.dropVote voter s

/-- LONE_TO in cycles. -/
def Block.loneTo (b : Block) : Nat := b.rf .dxs Reg.DXS_FQ_CTRL 31 16 * 1000

/-- One faulty vote has stood alone for LONE_TO (R291); votes that suffice of themselves since QUORUM changed count at once. -/
def loneVoteExpire (isNode : Bool) (subj : Nat) (b : Block) : Block :=
  let s : Part := ⟨isNode, subj⟩
  let b := b.weigh s
  match b.votesOn s with
  | [v] =>
    if !b.recorder (some s) || b.faulty s || b.now < v.since + b.loneTo || b.hub.fq.due.any (fun d => d.1 == s) then b
    else if b.presentVoters.length == 2 then b.updFq fun q => { q with due := q.due ++ [(s, Vk.faulty)] }
    else if b.presentVoters.length == 3 && !b.hub.fq.disputed.contains s then
      b.updFq fun q => { q with due := q.due ++ [(s, Vk.disputed)], disputed := s :: q.disputed }
    else b
  | _ => b

/-! ### Acting on a verdict (R114, R234, R248, R293 to R295) -/

/-- The fence epoch of a die record's position. -/
def Block.fenceOf (b : Block) (rec : Nat) : Nat := nget (fun _ => b.topo.epoch0) b.hub.fq.fences rec

def fenceDefault (b : Block) (_ : Nat) : Nat := b.topo.epoch0

def Block.setFence (b : Block) (rec e : Nat) : Block :=
  b.updFq fun q => { q with fences := nset (fenceDefault b) q.fences rec e }

def fenceMark (rec stamp epoch : Nat) : Mark := mkMark .fence rec 1 stamp epoch

/-- A FENCE towards a position: the port that faces it takes the epoch, any other passes the mark on. -/
def Block.passFence (b : Block) (m : Mark) : Block :=
  let rec_ := m.obj.toNat
  match b.portToRec rec_ with
  | none => b
  | some p =>
    if (b.entryOf p).kind == 2 then
      (b.guardAbandon .dxs Reg.SP_EPOCH p).setGuarded .dxs Reg.SP_EPOCH p (w32 m.arg.toNat)
    else b.offer .dxs p m

/-- The recorder fences the position of a die. -/
def Block.fenceDie (b : Block) (rec epoch : Nat) : Block :=
  let m := fenceMark rec (b.ht .dxs) epoch
  (((b.setFence rec epoch).offerCross m).offerAll .dxs b.dxs.quorum.toList m).passFence m

/-- The ports that face a node: of its neighbours, and of the dies beneath it. -/
def Block.portsFacing (b : Block) (n : Nat) : List (Part × Nat) :=
  (b.topo.nodes.flatMap fun r =>
    ((List.range 48).filter fun p => (r.port p).kind == 1 && (r.port p).nbr == n && r.num != n).map fun p => (Part.dxs r.num, p)) ++
    match b.topo.nodeOf n with
    | some r => ((List.range 48).filter fun p => (r.port p).kind == 2).map fun p => (b.partOfRec (r.port p).nbr, r.tree)
    | none => []

/-- The CTRL value of a port from the table, with ENABLE as given. -/
def Block.ctrlFor (b : Block) (s : Part) (p : Nat) (en : Bool) : Word :=
  let role := if s.isNode then
      (match b.topo.nodeOf s.num with
        | some r => (r.port p).role
        | none => 0)
    else 0
  w32 (0x40 + role * 16 + 3 * b2n en)

/-- Writes CTRL of a port: at once at the node itself, else by REMOTE, staged and applied. -/
def Block.writeCtrl (b : Block) (s : Part) (p : Nat) (w : Word) : Block :=
  if s == Part.dxs b.dxs.nodeNo then
    let old := b.reg .dxs Reg.SP_CTRL p
    (b.hwBoth .dxs Reg.SP_CTRL p w).portCtrlChanged .dxs p old
  else
    let (kind, target) := if s.isNode then (2, s.num) else (1, match b.recOfPart s with
      | some r => (b.topo.die r).pos
      | none => 0)
    ((b.remoteIssue 2 kind target Reg.SP_PORTSEL 1 [w32 p] .none).remoteIssue 2 kind target Reg.SP_CTRL 1 [w] .none).remoteIssue 2 kind
      target Reg.CM_APPLY 1 [4] .none

/-- Isolates a DX-S48: ENABLE = 0 at every port that faces it (R294). -/
def Block.isolate (b : Block) (n : Nat) : Block :=
  b.each (b.portsFacing n) fun b e => b.writeCtrl e.1 e.2 (b.ctrlFor e.1 e.2 false)

/-- A relayed KILL is a pending cancel of its session (R248). -/
def Block.pendCancel (b : Block) (k : QKill) : Block :=
  let slot := slotOf k.handle
  let s := b.sess slot
  if b.handleOk k.handle && s.turn == k.turn && inTurn s && !s.cancel then
    b.updSess s.job slot fun s => { s with cancel := true, cstamp := k.stamp }
  else b

/-- The other root becomes acting root (R114, R234, R248), at the column boundary after the verdict. -/
def Block.takeRole (b : Block) : Block :=
  let b := b.becomeActing
  let b := b.each b.loadedJobs fun b j => b.updJob j fun x => { x with hold := false }
  let b := b.each b.hub.ss.relayed fun b k => b.pendCancel k
  let js := b.loadedJobs.filter fun j => (b.job j).sess
  (b.each js fun b j => b.postEvent (eventBytes Ev.lost 0 j 0 (b.job j).sn (b.ht .dxs) 0)).updSs fun u => { u with relayed := [] }

/-- The third part of a FAULTY verdict: the act. -/
def Block.actOn (b : Block) (s : Part) (cause : Nat) : Block :=
  if s.isNode then
    let b := b.isolate s.num
    if s.num == b.otherRoot && s.num ≤ 1 then (if b.actingRoot then b.goSolo else b.updRoot fun r => { r with roleDue := some true }) else b
  else match b.recOfPart s with
    | none => b
    | some r =>
      let b := b.fenceDie r ((b.fenceOf r + 1) % 65536)
      let d := b.topo.die r
      if d.bound then b.expel d.job cause d.idx else b

/-- A DX-S48 that is reinstated: the ports that face it are enabled again (R304). -/
def Block.reenable (b : Block) (s : Part) : Block :=
  if s.isNode then b.each (b.portsFacing s.num) fun b e => b.writeCtrl e.1 e.2 (b.ctrlFor e.1 e.2 true) else b

/-- What an entry does once it is stored (R292). -/
def Block.perform (b : Block) : VAct → Block
  | .fault s cause => (b.actOn s cause).reopineAll
  | .jobFault j cause => b.stopForFault j cause
  | .seal j i epoch => b.sealSlot j i epoch
  | .reinstate s => b.reenable s
  | .jobLost j => b.haltLost j
  | .fallback j stored => b.retargetTo j stored

/-- The answer of a voter to an entry sent to it: once one has stored it, or no other voter is left, the entry takes effect. A copy
that failed is not sent again (R318; log entry 124, DEDUCED). -/
def Block.verdictStored (b : Block) (seq : Nat) (ok : Bool) : Block :=
  match takeFirst (fun (a : Nat × VAct) => a.1 == seq) b.hub.fq.acts with
  | none => b
  | some ((_, a), rest) => if ok || b.aloneVoting then (b.updFq fun q => { q with acts := rest }).perform a else b

/-- Where no other voter is left present, the entries that wait take effect, the oldest first (R292). -/
def Block.actAlone (b : Block) : Block :=
  if b.aloneVoting then
    let l := b.hub.fq.acts
    (b.updFq fun q => { q with acts := [] }).each l fun b a => b.perform a.2
  else b

/-- The job that a verdict on a part concerns. -/
def Block.jobOfPart (b : Block) (s : Part) : Option Nat :=
  match b.recOfPart s with
  | some r => if (b.topo.die r).bound then some (b.topo.die r).job else none
  | none => none

/-- The cause of the first evidence: this voter's own, else that of a vote; a mark from another voter gives none, and its
cause is a free value. -/
def Block.verdictCause (b : Block) (s : Part) : Nat × Block :=
  match (b.evidenceOn s).head? with
  | some e => (e.cause, b)
  | none =>
    match (b.hub.fq.votes.find? fun v => v.subject == s && v.cause != 0) with
    | some v => (v.cause, b)
    | none => (Config.freeValue b.free % 256, b.useFree)

def votesMask (l : List Vote) : Nat := (l.map fun v => 2 ^ v.voter).foldl (· ||| ·) 0

/-- The recorder records a verdict that is due, has it stored by the voters present, and acts on it (R292). -/
def verdictRecord (isNode : Bool) (subj : Nat) (b : Block) : Block :=
  let s : Part := ⟨isNode, subj⟩
  match b.hub.fq.due.find? fun d => d.1 == s with
  | none => b
  | some (_, kind) =>
    let b := b.updFq fun q => { q with due := q.due.filter fun d => d.1 != s }
    let votes := votesMask (b.votesOn s)
    let (cause, b) := b.verdictCause s
    let fence := if kind == Vk.faulty then (match b.recOfPart s with
      | some r => (b.fenceOf r + 1) % 65536
      | none => 0) else 0
    let b := b.appendVerdict kind (some s) cause (b.jobOfPart s) votes 0 fence 0
    if kind == Vk.disputed then b.bump .dxs Reg.DXS_FQ_LONE_CNT
    else (b.actAlone.actLater (.fault s cause) fun b => b.actOn s cause).reopineAll

/-- A FENCE on its way to its position (R293). -/
def fenceReceive (b : Block) : Block :=
  b.withMark .dxs .fence fun r b =>
    let b := b.setFence r.mark.obj.toNat r.mark.arg.toNat
    match b.dxs.role with
    | .memberC => b
    | .rootA | .rootB => (b.offerAll .dxs b.dxs.quorum.toList r.mark).passFence r.mark
    | .tier => b.passFence r.mark

/-- J_STORED takes an epoch whose snapshot the root holds (R299). -/
def jStoredWrite (w : Word) (b : Block) : Block :=
  let j := (b.reg .dxs Reg.DXS_FQ_JOBSEL).toNat
  if isRoot b.dxs.role && ((b.job j).slots.any fun c => c.epoch != 0 && c.fits && c.epoch % 2 ^ 32 == w.toNat) then
    b.hw .dxs Reg.DXS_FQ_J_STORED j w
  else b

/-! ### The rows -/

def execFaultReceive (dt : Nat) (sd : Side) (s : State) : Host.Outcome State Fault Refusal :=
  s.act dt (Foot.sided sd [.inbox .dxt] [.regs .dxs, .ports .dxs, .inbox .dxs, .sheets .dxs, .dma .dxs,
    .forwarded .dxs, .jobs, .sess, .quorum, .binder, .host]) (faultReceive sd)

def execSelfReport (dt : Nat) (sd : Side) (w : Word) (s : State) : Host.Outcome State Fault Refusal :=
  s.act dt (Foot.sided sd [.regs .dxt, .ports .dxt, .raised .dxt, .lastCause] [.regs .dxs, .ports .dxs, .inbox .dxs,
    .raised .dxs]) (selfReport sd w)

def execHbMiss (dt : Nat) (sd : Side) (p : Nat) (s : State) : Host.Outcome State Fault Refusal :=
  s.act dt (Foot.sided sd [.regs .dxt, .ports .dxt, .raised .dxt, .lastCause] [.regs .dxs, .ports .dxs, .inbox .dxs,
    .raised .dxs]) (hbMiss sd p)

def execVoteReceive (dt : Nat) (s : State) : Host.Outcome State Fault Refusal :=
  s.act dt [.inbox .dxs, .quorum] voteReceive

def execNvoteWrite (dt : Nat) (w : Word) (s : State) : Host.Outcome State Fault Refusal :=
  s.act dt [.regs .dxs, .quorum] (nvoteWrite w)

def execLoneVoteExpire (dt : Nat) (isNode : Bool) (subj : Nat) (s : State) : Host.Outcome State Fault Refusal :=
  s.act dt [.quorum] (loneVoteExpire isNode subj)

def execVerdictRecord (dt : Nat) (isNode : Bool) (subj : Nat) (s : State) : Host.Outcome State Fault Refusal :=
  s.act dt [.clk .dxs, .regs .dxs, .ports .dxs, .inbox .dxs, .sheets .dxs, .dma .dxs, .eyes .dxs, .raised .dxs, .root,
    .instances, .dones, .folds, .jobs, .path, .sess, .quorum, .binder, .gaAudit, .gaOver, .host, .free]
    (verdictRecord isNode subj)

def execFenceReceive (dt : Nat) (s : State) : Host.Outcome State Fault Refusal :=
  s.act dt [.regs .dxs, .ports .dxs, .inbox .dxs, .quorum] fenceReceive

def execJStoredWrite (dt : Nat) (w : Word) (s : State) : Host.Outcome State Fault Refusal :=
  s.act dt [.regs .dxs] (jStoredWrite w)

end Sys2Proof.Machine
end

