-- ==== Sys2Proof/Machine/Ptp.lean ====
section
/-! DEFINITION. The PTP ports: message layouts, the best master clock algorithm, offsets, stamps and the frame that leaves (R103,
R107, R115 to R117), and the latency measurement of every port (R82, R117). The layouts, the data-set comparison and the arithmetic are
those of IEEE 1588-2019, which the manual names and does not print (log entry 162, PRESUMED). -/

namespace Sys2Proof.Machine

/-! ### Messages -/

/-- `n` octets of a message, most significant first. -/
def beAt (m : List Byte) (i n : Nat) : Nat := ofLe (slice m i n).reverse

def beBytes (n v : Nat) : List Byte := (leBytes n v).reverse

/-- Message types. -/
def Ptp.sync : Nat := 0
def Ptp.delayReq : Nat := 1
def Ptp.followUp : Nat := 8
def Ptp.delayResp : Nat := 9
def Ptp.announce : Nat := 11

def ptpType (m : List Byte) : Nat := bits (beAt m 0 1) 3 0

/-- The octets of a message of each type that the ports use. -/
def ptpLength (ty : Nat) : Nat := if ty == Ptp.announce then 64 else if ty == Ptp.delayResp then 54 else 44

def ptpSource (m : List Byte) : Nat := beAt m 20 10

def ptpSeq (m : List Byte) : Nat := beAt m 30 2

/-- The correction field, in 2^-16 ns. -/
def ptpCorrection (m : List Byte) : Int := sx 64 (beAt m 8 8)

/-- The two-step flag. -/
def ptpTwoStep (m : List Byte) : Bool := bit (beAt m 6 1) 1

/-- The timestamp at octet 34, in 2^-16 ns. -/
def ptpTime (m : List Byte) : Nat := beAt m 34 6 * sec16 + beAt m 40 4 * 65536

/-- A timestamp of whole nanoseconds. -/
def ptpStampBytes (t : Nat) : List Byte := beBytes 6 (t / sec16) ++ beBytes 4 (t % sec16 / 65536)

/-- The data set of an Announce, in the order of comparison: priority1, class, accuracy, variance, priority2, identity, steps removed,
sender. -/
def ptpDataSet (m : List Byte) : List Nat :=
  [beAt m 47 1, beAt m 48 1, beAt m 49 1, beAt m 50 2, beAt m 52 1, beAt m 53 8, beAt m 61 2, ptpSource m]

def lexLess : List Nat → List Nat → Bool
  | a :: as, b :: bs => a < b || (a == b && lexLess as bs)
  | [], _ :: _ => true
  | _, [] => false

/-! ### Slots -/

/-- A Sync or Announce interval: 2^k seconds, k a signed byte of PTP_CONFIG, in time-clock cycles. -/
def ptpInterval (raw : List Byte) (i : Nat) : Nat :=
  let k := sx 8 (leAt raw i 1)
  if k ≥ 0 then secCyc * 2 ^ k.toNat else secCyc / 2 ^ (-k).toNat

def Block.ptpCfg (b : Block) (slot : Nat) : PtpCfg := b.dxs.root.ptp.getD slot PtpCfg.reset

def Block.ptpRaw (b : Block) (slot : Nat) : List Byte := (b.ptpCfg slot).raw

def Block.ptpSlot (b : Block) (slot : Nat) : PtpSlot := b.dxs.root.ptpSlots.getD slot PtpSlot.reset

def Block.updPtp (b : Block) (slot : Nat) (f : PtpSlot → PtpSlot) : Block :=
  b.updRoot fun r => { r with ptpSlots := r.ptpSlots.set slot (f (r.ptpSlots.getD slot PtpSlot.reset)) }

/-- The port of a slot or transmitter: P_CFG gives it for the slots, 2 and 3 are the transmitters of ETH0 and ETH1. -/
def Block.ptpEth (b : Block) (slot : Nat) : Nat := if slot < 2 then b.candEth (4 + slot) else slot - 2

/-- The domain of a slot or transmitter. -/
def Block.ptpDomain (b : Block) (slot : Nat) : Nat :=
  if slot < 2 then b.rf .dxs Reg.RF_P_CFG 15 8 (4 + slot) else (b.ptpCfg slot).domain

/-- Whether a slot receives: USE of its candidate, or a transmitter that PTP_CONFIG set up. -/
def Block.ptpOn (b : Block) (slot : Nat) : Bool := if slot < 2 then b.candUse (4 + slot) == 1 else (b.ptpCfg slot).on

/-! ### Stamps (R117) -/

/-- The hall time of a message timestamp point: the converter's stamp of the word clock, the point's distance `pos` from it, and the
measured latency in ps that lies between it and the reference point. -/
def Block.ptpStamp (b : Block) (eth code : Nat) (pos lat : Int) : Nat :=
  ((b.stampNow .dxs (ethConv eth) code : Int) + pos + divR (lat * 65536) 1000).toNat

def Block.ethLatOf (b : Block) (eth : Nat) : Nat × Nat := b.dxs.root.ethLat.getD eth (0, 0)

/-! ### The best master clock algorithm -/

/-- Announces within four announce intervals that qualify a time transmitter: two. -/
def PtpForeign.qualified (f : PtpForeign) (now interval : Nat) : Bool :=
  match f.before with
  | some t => now ≤ t + 4 * interval && f.data.getD 6 255 < 255
  | none => false

/-- The best of the qualified time transmitters. -/
def bestForeign (l : List PtpForeign) : Option PtpForeign :=
  l.foldl (fun best f => match best with
    | some g => if lexLess f.data g.data then some f else some g
    | none => some f) none

/-- The selection of a slot's time transmitter: a change of it starts the slot's exchange anew. -/
def Block.ptpChoose (b : Block) (slot : Nat) : Block :=
  let x := b.ptpSlot slot
  let best := bestForeign (x.foreign.filter fun f => f.qualified b.now (ptpInterval (b.ptpRaw slot) 4))
  let i := 4 + slot
  match best with
  | none => b
  | some f =>
    let b := if x.parent == some f.src then b
      else (b.updPtp slot fun x => { x with parent := some f.src, sync := none, req := none, down := none, mpd := none }).updCand i
        fun c => { c with syncAt := none, offsets := [], prevMean := none }
    (b.updPtp slot fun x => { x with utc := f.utc }).updCand i fun c =>
      { c with annAt := some f.last, annLost := false, rxClass := f.data.getD 1 255 }

def ptpAnnounce (slot : Nat) (m : List Byte) (b : Block) : Block :=
  let src := ptpSource m
  let before := (((b.ptpSlot slot).foreign.find? fun f => f.src == src).map PtpForeign.last)
  let f : PtpForeign := ⟨src, ptpDataSet m, sx 16 (beAt m 44 2), b.now, before⟩
  (b.updPtp slot fun x => { x with foreign := f :: x.foreign.filter fun g => g.src != src }).ptpChoose slot

/-! ### Offsets (R107) -/

/-- A new t2 - t1: with the mean path delay known it gives an offsetFromMaster. -/
def Block.ptpDown (b : Block) (slot : Nat) (d : Int) : Block :=
  let b := b.updPtp slot fun x => { x with down := some d }
  match (b.ptpSlot slot).mpd with
  | some mpd => b.updCand (4 + slot) fun c => { c with offsets := c.offsets ++ [d - mpd] }
  | none => b

def ptpSync (slot : Nat) (m : List Byte) (t2 : Nat) (b : Block) : Block :=
  let b := b.updCand (4 + slot) fun c => { c with syncAt := some b.now, syncLost := false }
  if ptpTwoStep m then b.updPtp slot fun x => { x with sync := some (ptpSeq m, t2, ptpCorrection m) }
  else b.ptpDown slot ((t2 : Int) - ptpTime m - ptpCorrection m)

def ptpFollowUp (slot : Nat) (m : List Byte) (b : Block) : Block :=
  match (b.ptpSlot slot).sync with
  | some (n, t2, corr) =>
    if n == ptpSeq m then
      (b.updPtp slot fun x => { x with sync := none }).ptpDown slot ((t2 : Int) - ptpTime m - corr - ptpCorrection m)
    else b
  | none => b

/-- The port identity that a node's messages carry. -/
def Block.ptpSelf (b : Block) (slot : Nat) : Nat := Config.ptpIdentity (b.ptpEth slot) % 2 ^ 80

def ptpDelayResp (slot : Nat) (m : List Byte) (b : Block) : Block :=
  match (b.ptpSlot slot).req, (b.ptpSlot slot).down with
  | some (n, t3), some d =>
    if n == ptpSeq m && beAt m 44 10 == b.ptpSelf slot then
      b.updPtp slot fun x => { x with req := none, mpd := some (divR (d + ((ptpTime m : Int) - t3 - ptpCorrection m)) 2) }
    else b
  | _, _ => b

/-! ### Reception and timeouts -/

/-- Whether a message is for the slot: well formed, of its domain, on a link that is up. -/
def Block.ptpTakes (b : Block) (slot : Nat) (m : List Byte) : Bool :=
  slot < 4 && isRoot b.dxs.role && b.ptpOn slot && b.ethUp (b.ptpEth slot) && bits (beAt m 1 1) 3 0 == 2 &&
    beAt m 4 1 == b.ptpDomain slot && beAt m 2 2 ≤ m.length && ptpLength (ptpType m) ≤ beAt m 2 2

/-- A PTP message with its stamp. An event message whose stamp does not count is a missing one (R130); a slot uses the messages of
its selected time transmitter alone, a transmitter the Delay_Reqs that it answers. -/
def ptpMessageReceive (slot : Nat) (m : List Byte) (code : Nat) (pos : Int) (b : Block) : Block :=
  let eth := b.ptpEth slot
  let ty := ptpType m
  let event := ty == Ptp.sync || ty == Ptp.delayReq
  let ok := b.stampOk .dxs (ethConv eth)
  let t := b.ptpStamp eth code pos (-((b.ethLatOf eth).2 : Int))
  if !b.ptpTakes slot m then b
  else
    let b := if event then b.useFree.measured .dxs (ethConv eth) else b
    if event && !ok then b
    else if slot < 2 then
      let mine := (b.ptpSlot slot).parent == some (ptpSource m)
      if ty == Ptp.announce then ((ptpAnnounce slot m b).bump .dxs Reg.RF_P_EDGE_CNT (4 + slot)).requal (4 + slot)
      else if !mine || !(ty == Ptp.sync || ty == Ptp.followUp || ty == Ptp.delayResp) then b
      else
        let b := if ty == Ptp.sync then ptpSync slot m t b else if ty == Ptp.followUp then ptpFollowUp slot m b else ptpDelayResp slot m b
        (b.bump .dxs Reg.RF_P_EDGE_CNT (4 + slot)).requal (4 + slot)
    else if ty == Ptp.delayReq then b.updPtp slot fun x => { x with ask := some (ptpSource m, ptpSeq m, t) }
    else b

/-- Announce or Sync messages of a slot have stopped (R103). A time transmitter that is silent gives way to the next best. -/
def ptpTimeout (slot : Nat) (sync : Bool) (b : Block) : Block :=
  let i := 4 + slot
  let c := b.cand i
  let raw := b.ptpRaw slot
  let late := if sync then (match c.syncAt with
      | some t => b.now ≥ t + 3 * ptpInterval raw 2
      | none => true)
    else (match c.annAt with
      | some t => b.now ≥ t + b.rf .dxs Reg.RF_P_QUAL 11 8 i * ptpInterval raw 4
      | none => true)
  if slot ≥ 2 || !isRoot b.dxs.role || !late then b
  else if sync then (b.updCand i fun c => { c with syncLost := true }).requal i
  else
    let b := b.updCand i fun c => { c with annLost := true }
    let b := b.updPtp slot fun x => { x with foreign := x.foreign.filter fun f => x.parent != some f.src, parent := none }
    (b.ptpChoose slot).requal i

/-! ### Transmission (R116, R117) -/

/-- Whether a slot or transmitter sends messages of a type: slots 0 and 1 Delay_Req to their time transmitter, transmitters Sync and
Announce, and Delay_Resp to a Delay_Req that waits. Follow_Up is never sent. -/
def Block.ptpMaySend (b : Block) (slot ty : Nat) : Bool :=
  let x := b.ptpSlot slot
  (b.ptpCfg slot).on &&
    (if slot < 2 then ty == Ptp.delayReq && x.parent.isSome
    else ty == Ptp.sync || ty == Ptp.announce || (ty == Ptp.delayResp && x.ask.isSome))

/-- A transmitter's data in an Announce: the class of the current QL marks, and the defaults of IEEE 1588 for the rest. -/
def Block.ptpAnnounceBody (b : Block) (slot : Nat) : List Byte :=
  let cls := if b.actingRoot then b.rootQl.1 else b.dxs.qlClass
  beBytes 10 0 ++ beBytes 2 0 ++ beBytes 1 0 ++ beBytes 1 128 ++ beBytes 1 cls ++ beBytes 1 0xFE ++ beBytes 2 0xFFFF ++ beBytes 1 128 ++
    beBytes 8 (b.ptpSelf slot / 65536) ++ beBytes 2 0 ++ beBytes 1 0xA0

/-- The logarithm of the interval that a message of a type carries. -/
def ptpLogInterval (raw : List Byte) (ty : Nat) : Nat :=
  if ty == Ptp.sync then leAt raw 2 1 else if ty == Ptp.announce then leAt raw 4 1 else if ty == Ptp.delayResp then leAt raw 3 1 else 0x7F

/-- What the binder builds: the message with a zero timestamp. -/
def Block.ptpBuild (b : Block) (slot ty : Nat) : List Byte :=
  let x := b.ptpSlot slot
  let raw := b.ptpRaw slot
  let ask := x.ask.getD (0, 0, 0)
  let seq := if ty == Ptp.delayResp then ask.2.1 else nget (fun _ => 0) x.seqs ty % 65536
  let body := if ty == Ptp.announce then b.ptpAnnounceBody slot
    else if ty == Ptp.delayResp then ptpStampBytes ask.2.2 ++ beBytes 10 ask.1
    else beBytes 10 0
  beBytes 1 ty ++ beBytes 1 0x12 ++ beBytes 2 (ptpLength ty) ++ beBytes 1 (b.ptpDomain slot) ++ beBytes 1 0 ++
    beBytes 2 ((if leAt raw 5 1 == 1 then 0x0400 else 0) + 0x0008) ++ beBytes 12 0 ++ beBytes 10 (b.ptpSelf slot) ++ beBytes 2 seq ++
    beBytes 1 0 ++ beBytes 1 (ptpLogInterval raw ty) ++ body

/-- The ones' complement sum of the 16-bit words of a list of octets. -/
def onesSum (bs : List Byte) : Nat :=
  ((List.range ((bs.length + 1) / 2)).foldl (fun s i => s + beAt bs (2 * i) 2) 0) % 65535

/-- The pad octets that take the place of zeros so that the checksum of a message whose zero timestamp became `ts` stays valid. -/
def padFor (ts : List Byte) : List Byte := beBytes 2 (65535 - onesSum ts)

/-- The checksum of IPv4 is sent as 0. -/
def Block.ptpNoSum (b : Block) (slot : Nat) : Bool :=
  slot < 2 && leAt (b.ptpRaw slot) 1 1 == 0 && b.rf .dxs Reg.RF_P_CFG 3 3 (4 + slot) == 1

/-- The octets that leave: the originTimestamp of Sync and Delay_Req is inserted, and over UDP two pad octets follow the message and
take up its change. -/
def Block.ptpFrame (b : Block) (slot ty t : Nat) : List Byte :=
  let m := b.ptpBuild slot ty
  let stamped := ty == Ptp.sync || ty == Ptp.delayReq
  let ts := if stamped then ptpStampBytes t else []
  let udp := leAt (b.ptpRaw slot) 1 1 != 2
  overwrite m 34 ts ++ (if !udp then [] else if stamped && !b.ptpNoSum slot then padFor ts else beBytes 2 0)

/-- A PTP message leaves with its stamp. One whose stamp does not count is not sent: it would be a missing measurement (R130). -/
def ptpSend (slot ty code : Nat) (pos : Int) (b : Block) : Block :=
  let eth := b.ptpEth slot
  let event := ty == Ptp.sync || ty == Ptp.delayReq
  let ok := b.stampOk .dxs (ethConv eth)
  let t := b.ptpStamp eth code pos (b.ethLatOf eth).1
  if slot ≥ 4 || !isRoot b.dxs.role || !b.ethUp eth || !b.ptpMaySend slot ty then b
  else
    let b := if event then b.useFree.measured .dxs (ethConv eth) else b
    if event && !ok then b
    else
      let seq := nget (fun _ => 0) (b.ptpSlot slot).seqs ty % 65536
      let frame := b.ptpFrame slot ty t
      let noSum := b.ptpNoSum slot
      (b.updPtp slot fun x =>
        { x with frame := frame, noSum := noSum, ask := if ty == Ptp.delayResp then none else x.ask,
                 req := if ty == Ptp.delayReq then some (seq, t) else x.req, seqs := nupd (fun _ => 0) x.seqs ty fun n => (n + 1) % 65536 }).updRoot
        fun r => { r with ptpTx := (eth * 256 + ty, if event then t else 0) :: r.ptpTx.filter fun x => x.1 / 256 != eth }

/-! ### Latencies (R82, R117) -/

/-- The latency measurement of an Ethernet port, as of a spine port. -/
def ethLatency (eth : Nat) (pad : Option (Nat × Nat)) (loop : List (Nat × Nat)) (path : Nat) (b : Block) : Block :=
  if eth ≥ 2 then b
  else
    let b' := b.measured .dxs (ethConv eth) (1 + loop.length)
    match b.latencies .dxs (ethConv eth) pad loop path with
    | some l => b'.updRoot fun r => { r with ethLat := r.ethLat.set eth l }
    | none => b'.raise .dxs Cause.calFail

/-- The latency measurement of a port: after a part's spine ports come a DX-S48's Ethernet ports. -/
def anyLatency (sd : Side) (p : Nat) (pad : Option (Nat × Nat)) (loop : List (Nat × Nat)) (path : Nat) (b : Block) : Block :=
  if sd == .dxs && p ≥ 48 then ethLatency (p - 48) pad loop path b else latencyMeasure sd p pad loop path b

/-! ### The commands -/

def execPtpMessageReceive (dt slot : Nat) (msg : List Byte) (code : Nat) (pos : Int) (s : State) : Host.Outcome State Fault Refusal :=
  s.act dt [.regs .dxs, .convs .dxs, .root, .free] (ptpMessageReceive slot msg code pos)

def execPtpTimeout (dt slot : Nat) (sync : Bool) (s : State) : Host.Outcome State Fault Refusal :=
  s.act dt [.regs .dxs, .root] (ptpTimeout slot sync)

def execPtpSend (dt slot : Nat) (out : PtpOut) (s : State) : Host.Outcome State Fault Refusal :=
  s.act dt [.regs .dxs, .convs .dxs, .root, .free] (ptpSend slot out.ty out.code out.pos)

def execLatencyMeasure (dt : Nat) (sd : Side) (p : Nat) (pad : Option Nat) (code : Nat) (loop : List (Nat × Nat)) (path : Nat)
    (s : State) : Host.Outcome State Fault Refusal :=
  s.act dt (Foot.sided sd [.regs .dxt, .convs .dxt, .ports .dxt, .raised .dxt, .lastCause, .host] [.regs .dxs, .convs .dxs, .ports .dxs, .inbox .dxs,
    .raised .dxs, .root]) (anyLatency sd p (pad.map fun c => (c, code)) loop path)

end Sys2Proof.Machine
end

