-- ==== Sys2Proof/Machine/Sessions.lean ====
section
/-! DEFINITION. The session commands, the KILL queue, report merging and evictions (R243 to R250, R259, R263). -/

namespace Sys2Proof.Machine

/-! ### Shared checks (R245, R246) -/

/-- Whether sessions of a job take commands: JOB_STATE, then REPLAY. While its context still runs at root B after HANDBACK, the tables
are B's and this root does not act for the job (log entry 174, DESIGN CHOICE). -/
def Block.jobTakes (b : Block) (j : Nat) : Option Nat :=
  let x := b.job j
  if !x.loaded || !x.sess || x.st == .halted || x.stopped then some Ss.jobState
  else if x.hold then some Ss.notActing
  else if x.replays then some Ss.replay
  else none

/-- The first of a list of conditions that fails. -/
def firstBad : List (Option Nat) → Option Nat
  | [] => none
  | some e :: _ => some e
  | none :: r => firstBad r

def failIf (c : Bool) (e : Nat) : Option Nat := if c then some e else none

/-- The result of a command that its checks let through. -/
def checked (cs : List (Option Nat)) (r : Unit → Nat × List (Nat × List Byte) × Block) : SessResult :=
  match firstBad cs with
  | some e => .error e
  | none => .ok (r ())

def cmdHandle (r : List Byte) : Nat := leAt r 4 4
def cmdTenant (r : List Byte) : Nat := leAt r 8 2
def cmdJob (r : List Byte) : Nat := leAt r 10 1
def cmdMaxtok (r : List Byte) : Nat := leAt r 11 1
def cmdPgroup (r : List Byte) : Nat := leAt r 12 2
def cmdTurnMax (r : List Byte) : Nat := leAt r 28 4
def cmdTtl (r : List Byte) : Nat := leAt r 32 4

/-- A tenant that is valid, of the job named, with no removal pending. -/
def Block.tenantOk (b : Block) (t j : Nat) : Bool :=
  let x := b.tenant t
  x.valid && x.job == j && !x.removing

def noFlags (s : Session) : Bool := !s.cancel && !s.park && !s.close && !s.fetch

def Block.addPend (b : Block) (j : Nat) (p : Pend) : Block := b.updJob j fun x => { x with pend := x.pend ++ [p] }

/-- A deferred effect stamped now. -/
def Block.pendNow (b : Block) (kind handle ticket : Nat) : Pend := ⟨kind, b.accepted, handle, ticket, 0, 0, 0, 0, 0⟩

/-! ### The commands (R245) -/

def openCmd (r : List Byte) (b : Block) : SessResult :=
  let j := cmdJob r
  let t := cmdTenant r
  checked [failIf (!b.tenantOk t j) Ss.noTenant, b.jobTakes j,
    failIf (cmdMaxtok r == 0 || cmdTurnMax r == 0 || cmdTtl r == 0) Ss.paramRange, failIf b.freeSlot.isNone Ss.noSlot] fun _ =>
    let slot := b.freeSlot.getD 0
    let b := b.updSess j slot fun s =>
      { Session.reset with gen := s.gen, st := Sess.open_, tenant := t, job := j, pgroup := cmdPgroup r, maxtok := cmdMaxtok r,
                           deadline := deadlineOf r 16, turnMax := cmdTurnMax r, ttl := cmdTtl r }
    let b := b.updTen j t fun t => { t with live := t.live + 1 }
    (j, [(4, leBytes 4 (handleOf slot (b.sess slot)))], b)

def admitCommand (r : List Byte) (b : Block) : SessResult :=
  let h := cmdHandle r
  let slot := slotOf h
  let s := b.sess slot
  let j := s.job
  checked [failIf (!b.handleOk h) Ss.badHandle, b.jobTakes j, failIf (s.st != Sess.open_ || s.park || s.close) Ss.badState,
    failIf (b.tenant s.tenant).frozen Ss.frozen, failIf (cmdMaxtok r == 0 || cmdTurnMax r == 0) Ss.paramRange] fun _ =>
    let b := b.updSess j slot fun s =>
      { s with maxtok := cmdMaxtok r, deadline := deadlineOf r 16, turnMax := cmdTurnMax r, turnOut := 0,
               turn := (s.turn + 1) % 65536, st := Sess.queued }
    (j, [], b.updJob j fun x => { x with queue := x.queue ++ [(slot, b.accepted)] })

def cancelCmd (r : List Byte) (b : Block) : SessResult :=
  let h := cmdHandle r
  let slot := slotOf h
  let s := b.sess slot
  let j := s.job
  checked [failIf (!b.handleOk h) Ss.badHandle, b.jobTakes j, failIf (s.st == Sess.open_) Ss.alreadyDone,
    failIf s.cancel Ss.cancelDup] fun _ =>
    let k : QKill := ⟨h, s.turn, b.accepted⟩
    let b := b.updSess j slot fun s => { s with cancel := true, cstamp := b.accepted }
    (j, [], (b.offerCross (killMark k)).updSs fun u => { u with kills := u.kills ++ [k] })

def parkCmd (r : List Byte) (b : Block) : SessResult :=
  let h := cmdHandle r
  let slot := slotOf h
  let s := b.sess slot
  let j := s.job
  checked [failIf (!b.handleOk h) Ss.badHandle, b.jobTakes j, failIf (s.st != Sess.open_ || !noFlags s) Ss.badState,
    failIf b.freeTicket.isNone Ss.parkFull] fun _ =>
    let i := b.freeTicket.getD 0
    let b := b.updTick i fun t => { t with st := 1, tenant := s.tenant, job := j }
    let ticket := ticketOf i (b.ticket i)
    let b := b.updSess j slot fun s => { s with park := true, ttl := if cmdTtl r == 0 then s.ttl else cmdTtl r }
    (j, [(4, leBytes 4 ticket)], b.addPend j (b.pendNow Pk.park h ticket))

/-- A ticket is current before its expiry (R263). -/
def Block.ticketPast (b : Block) (t : Nat) : Bool := decide (b.accepted ≥ (b.ticket (t % 2 ^ 22)).expiry)

def resumeCmd (r : List Byte) (b : Block) : SessResult :=
  let t := cmdHandle r
  let k := b.ticket (t % 2 ^ 22)
  let j := cmdJob r
  checked [failIf (!b.ticketOk t) Ss.badHandle, failIf (b.ticketPast t) Ss.expired, b.jobTakes j,
    failIf (!b.tenantOk k.tenant j) Ss.noTenant, failIf b.freeSlot.isNone Ss.noSlot] fun _ =>
    let slot := b.freeSlot.getD 0
    let b := b.unpark j slot t (cmdPgroup r)
    let h := handleOf slot (b.sess slot)
    (j, [(4, leBytes 4 h)], b.addPend j (b.pendNow Pk.fetch h t))

def closeCmd (r : List Byte) (b : Block) : SessResult :=
  let h := cmdHandle r
  let slot := slotOf h
  let s := b.sess slot
  let j := s.job
  checked [failIf (!b.handleOk h) Ss.badHandle, b.jobTakes j, failIf (s.st != Sess.open_ || !noFlags s) Ss.badState] fun _ =>
    let b := b.updSess j slot fun s => { s with close := true }
    (j, [], b.addPend j (b.pendNow Pk.close h 0))

/-- CLOSE of a park ticket: the record is discarded (R393). -/
def closeTicketCmd (r : List Byte) (b : Block) : SessResult :=
  let t := cmdHandle r
  let j := (b.ticket (t % 2 ^ 22)).job
  checked [failIf (!b.ticketOk t || b.ticketPast t) Ss.badHandle, failIf (b.job j).stopped Ss.jobState,
    failIf (b.job j).hold Ss.notActing, failIf ((b.job j).loaded && (b.job j).replays) Ss.replay] fun _ => (j, [], b.dropParked (t % 2 ^ 22))

/-- The fields of a record that QUERY returns. -/
def queryFields (bs : List Byte) : List (Nat × List Byte) :=
  [(1, slice bs 7 1), (8, slice bs 4 2), (10, slice bs 6 1), (11, slice bs 10 1), (12, slice bs 8 2), (16, slice bs 12 12),
    (28, slice bs 28 4), (32, slice bs 44 4)]

def queryCmd (r : List Byte) (b : Block) : SessResult :=
  let t := cmdHandle r
  if bit (leAt r 1 1) 1 then
    let i := t % 2 ^ 22
    let j := (b.ticket i).job
    checked [failIf (!b.ticketOk t || b.ticketPast t) Ss.badHandle, failIf (b.job j).stopped Ss.jobState] fun _ =>
      (j, queryFields (b.hostRead (b.parkAddr i) 64), b.countXfer .dxs chanParkRd 64 0)
  else
    let j := (b.sess (slotOf t)).job
    checked [failIf (!b.handleOk t) Ss.badHandle, failIf (b.job j).stopped Ss.jobState] fun _ =>
      (j, queryFields (b.sessRec (slotOf t)), b)

def queryTenantCmd (r : List Byte) (b : Block) : SessResult :=
  let t := b.tenant (cmdTenant r)
  checked [failIf (!t.valid) Ss.noTenant, failIf (b.job t.job).stopped Ss.jobState] fun _ =>
    (t.job, [(4, leBytes 4 t.rsv), (16, leBytes 8 t.bal), (24, leBytes 4 t.refill), (28, leBytes 8 t.cap)], b)

/-- TENANT_SET's effect on a tenant, as a pending effect. -/
def Block.tenantPend (b : Block) (r : List Byte) : Pend :=
  ⟨Pk.tenant, b.accepted, 0, 0, cmdTenant r, leAt r 1 1, sx 64 (leAt r 16 8), leAt r 24 4, leAt r 28 8⟩

/-- While no folio is open, TENANT_SET applies at once (R247). -/
def Job.closed (x : Job) : Bool := x.st == .loaded || x.st == .paused

def Block.setOrPend (b : Block) (j : Nat) (p : Pend) : Block :=
  if (b.job j).closed then b.setTenant j p else b.addPend j p

/-- A tenant of another job, or with a removal pending. -/
def Block.tenantTaken (b : Block) (t j : Nat) : Bool := (b.tenant t).valid && !b.tenantOk t j

def tenantSetCmd (r : List Byte) (b : Block) : SessResult :=
  let j := cmdJob r
  let t := cmdTenant r
  checked [b.jobTakes j, failIf (b.tenantTaken t j) Ss.noTenant] fun _ =>
    let p := b.tenantPend r
    (j, [], if (b.tenant t).valid then b.setOrPend j p
      else b.updTen j t fun _ =>
        { Tenant.reset with valid := true, frozen := bit p.flags 0, bal := clampNat 0 p.cap p.add, cap := p.cap, refill := p.refill,
                            job := j })

def tenantRemoveCmd (r : List Byte) (b : Block) : SessResult :=
  let j := cmdJob r
  let t := cmdTenant r
  checked [b.jobTakes j, failIf (!b.tenantOk t j) Ss.noTenant, failIf ((b.tenant t).live != 0) Ss.badState] fun _ =>
    let p := b.tenantPend r
    (j, [], (b.updTen j t fun t => { t with removing := true }).setOrPend j p)

/-! ### KILLs (R248, R259) -/

def Block.killGap (b : Block) : Nat := b.rf .dxs Reg.DXS_SS_KILL_GAP 15 0

/-- A queued KILL of a job that replays does not leave (R282). -/
def Block.killHeld (b : Block) (k : QKill) : Bool := (b.job (b.sess (slotOf k.handle)).job).replays

/-- The first queued KILL that may go leaves by every DOWN port, a gap after the one before. -/
def killSend (b : Block) : Block :=
  match takeFirst (fun k => !b.killHeld k) b.hub.ss.kills with
  | none => b
  | some (k, r) =>
    if b.hub.ss.killAt != 0 && b.now < b.hub.ss.killAt + b.killGap then b
    else ((b.offerAll .dxs (b.portsOf roleDown) (killMark k)).updSs fun u => { u with kills := r, killAt := b.now }).bump .dxs
      Reg.DXS_SS_KILL_CNT

/-- A KILL from above: root B notes the cancel and queues it; a tier node forwards it. -/
def killRelay (b : Block) : Block :=
  b.withMark .dxs .kill fun r b =>
    let k : QKill := ⟨r.mark.obj.toNat * 65536 + r.mark.arg.toNat, r.mark.tag.toNat, expandStamp (b.ht .dxs) r.mark.stamp⟩
    if isRoot b.dxs.role then
      if b.actingRoot || b.portRole r.port != roleCross then b
      else b.updSs fun u => { u with kills := u.kills ++ [k], relayed := u.relayed ++ [k] }
    else b.offerAll .dxs (b.portsOf roleDown) r.mark

/-! ### Merging reports (R250) -/

def ofReport (p job tag : Nat) (r : RxSheet) : Bool :=
  r.port == p && r.sheet.typ == tSessionList && r.sheet.obj == job && r.sheet.tag == tag

/-- Drops the first `n` sheets that satisfy a test. -/
def dropSheets (q : RxSheet → Bool) : Nat → List RxSheet → List RxSheet
  | _, [] => []
  | 0, l => l
  | n + 1, r :: l => if q r then dropSheets q n l else r :: dropSheets q (n + 1) l

/-- The sheets of a port's report message, if it is complete. -/
def Block.reportSheets (b : Block) (p job tag : Nat) : Option (List Sheet) :=
  let l := b.dxs.node.rxSheets.filter (ofReport p job tag)
  let i := l.findIdx fun r => r.sheet.last
  if i < l.length then some ((l.take (i + 1)).map RxSheet.sheet) else none

def Block.takeReportAt (b : Block) (p job tag : Nat) : Block :=
  match b.reportSheets p job tag with
  | none => b
  | some ss =>
    let rest := dropSheets (ofReport p job tag) ss.length b.dxs.node.rxSheets
    (b.updNode .dxs fun n => { n with rxSheets := rest }).freeCredits .dxs p 1 (bookedOf b.dxs.node.rxSheets - bookedOf rest)

/-- The entries in the body of a report sheet. -/
def sheetEntries (s : Sheet) : List Byte := (s.body.drop 4).take (8 * leAt s.body 2 2)

/-- The entries a sheet carries at most. -/
def reportPerSheet : Nat := 29

/-- A report message of entries of 8 bytes. -/
def reportMessage (job tag : Nat) (es : List Byte) : List Sheet :=
  let n := es.length / 8
  let m := max 1 ((n + reportPerSheet - 1) / reportPerSheet)
  (List.range m).map fun i =>
    let part := (es.drop (8 * reportPerSheet * i)).take (8 * reportPerSheet)
    ⟨tSessionList, 1, i == 0, i + 1 == m, 4 + part.length, job, tag, leBytes 1 1 ++ leBytes 1 0 ++ leBytes 2 (part.length / 8) ++ part⟩

/-- The ports whose reports a node merges: its own DOWN ports of the job. -/
def Block.mergeDown (b : Block) (job tag : Nat) : Option (List Byte × Block) :=
  let ps := b.jobPorts job
  if ps.isEmpty || ps.any fun p => (b.reportSheets p job tag).isNone then none
  else
    some (ps.flatMap fun p => ((b.reportSheets p job tag).getD []).flatMap sheetEntries, b.each ps fun b p => b.takeReportAt p job tag)

/-- The DONEs of a folio that root B withheld go on to the acting root. -/
def Block.relayWithheld (b : Block) (job tag : Nat) : Block :=
  b.each [0, 1] fun b s =>
    let i := b.done job s
    if i.live && i.sn % 65536 == tag then
      let n := sumN (i.waiting.map Prod.fst)
      let b := b.each i.waiting fun b w => b.offerCross (mkMark .done job tag w.2 w.1)
      b.updDone job s fun i => { i with waiting := [], sent := i.sent + n }
    else b

/-- The other root's merged report, at the acting root. -/
def Block.mergeCross (b : Block) (job tag : Nat) : Block :=
  match (b.portsOf roleCross).find? fun p => (b.reportSheets p job tag).isSome with
  | none => b
  | some p =>
    let es := ((b.reportSheets p job tag).getD []).flatMap sheetEntries
    (b.takeReportAt p job tag).updJob job fun x => if b.isA then { x with repB := some (tag, es) } else { x with repA := some (tag, es) }

/-- Merges the reports of a job and folio once all are there: upward at a tier node, into the root's own tree at a root. -/
def reportMerge (job tag : Nat) (b : Block) : Block :=
  if isRoot b.dxs.role then
    let b := match b.mergeDown job tag with
      | none => b
      | some (es, b) =>
        let b := b.updJob job fun x => if b.isA then { x with repA := some (tag, es) } else { x with repB := some (tag, es) }
        if b.actingRoot then b
        else (b.each (b.crossPort.toList) fun b p => b.queueSheets .dxs p (reportMessage job tag es)).relayWithheld job tag
    if b.actingRoot then b.mergeCross job tag else b
  else match b.mergeDown job tag with
    | none => b
    | some (es, b) =>
      let b := b.each b.upPortOf.toList fun b p => b.queueSheets .dxs p (reportMessage job tag es)
      let b := b.updJob job fun x => { x with repA := some (tag, es) }
      let own := [0, 1].filter fun s => (b.done job s).live && (b.done job s).sn % 65536 == tag
      b.each own fun b s => b.tryDone job (b.done job s).sn

/-! ### Evictions (R263, R282) -/

/-- The evictions of one millisecond. -/
def maxEvict : Nat := 16384

/-- One eviction: the ticket is freed, EVICTED posted, and an EVICT entry queued for the job if it is loaded. -/
def Block.evictOne (b : Block) (i : Nat) (t : Ticket) : Block :=
  let ticket := ticketOf i t
  let pg := leAt (b.hostRead (b.parkAddr i) 64) 8 2
  let x := b.job t.job
  let b := (b.postEvent (eventBytes Ev.evicted 0 t.job ticket x.sn t.expiry 0)).bump .dxs Reg.DXS_SS_EVICT_CNT
  let b := b.on x.loaded fun b => b.updJob t.job fun x => { x with evicts := x.evicts ++ [ticket * 65536 + pg] }
  b.dropParked i

/-- Whether a parked record may be evicted: expired, and its job not replaying. -/
def Block.evictable (b : Block) (t : Ticket) : Bool :=
  t.st == 2 && decide (t.expiry ≤ b.ht .dxs) && !((b.job t.job).loaded && (b.job t.job).replays)

/-- The parked records that may be evicted, the earliest expiry first, then by index (log entry 173, DESIGN CHOICE). -/
def Block.evictDue (b : Block) : List Nat :=
  (sortPairs ((b.hub.ss.tickets.filter fun e => b.evictable e.2).map fun e => (e.2.expiry, e.1))).map Prod.snd

/-- The millisecond boundary that the continuous count has passed: at most 16,384 records go, the rest stay behind. The lag is that of
the record that has waited longest, evicted or not. -/
def evictTick (b : Block) : Block :=
  let ms := b.ht .dxs / msUnit
  if !b.actingRoot || ms == b.hub.ss.evictMs then b
  else
    let now := b.ht .dxs
    let b := b.updSs fun u =>
      { u with evictMs := ms, tickets := u.tickets.map fun e =>
          if e.2.st == 2 then (e.1, { e.2 with rounds := wheelRounds e.2.expiry now }) else e }
    let due := b.evictDue
    let lag := sumN ((due.take 1).map fun i => (now - (b.ticket i).expiry) / 65536 / 1000)
    (b.hwMax .dxs Reg.DXS_SS_EVICT_LAG_MAX 0 lag).each (due.take maxEvict) fun b i => b.evictOne i (b.ticket i)

/-! ### The rows -/

def anyFlags (_ : Nat) : Bool := true

def execOpen (dt mb : Nat) (s : State) : Host.Outcome State Fault Refusal :=
  s.act dt [.regs .dxs, .jobs, .sess, .binder, .mbox] fun b => b.sessCommand mb 1 anyFlags openCmd

def execAdmitCmd (dt mb : Nat) (s : State) : Host.Outcome State Fault Refusal :=
  s.act dt [.regs .dxs, .jobs, .sess, .binder, .mbox] fun b => b.sessCommand mb 2 anyFlags admitCommand

def execCancel (dt mb : Nat) (s : State) : Host.Outcome State Fault Refusal :=
  s.act dt [.regs .dxs, .ports .dxs, .jobs, .sess, .binder, .mbox] fun b => b.sessCommand mb 3 anyFlags cancelCmd

def execPark (dt mb : Nat) (s : State) : Host.Outcome State Fault Refusal :=
  s.act dt [.regs .dxs, .jobs, .sess, .binder, .mbox] fun b => b.sessCommand mb 4 anyFlags parkCmd

def execResume (dt mb : Nat) (s : State) : Host.Outcome State Fault Refusal :=
  s.act dt [.regs .dxs, .dma .dxs, .jobs, .sess, .binder, .mbox, .host] fun b => b.sessCommand mb 5 anyFlags resumeCmd

def execClose (dt mb : Nat) (s : State) : Host.Outcome State Fault Refusal :=
  s.act dt [.regs .dxs, .jobs, .sess, .binder, .mbox] fun b => b.sessCommand mb 6 (fun f => !bit f 1) closeCmd

def execCloseTicket (dt mb : Nat) (s : State) : Host.Outcome State Fault Refusal :=
  s.act dt [.regs .dxs, .dma .dxs, .sess, .binder, .mbox, .host] fun b => b.sessCommand mb 6 (fun f => bit f 1) closeTicketCmd

def execQuery (dt mb : Nat) (s : State) : Host.Outcome State Fault Refusal :=
  s.act dt [.regs .dxs, .dma .dxs, .binder, .mbox] fun b => b.sessCommand mb 7 (fun f => !bit f 0) queryCmd

def execQueryTenant (dt mb : Nat) (s : State) : Host.Outcome State Fault Refusal :=
  s.act dt [.regs .dxs, .binder, .mbox] fun b => b.sessCommand mb 7 (fun f => bit f 0) queryTenantCmd

def execTenantSet (dt mb : Nat) (s : State) : Host.Outcome State Fault Refusal :=
  s.act dt [.regs .dxs, .jobs, .sess, .binder, .mbox] fun b => b.sessCommand mb 8 (fun f => !bit f 1) tenantSetCmd

def execTenantRemove (dt mb : Nat) (s : State) : Host.Outcome State Fault Refusal :=
  s.act dt [.regs .dxs, .jobs, .sess, .binder, .mbox] fun b => b.sessCommand mb 8 (fun f => bit f 1) tenantRemoveCmd

def execKillSend (dt : Nat) (s : State) : Host.Outcome State Fault Refusal :=
  s.act dt [.regs .dxs, .ports .dxs, .sess] killSend

def execKillRelay (dt : Nat) (s : State) : Host.Outcome State Fault Refusal :=
  s.act dt [.regs .dxs, .ports .dxs, .inbox .dxs, .sess] killRelay

def execReportMerge (dt job tag : Nat) (s : State) : Host.Outcome State Fault Refusal :=
  s.act dt [.regs .dxs, .ports .dxs, .sheets .dxs, .dones, .jobs] (reportMerge job tag)

def execEvictTick (dt : Nat) (s : State) : Host.Outcome State Fault Refusal :=
  s.act dt [.regs .dxs, .dma .dxs, .jobs, .sess, .host] evictTick

end Sys2Proof.Machine
end

