-- ==== Sys2Proof/Machine/Flags.lean ====
section
/-! DEFINITION. The status registers: every read-only register whose value the state gives at the moment of the read (R41, R75,
R98, R124, R125, R141, R166, R189, R190, R215, R216, R237, R238, R267, R268, R306, R307, R332, R333, R355, R373). The other
read-only registers are event counters and captured values, which the register file holds. -/

namespace Sys2Proof.Machine

/-- Chooses the view of an offset. -/
def pickView (off : Nat) : List (Nat × (Unit → Nat)) → Option Word
  | [] => none
  | (o, f) :: l => if o = off then some (w32 (f ())) else pickView off l

/-- Packs fields: each a value and the place of its least significant bit. -/
def packed (l : List (Nat × Nat)) : Nat := l.foldl (fun a x => a ||| (x.1 <<< x.2)) 0

def flag (c : Bool) (i : Nat) : Nat × Nat := (b2n c, i)

/-- An integer as a 32-bit field, saturating. -/
def satWord (v : Int) : Nat := (i32 (sat32 v)).toNat

/-! ### Spine ports and time transfer (R75, R98) -/

def LinkState.code : LinkState → Nat
  | .off => 0
  | .train => 1
  | .hunt => 2
  | .up => 3
  | .down => 4
  | .lost => 5
  | .timeOnly => 6

/-- A byte per class or channel, the first lowest. -/
def bytes4 (l : List Nat) : Nat := packed ((l.zip [0, 8, 16, 24]).map fun (v, i) => (satU 8 v, i))

def Block.spView (b : Block) (sd : Side) (off p : Nat) : Option Word :=
  let q := b.port sd p
  pickView off [
    (Reg.SP_STATUS, fun _ => packed [flag q.rx.uncorrFault 7, flag (!q.rx.resync.isEmpty) 6,
      flag (decide (q.sh.replay.length ≥ replaySize)) 5, flag q.sh.audit 4, flag (b.epochMismatch sd p) 3, (q.st.code, 0)]),
    (Reg.SP_PARTNER, fun _ => packed [flag q.rx.rxDown 19, (q.rx.lock, 16), (q.rx.epoch.toNat, 0)]),
    (Reg.SP_MQ_MAX, fun _ => bytes4 q.mqMax),
    (Reg.SP_MQ_OCC, fun _ => bytes4 ((List.range 4).map fun c => (q.tx.queue c).length)),
    (Reg.SP_CRED_AVAIL, fun _ => bytes4 ((List.range 4).map fun c =>
      (q.sh.credit.getD c 0 + 65536 - q.sh.sent.getD c 0) % 65536)),
    (Reg.SP_REPLAY_OCC, fun _ => satU 9 q.sh.replay.length)]

/-- The reference domain that a port carries. -/
def Block.domOf (b : Block) (sd : Side) (p : Nat) : Option Nat := [0, 1].find? fun d => b.domPort sd d == some p

def Block.domOfs (b : Block) (sd : Side) : Int :=
  let d := (b.clk sd).sel
  match b.domPort sd d, b.domPort sd (1 - d) with
  | some _, some _ => b.switchBias sd d (1 - d)
  | _, _ => 0

/-- R91: the fit domains disagree by more than SPLIT_LIM. -/
def Block.domSplit (b : Block) (sd : Side) : Bool :=
  b.fit sd (1 - (b.clk sd).sel) true && !withinPs (b.domOfs sd) (b.rf sd Reg.TT_SPLIT_LIM 15 0)

def Block.ttView (b : Block) (sd : Side) (off p : Nat) : Option Word :=
  let c := b.clk sd
  let e := (b.port sd p).echo
  pickView off [
    (Reg.TT_STATUS, fun _ => packed [flag c.seeded 9, flag (b.echoOf sd c.sel).qlStale 8,
      flag (c.fw48.natAbs == (b.fwLim48 sd).natAbs) 7, flag (b.domSplit sd) 6, flag c.hold 5,
      flag c.htValid 4, (c.sel, 3), (c.lock.code, 0)]),
    (Reg.TT_FW, fun _ => satWord c.fw),
    (Reg.TT_FW_AVG, fun _ => satWord (c.fwAvg / 65536)),
    (Reg.TT_DOM_OFS, fun _ => satWord (b.domOfs sd)),
    (Reg.TT_P_LAT, fun _ => packed [(satU 16 e.txlat, 16), (satU 16 e.rxlat, 0)]),
    (Reg.TT_P_THETA, fun _ => satWord e.theta),
    (Reg.TT_P_MPD, fun _ => satU 32 e.mpd.toNat),
    (Reg.TT_P_BIAS, fun _ => satWord e.bias),
    (Reg.TT_P_ECHO, fun _ =>
      let d := b.domOf sd p
      packed [flag (match d with | some d => b.fit sd d true | none => false) 31, flag e.valid 30, flag e.qlStale 29,
        (match d with | some d => b.rank sd d | none => 0, 28), (min e.kept 16, 0)]),
    (Reg.TT_P_QL, fun _ => packed [(e.qlLock, 16), (e.qlSsm, 8), (e.qlClass, 0)])]

/-! ### Root references and time outputs (R124, R125) -/

/-- Whether every activity component of a candidate is accepted. -/
def Block.actOk (b : Block) (i : Nat) : Bool :=
  let c := (b.cand i).tick b.now
  if b.candUse i == 0 then false
  else if i < 4 then (!b.usesPps i || c.ppsOk) && (!b.usesTen i || c.tenOk)
  else if i < 6 then b.ethUp (b.candEth i) && c.annAt.isSome && !c.annLost && c.syncAt.isSome && !c.syncLost
  else b.ethUp (i - 6) && c.esmcAt.isSome

def Block.rfView (b : Block) (off i : Nat) : Option Word :=
  let r := b.dxs.root
  let c := b.cand i
  let bias := match r.sel with
    | some s => if b.isTime s then (b.cand s).bias else 0
    | none => 0
  pickView off [
    (Reg.RF_STATUS, fun _ => packed [flag (bias != 0 && b.rf .dxs Reg.RF_CTRL 15 8 > 0) 12, flag r.ageValid 11, flag r.swExpired 10,
      flag (wbit (b.reg .dxs Reg.RF_FORCE) 3) 9, flag (b.dxs.role == .rootB && r.acting) 8, (r.sel.getD 15, 4),
      (b.dxs.node.clk.lock.code, 0)]),
    (Reg.RF_BIAS, fun _ => satWord bias),
    (Reg.RF_FW_EXT, fun _ => (b.dxs.node.clk.fw48 % 65536).toNat),
    (Reg.RF_P_STATUS, fun _ => packed [(c.rxSsm % 16, 20), (c.rxClass % 256, 12), flag c.extQl 7, flag c.freqOk 6, flag (b.actOk i) 5,
      flag (b.isFar i) 4, flag (b.selectable i) 3, flag (b.isTime i) 2, flag c.valid 1, flag c.qual 0]),
    (Reg.RF_P_THETA_NS, fun _ => satWord (c.theta / 65536)),
    (Reg.RF_P_THETA_FR, fun _ => (c.theta % 65536).toNat),
    (Reg.RF_P_SEQ, fun _ => c.seq),
    (Reg.RF_P_FREQ, fun _ => satWord c.fref),
    (Reg.RF_P_BIAS, fun _ => satWord c.bias)]

def Block.toView (b : Block) (sd : Side) (off o : Nat) : Option Word :=
  let x := b.outp sd o
  let pps := sd == .dxs && b.outMode sd o == 1
  pickView off [
    (toReg sd Reg.TO_STATUS, fun _ => packed [flag x.late 3, flag x.done 2, flag (pps && !(b.cand (b.outSrc o)).ppsOk) 1,
      flag (b.outActive sd o) 0]),
    (toReg sd Reg.TO_CAL, fun _ => satU 16 x.cal)]

/-! ### Interval measurement (R129, R141) -/

def MeasState.code : MeasState → Nat
  | .idle => 0
  | .armed => 1
  | .running => 2
  | .done => 3
  | .refused => 4

/-- A quotient of the calibration codes: exact or rounded where they differ, and free where a calibration that was not good
left them equal (log entry 18, DESIGN CHOICE). -/
def Block.calQuot (b : Block) (c : Conv) (n : Int) : Int :=
  if c.d1 = 0 ∧ c.d2 = 0 then 0
  else if c.d1 < c.d2 then divR n (c.d2 - c.d1)
  else if c.d2 < c.d1 then divR (-n) (c.d1 - c.d2)
  else Config.freeValue b.free

/-- The scale, free where it does not lie within the field. -/
def Block.cvScale (b : Block) (c : Conv) : Nat :=
  let s := b.calQuot c 500000
  if 0 ≤ s ∧ s < 65536 then s.toNat else Config.freeValue b.free % 65536

/-- Whether a software measurement holds a converter. -/
def Block.swBusy (b : Block) (cv : Nat) : Bool :=
  let m := b.dxs.sw
  (m.st.busy && fld m.ctrl 1 0 == cv) || (m.fq.busy && fld m.fqCtrl 1 0 == cv)

/-- Whether a measurement holds a converter, armed or open: a user that waits for edges without end keeps its converter armed (R136,
log entry 168, DEDUCED). -/
def Block.cvBusy (b : Block) (sd : Side) (cv : Nat) : Bool :=
  let port (p : Nat) : Bool := p < nPorts sd && (b.port sd p).st.keepsTime
  match sd with
  | .dxt => cv < 2 && port cv
  | .dxs =>
    if cv < 4 then b.swBusy cv || (isRoot b.dxs.role && b.candUse cv != 0)
    else if cv < ethConv 0 then port (cv - 4)
    else isRoot b.dxs.role && ((List.range 4).any fun s => b.ptpOn s && b.ptpEth s == cv - ethConv 0)

/-- The entry of the software measurement that RESSEL names. -/
def SwMeas.entry (m : SwMeas) (i : Nat) : Option Stamp := if i ≤ 8 then m.edges[i]? else none

/-- A word of the result's HT group. -/
def SwMeas.res (m : SwMeas) (i k : Nat) : Nat :=
  match m.entry i with
  | some s => if s.merged then 0 else (htWord s.time k).toNat
  | none => 0

def Block.tmView (b : Block) (sd : Side) (off i : Nat) : Option Word :=
  let t := tmBase sd
  let c := b.conv sd i
  let m := b.dxs.sw
  let d := b.dxt.die
  (pickView off [
    (t + Reg.TM_CV_STATUS, fun _ => packed [flag c.calGood 31, flag c.linValid 30, flag (b.cvBusy sd i) 29, (c.d2 % 1024, 10),
      (c.d1 % 1024, 0)]),
    (t + Reg.TM_CV_SCALE, fun _ => b.cvScale c),
    (t + Reg.TM_CV_OFFSET, fun _ => satWord (b.calQuot c (500000 * ((c.d2 : Int) - 2 * c.d1)))),
    (t + Reg.TM_CV_INL, fun _ => packed [(satU 16 c.inlRaw, 16), (satU 16 c.inlCorr, 0)])]).orElse fun _ =>
  match sd with
  | .dxt => pickView off [
    (t + Reg.TM_LT_STATUS, fun _ => packed [flag d.ltFail 1, flag d.ltDone 0])]
  | .dxs => pickView off [
    (t + Reg.TM_SW_STATUS, fun _ => packed [(m.edges.length - 1, 4), flag m.calBad 3, (m.st.code, 0)]),
    (t + Reg.TM_SW_RES, fun _ => m.res i 0),
    (t + Reg.TM_SW_RES + 4, fun _ => m.res i 1),
    (t + Reg.TM_SW_RES + 8, fun _ => m.res i 2),
    (t + Reg.TM_SW_RES_FLAGS, fun _ => packed [(m.seq % 65536, 16), flag (match m.entry i with | some s => s.bad | none => false) 2,
      flag (match m.entry i with | some s => s.merged | none => false) 1, flag (m.entry i).isSome 0]),
    (t + Reg.TM_FQ_STATUS, fun _ => packed [flag m.fqInvalid 3, (m.fq.code, 0)]),
    (t + Reg.TM_FQ_FREQ, fun _ => satWord m.fqFreq),
    (t + Reg.TM_FQ_N, fun _ => satU 17 m.fqN),
    (t + Reg.TM_FQ_SEQ, fun _ => m.fqSeq)]

/-! ### The step block and die clocking (R41, R166) -/

def StepState.code : StepState → Nat
  | .unbound => 0
  | .idle => 1
  | .armed => 2
  | .running => 3
  | .ended => 4
  | .doneSent => 5

/-- Whether a completed folio's egress awaits its commit list (R33, R34). -/
def StepCtx.egressHeld (s : StepCtx) : Bool :=
  s.ran && match s.st with
    | .running => s.list < s.next
    | .ended => s.list < s.next
    | .unbound => false
    | .idle => s.list ≤ s.next
    | .armed => s.list ≤ s.next
    | .doneSent => s.list ≤ s.next

/-- Whether an OPPOINT for a folio to come is held. -/
def StepCtx.opchg (s : StepCtx) : Bool :=
  match s.opp with
  | some (j, _) => s.next ≤ j
  | none => false

def Block.stepView (b : Block) (off : Nat) : Option Word :=
  let s := b.dxt.step
  pickView off [
    (Reg.STEP_STATUS, fun _ => packed [flag s.egressHeld 7, flag s.opchg 6, flag s.withheld 5, (s.st.code, 0)]),
    (Reg.STEP_JOB, fun _ => packed [flag b.bound 8, (if b.bound then s.job else 0, 0)])]

def Bringup.code : Bringup → Nat
  | .reset => 0
  | .colophon => 1
  | .waitLock => 2
  | .ltCal => 3
  | .xcal => 4
  | .ready => 5
  | .failed => 6

/-- Whether the colophon has been sampled since reset. -/
def DieClk.sampled (d : DieClk) : Bool := d.bring != .reset && d.bring != .colophon

def DieClk.lcount (d : DieClk) : Nat := if d.geom = 0 then 64 else 56

def Block.dcView (b : Block) (off i : Nat) : Option Word :=
  let d := b.dxt.die
  let r := d.region i
  let x := d.xing i
  pickView off [
    (Reg.DC_STATUS, fun _ => packed [(d.opp, 20), (d.seam, 17), flag (d.regions.any fun e => e.2.crit) 15,
      flag (d.regions.any fun e => e.2.warn) 14, flag d.relockFrom.isSome 13, flag d.vreq.isSome 12, flag b.seamOvr 11, flag b.lOvr 10,
      flag d.xcalFail 9, flag d.colBad 8, (d.bring.code, 0)]),
    (Reg.DC_COL_INFO, fun _ => if d.sampled then packed [(d.lcount, 8), (d.geom % 4, 4), (d.grade % 4, 0)] else 0),
    (Reg.DC_R_STATUS, fun _ =>
      if d.sampled then packed [flag (d.isDisabled i) 31, (halfOf i, 30), flag (parks d.seam (halfOf i)) 29, flag r.warn 28, flag r.crit 27,
        (if d.isDisabled i then 255 else d.logicalIdx i, 16), (r.low, 0)] else 0),
    (Reg.DC_R_MARGIN, fun _ => packed ((r.margins.zip [0, 8, 16, 24]).map fun (v, k) => (v % 64, k))),
    (Reg.DC_R_CYCLE, fun _ => r.cyc - Config.freeValue b.free % 3),
    (Reg.DC_X_STATUS, fun _ =>
      if d.sampled then packed [flag (d.xUsed i) 31, flag x.fail 30, (xClass i, 28), (b.classL (xClass i), 20), (min x.lambda 15, 16),
        (min x.occMax 16, 0)] else 0),
    (Reg.DC_X_SLACK, fun _ => match x.slack with | some v => satWord v | none => 0x7FFFFFFF)]

/-! ### Sync objects, folds, records, sessions and faults at the die (R190, R216, R238, R268, R307) -/

/-- A slot's flags and outcome: DONE as its object's kind has it (R173, R190). -/
def Block.slotCode (b : Block) (obj s : Nat) : Nat :=
  let v := b.syncSlot obj s
  packed [flag v.used 7, flag v.sent 6, flag (b.objDone obj s) 5, (v.outcome % 16, 0)]

/-- Whether DONE is withheld for an endpoint (R178). -/
def Block.endptHold (b : Block) : Bool :=
  let s := b.dxt.step
  s.st == .ended && s.next ≥ 2 && !b.endpointsDone s.next

def Block.syView (b : Block) (off o : Nat) : Option Word :=
  let x := nget syncReset b.dxt.sync o
  pickView off [
    (Reg.SY_OBJ_COUNT, fun _ => packed [(x.s1.count % 65536, 16), (x.s0.count % 65536, 0)]),
    (Reg.SY_OBJ_STATE, fun _ => packed [(b.slotCode o 1, 8), (b.slotCode o 0, 0)]),
    (Reg.SY_STATUS, fun _ => packed [flag b.dxt.syncAudit 2, flag (b.dxt.die.regions.any fun e => e.2.waitHeld) 1, flag b.endptHold 0])]

/-- Whether a slot of a binding awaits result data. -/
def Block.resPend (b : Block) (f s : Nat) : Bool :=
  wbit (b.reg .dxt Reg.DXT_FD_B_CFG f) 31 && b.rf .dxt Reg.DXT_FD_B_RLEN 20 0 f != 0 && (b.bindSlot f s).sent && !(b.bindSlot f s).acked

def Block.fdDieView (b : Block) (off f : Nat) : Option Word :=
  let x := nget bindReset b.dxt.binds f
  let st (s : BindSlot) : Nat := packed [flag s.sent 7, flag s.acked 6]
  pickView off [
    (Reg.DXT_FD_B_STATUS, fun _ => packed [(st x.s1, 8), (st x.s0, 0)]),
    (Reg.DXT_FD_B_RCVD, fun _ => satU 21 (b.bindSlot f b.curSlot).bytes),
    (Reg.DXT_FD_STATUS, fun _ => packed [flag ((List.range 64).any fun f => b.resPend f 0 || b.resPend f 1) 1,
      flag (b.dxt.binds.any fun e => e.2.s0.reading || e.2.s1.reading) 0])]

/-- Whether report sheets wait at a port of the die; a report is read, and a commit list written, within one command. -/
def Block.reportPend (b : Block) : Bool :=
  [0, 1].any fun p => (b.port .dxt p).sh.queue.any fun s => s.typ == tSessionList

def Block.dieView (b : Block) (off i : Nat) : Option Word :=
  match off / 4096 with
  | 1 => b.stepView off
  | 2 => b.spView .dxt off i
  | 3 => b.ttView .dxt off i
  | 4 => b.toView .dxt off i
  | 5 => b.tmView .dxt off i
  | 6 => b.dcView off i
  | 7 => b.syView off i
  | 8 => b.fdDieView off i
  | 9 =>
    if (off == Reg.FP_S_VAL_LO || off == Reg.FP_S_VAL_HI) && !wbit (b.reg .dxt Reg.FP_STREAMS) i then some 0
    else pickView off [(Reg.FP_PEND, fun _ => min b.dxt.step.recs.length 16)]
  | 10 => pickView off [(Reg.DXT_SS_STATUS, fun _ => packed [flag b.reportPend 0])]
  | 11 => pickView off [(Reg.DXT_FQ_STATUS, fun _ => packed [(b.dxt.lastCause, 8),
      flag (b.epochMismatch .dxt 0 || b.epochMismatch .dxt 1) 3, flag b.dxt.ckSeen 2, flag ((b.port .dxt 1).st == .lost) 1,
      flag ((b.port .dxt 0).st == .lost) 0])]
  | _ => none

/-! ### In-service tests (R333) -/

def Block.eye (b : Block) (sd : Side) (l : Nat) : Eye := nget eyeReset (b.node sd).eyes l

def Eye.warn (e : Eye) (v h : Nat) : Bool := e.swept && (e.v < v || e.h < h)

/-- Regions with a failing replica monitor, from `lo` on; monitors are keyed region * 4 + monitor. -/
def Dxt.repFail (d : Dxt) (lo : Nat) : Nat :=
  d.reps.foldl (fun a e => let r := e.1 / 4
    if e.2.2.2 && lo ≤ r && r < lo + 32 then a ||| 2 ^ (r - lo) else a) 0

def Block.isView (b : Block) (sd : Side) (off l : Nat) : Option Word :=
  let t := isBase sd
  let v := b.rf sd (t + Reg.IS_EYE_CFG) 15 8
  let h := b.rf sd (t + Reg.IS_EYE_CFG) 7 0
  let n := b.node sd
  let e := b.eye sd l
  let stale := (n.eyes.any fun e => e.2.stale) || (n.convs.any fun c => c.2.linStale) ||
    (match sd with | .dxt => b.dxt.reps.any fun r => r.2.2.1 | .dxs => b.hub.fd.engines.any fun e => e.2.stale)
  let fails := sd == .dxt && (b.dxt.repFail 0 != 0 || b.dxt.repFail 32 != 0)
  (pickView off [
    (t + Reg.IS_EYE, fun _ => packed [flag e.swept 31, flag e.stale 30, flag (e.warn v h) 29, (e.h % 64, 16), (e.v % 4096, 0)]),
    (t + Reg.IS_STATUS, fun _ => packed [flag stale 2, flag fails 1, flag (n.eyes.any fun e => e.2.warn v h) 0])]).orElse fun _ =>
  match sd with
  | .dxt => pickView off [(t + Reg.IS_REP_FAIL_LO, fun _ => b.dxt.repFail 0), (t + Reg.IS_REP_FAIL_HI, fun _ => b.dxt.repFail 32)]
  | .dxs => none

/-! ### The common block (R355) -/

/-- The common block; its ROC registers show the copies of the last slow-clock edge. -/
def Block.cmView (b : Block) (sd : Side) (off : Nat) : Option Word :=
  let r := (b.node sd).regs
  pickView off [
    (Reg.CM_APPLY_ST, fun _ => packed [flag r.run.isSome 31, flag r.queued.isSome 30] ||| (b.reg sd Reg.CM_APPLY_ST).toNat),
    (Reg.CM_CRC_EN, fun _ => (b.reg sd Reg.CM_CRC_EN).toNat &&& crcBlocks b sd),
    (Reg.CM_CRC_STALE, fun _ => (b.reg sd Reg.CM_CRC_STALE).toNat &&& crcBlocks b sd),
    (Reg.CM_TEMP, fun _ => (b.node sd).roc.temp.toNat),
    (Reg.CM_VMON, fun _ => (b.node sd).roc.vmon.toNat)]

/-! ### DMA (R373) -/

def ChanState.code : ChanState → Nat
  | .idle => 0
  | .active => 1
  | .halted => 2
  | .draining => 3

def Block.chanMask (b : Block) (sd : Side) (q : ChanState → Bool) : Nat :=
  (List.range (nChans sd)).foldl (fun a c => if q (b.chan sd c).st then a ||| 2 ^ c else a) 0

/-- Free blocks of the engine's buffer: its own and the pool's. -/
def Block.dmFree (b : Block) (sd : Side) : Nat :=
  bufBlocks sd - sumN ((b.node sd).dma.chans.map fun e => e.2.plain)

def Block.dmView (b : Block) (sd : Side) (off : Nat) : Option Word :=
  let d := (b.node sd).dma
  let t := dmBase sd
  let o := off - t
  if o < 0x100 then pickView off [
    (t + Reg.DM_STATUS, fun _ => packed [(b.chanMask sd fun s => s == .halted, 16),
      (b.chanMask sd fun s => s == .active || s == .draining, 0)]),
    (t + Reg.DM_BUF, fun _ => packed [(if sd == .dxs then d.lent else 0, 16), (satU 9 (b.dmFree sd), 0)]),
    (t + Reg.DM_RD_BYTES_LO, fun _ => d.rdBytes),
    (t + Reg.DM_RD_BYTES_HI, fun _ => d.rdBytes / 2 ^ 32),
    (t + Reg.DM_WR_BYTES_LO, fun _ => d.wrBytes),
    (t + Reg.DM_WR_BYTES_HI, fun _ => d.wrBytes / 2 ^ 32)]
  else
    let x := b.chan sd ((o - 0x100) / 0x30)
    pickView ((o - 0x100) % 0x30) [
      (0x1C, fun _ => packed [(x.st.code, 30), (x.cause, 24), (x.dir, 16), (satU 16 x.held, 0)]),
      (0x20, fun _ => x.err),
      (0x24, fun _ => x.err / 2 ^ 32)]

/-! ### Folio timing, gatherings, folds and sequencers at a DX-S48 (R40, R189, R215, R237) -/

def JobState.code : JobState → Nat
  | .unloaded => 0
  | .loaded => 1
  | .running => 2
  | .deciding => 3
  | .paused => 4
  | .halted => 5

/-- A job stopped for a restart shows PAUSED (R299). -/
def Job.shown (x : Job) : Nat := if x.stopped then JobState.code .paused else x.st.code

/-- An operating-point change is held, or emitted for a folio that has not launched. -/
def Job.oppPending (x : Job) : Bool :=
  x.opp.isSome || match x.oppFor with
    | some f => decide (x.launched.getD 0 < f)
    | none => false

def Block.ftView (b : Block) (off j : Nat) : Option Word :=
  let x := b.job j
  pickView off [(Reg.FT_STATUS, fun _ => packed [flag x.lastLate 7, flag x.oppPending 6, (x.shown, 0)])]

def GInst.code (i : GInst) : Nat := if !i.live then 0 else if i.outcome != 0 then 3 else if i.fwd then 2 else 1

def Block.gaView (b : Block) (off g : Nat) : Option Word :=
  let i := b.inst g (b.rf .dxs Reg.GA_SLOTSEL 0 0)
  let st := if i.outcome != 0 then i.dstamp else max i.stamp i.stampB
  let queued := b.countQueued g i
  pickView off [
    (Reg.GA_S_STATE, fun _ => packed [(i.sn % 65536, 16), (i.outcome % 16, 4), (i.code, 0)]),
    (Reg.GA_S_RECV, fun _ => satU 17 i.recv),
    (Reg.GA_S_FWD, fun _ => satU 17 (i.sent - queued)),
    (Reg.GA_S_PEND, fun _ => satU 17 (i.held + sumN (i.waiting.map Prod.fst) + queued)),
    (Reg.GA_S_LATE, fun _ => satU 17 i.late),
    (Reg.GA_S_STAMP, fun _ => (htWord st 0).toNat),
    (Reg.GA_S_STAMP + 4, fun _ => (htWord st 1).toNat),
    (Reg.GA_S_STAMP + 8, fun _ => (htWord st 2).toNat),
    (Reg.GA_S_RECV_B, fun _ => satU 17 i.recvB),
    (Reg.GA_S_LATE_B, fun _ => satU 17 i.lateB),
    (Reg.GA_STATUS, fun _ => packed [flag b.hub.gaOver 1, flag b.hub.gaAudit 0]),
    (Reg.GA_IDS_USED, fun _ =>
      (b.dxs.node.regs.file.eff.filter fun e => e.1 % 2 ^ 21 == Reg.GA_CFG && wbit e.2 31).length)]

def Block.fdView (b : Block) (off e : Nat) : Option Word :=
  let u := b.hub.fd
  let x := b.eng e
  pickView off [
    (Reg.DXS_FD_STATUS, fun _ => packed [flag (u.recalled != 0) 2, flag (u.engines.any fun e => e.2.katFail) 1, flag u.audit 0]),
    (Reg.DXS_FD_BLK_FREE, fun _ => foldBlocks - b.blkHeld - b.blkLent),
    (Reg.DXS_FD_BLK_HELD, fun _ => b.blkHeld),
    (Reg.DXS_FD_BLK_RSVD, fun _ => b.blkRsvd),
    (Reg.DXS_FD_BLK_LENT, fun _ => b.blkLent),
    (Reg.DXS_FD_OPEN, fun _ => packed [(satU 11 u.openMax, 16), (satU 11 b.foldOpen, 0)]),
    (Reg.DXS_FD_E_STATUS, fun _ => packed [flag (b.engOn e) 31, flag x.run.isSome 30, flag x.kat 29, flag x.katFail 28,
      (satU 16 x.queue.length, 0)]),
    (Reg.DXS_FD_LANEOP_LO, fun _ => u.laneops),
    (Reg.DXS_FD_LANEOP_HI, fun _ => u.laneops / 2 ^ 32)]

/-- C_STATE.RUN: 0 idle, 1 issuing, 2 waiting, 3 stopped. -/
def Job.run (x : Job) : Nat :=
  if x.st == .halted || x.stopped then 3
  else if !x.active then 0
  else if x.wait == .none && x.dec.isNone then 1 else 2

/-- R220: the budget sum, rounded up. -/
def Block.budgetShown (b : Block) : Nat :=
  let q : Rat := (b.loadedJobs.filter fun j => b.ftPeriod j != 0).foldl
    (fun (a : Rat) j => a + mkRat (((b.job j).ipf * 1000000 : Nat) : Int) (b.ftPeriod j)) 0
  (-((-q).floor)).toNat

def Block.fsView (b : Block) (off j : Nat) : Option Word :=
  let x := b.job j
  let w := x.words.getD (b.rf .dxs Reg.FS_C_WSEL 3 0) 0
  pickView off [
    (Reg.FS_C_STATE, fun _ => packed [(x.pstat % 256, 24), flag x.sess 20, flag x.record 19, flag x.replays 18, (x.run, 16),
      (x.pc % 16384, 0)]),
    (Reg.FS_C_PROG, fun _ => packed [(x.len, 16), (x.base, 0)]),
    (Reg.FS_C_IPF, fun _ => x.ipf),
    (Reg.FS_C_SEG_MAX, fun _ => x.segMax),
    (Reg.FS_C_W_LO, fun _ => w),
    (Reg.FS_C_W_HI, fun _ => w / 2 ^ 32),
    (Reg.FS_BUDGET, fun _ => b.budgetShown),
    (Reg.FS_MEM_FREE, fun _ => 16384 - sumN (b.loadedJobs.map fun j => (b.job j).len)),
    (Reg.FS_STATUS, fun _ => packed [flag b.hub.path.solo 1,
      flag ((b.loadedJobs.any fun j => match (b.job j).dec with | some d => d.dseq.isSome | none => false) ||
        b.hub.path.gdecs.any fun g => g.dseq.isSome) 0])]

/-! ### Sessions, the quorum and the binder (R267, R306, R332) -/

def Block.ssView (b : Block) (off j : Nat) : Option Word :=
  let u := b.hub.ss
  pickView off [
    (Reg.DXS_SS_J_LIVE, fun _ => (b.jobSlots j).length),
    (Reg.DXS_SS_J_QUEUED, fun _ => (b.job j).queue.length),
    (Reg.DXS_SS_J_SRSV, fun _ => b.sessRsv j),
    (Reg.DXS_SS_J_TRSV, fun _ => b.tenRsv j),
    (Reg.DXS_SS_J_THROTTLED, fun _ => (b.slotsIn j fun s => s.st == 4).length),
    (Reg.DXS_SS_STATUS, fun _ => packed [
      flag (u.tickets.any fun t => b.evictable t.2 && t.2.expiry / msUnit ≤ u.evictMs) 3,
      flag (decide ((u.tickets.filter fun t => t.2.st != 0).length ≥ b.rf .dxs Reg.DXS_SS_PARK_CFG 22 0)) 2,
      flag (b.loadedJobs.any fun j => match (b.job j).dec with | some d => d.evWait | none => false) 1, flag (!u.audit.isEmpty) 0]),
    (Reg.DXS_SS_FREE_SLOTS, fun _ => 262144 - (u.slots.filter fun s => s.2.st != 0).length),
    (Reg.DXS_SS_PARKED, fun _ => (u.tickets.filter fun t => t.2.st == 2).length)]

def RestartState.code : RestartState → Nat
  | .none => 0
  | .stopped => 1
  | .restoring => 2
  | .ready => 3
  | .catchup => 4
  | .lost => 5
  | .fault => 6

/-- Whether a lone faulty vote stands: one voter present holds a part faulty that no verdict holds faulty. -/
def Block.loneStands (b : Block) : Bool :=
  b.hub.fq.votes.any fun v => b.voterPresent v.voter && !b.faulty v.subject &&
    ((b.votesOn v.subject).filter fun x => b.voterPresent x.voter).length == 1

def Block.fqView (b : Block) (off i : Nat) : Option Word :=
  let q := b.hub.fq
  let r := (b.job i).rst
  pickView off [
    (Reg.DXS_FQ_STATUS, fun _ => packed [flag (b.loadedJobs.any fun j => (b.job j).rst.short) 7, flag (decide (b.vlogRing.room 32 < 32)) 6,
      flag b.loneStands 5, flag (b.recorder none) 4,
      (b.presentVoters.foldl (fun a v => a ||| 2 ^ v) 0, 0)]),
    (Reg.DXS_FQ_V_WORD, fun _ => match q.log[i / 8]? with
      | some v => leAt (verdictBytes v) (4 * (i % 8)) 4
      | none => 0),
    (Reg.DXS_FQ_J_RST, fun _ => packed [(satU 16 r.left.length, 16), (r.cause, 8), flag r.short 5, flag r.fallback 4, (r.st.code, 0)])]

def bringReset (_ : Nat) : Nat := 0

/-- P_BRING of a port: 0 not expected, 1 expected, 2 ABSENT, 3 MISMATCH. -/
def Block.bring (b : Block) (p : Nat) : Nat := nget bringReset b.hub.bn.bring p

/-- The binder's role code. -/
def Role.bnCode : Role → Nat
  | .tier => 0
  | .rootA => 1
  | .rootB => 1
  | .memberC => 2

def Block.bnView (b : Block) (off p : Nat) : Option Word :=
  let n := b.hub.bn
  let ps := List.range 48
  pickView off [
    (Reg.BN_STATUS, fun _ => packed [(b.dxs.role.bnCode, 6), flag b.actingRoot 5, flag n.slice 4, (n.slot, 3), (n.boot, 0)]),
    (Reg.BN_TOPO, fun _ => match n.topo with | some t => t.crc | none => 0),
    (Reg.BN_BRINGUP, fun _ => packed [((ps.filter fun p => b.bring p == 2 || b.bring p == 3).length, 16),
      ((ps.filter fun p => b.bring p == 1 && b.upPort .dxs p).length, 0)]),
    (Reg.BN_MB_OWN, fun _ => packed ((List.range nMbox).map fun m => (b.own m % 4, 2 * m))),
    (Reg.BN_REM_OUT, fun _ => (n.rem.filter fun t => t.sentAt.isSome).length),
    (Reg.BN_P_BRING, fun _ => b.bring p)]

def Block.hubView (b : Block) (off i : Nat) : Option Word :=
  match off / 4096 with
  | 1 => b.ftView off i
  | 2 => b.spView .dxs off i
  | 3 => b.ttView .dxs off i
  | 4 => b.rfView off i
  | 5 => b.toView .dxs off i
  | 6 => b.tmView .dxs off i
  | 7 => b.gaView off i
  | 8 => b.fdView off i
  | 9 => b.fsView off i
  | 10 => b.ssView off i
  | 11 => b.fqView off i
  | 12 => b.bnView off i
  | _ => none

/-- What the state gives a read-only register at this moment; none where the register file holds it. -/
def Block.view (b : Block) (sd : Side) (off i : Nat) : Option Word :=
  if off / 4096 = 0 then b.cmView sd off
  else if off / 4096 = dmPage sd then b.dmView sd off
  else if off / 4096 = isBase sd / 4096 then b.isView sd off i
  else match sd with
    | .dxt => b.dieView off i
    | .dxs => b.hubView off i

end Sys2Proof.Machine
end

