-- ==== Sys2Proof/Machine/Physical.lean ====
section
/-! DEFINITION. Resets, the module's power, and its management commands (R324, R325, R377, R378, R381 to R386). -/

namespace Sys2Proof.Machine

def Block.updSm (b : Block) (f : Module → Module) : Block := { b with sm := f b.sm }

/-! ### Resets (R114, R325, R377) -/

/-- The whole DX-S48 resets. What is outside it stays: host memory, the module with its flash, and the other root, which acts
once root A has left (log entry 26, DESIGN CHOICE). -/
def Block.resetDxs (b : Block) : Block :=
  let acts := b.dxs.peerActs || (b.dxs.role == .rootA && b.hub.bn.boot == 1)
  { b with dxs := { Dxs.reset with peerActs := acts, hub := { Hub.reset with host := b.hub.host } } }

/-- PRST_N falls, which releases THERM_N. -/
def Block.assertPrst (b : Block) : Block := b.resetDxs.updSm fun m => { m with prst := false, therm := true }

def nodeReset (b : Block) : Block := b.assertPrst

/-- Nothing but the command holds PRST_N low: the rails are up, no hold, no pulse that runs. -/
def Block.mayRelease (b : Block) : Bool :=
  b.sm.powered && !b.sm.hold && match b.sm.resetEnd with
    | some t => decide (t ≤ b.now)
    | none => true

/-- The delays measured for outputs 0 to 8 (R121). -/
def withCals (outs : NMap TimeOut) (cals : List Nat) : NMap TimeOut :=
  (List.range 9).foldl (fun m i => nset outReset m i { TimeOut.reset with cal := cals.getD i 0 }) outs

/-- PRST_N rises; the output delays are measured anew (R121). The boot is the row BINDER_BOOT. -/
def nodeResetRelease (cals : List Nat) (b : Block) : Block :=
  if b.sm.prst || !b.mayRelease then b
  else
    let b := b.updSm fun m => { m with prst := true, resetEnd := none }
    b.updNode .dxs fun n => { n with outs := withCals n.outs cals }

/-- A full reset of the DX-T; the die's SRAM is not a part of it. -/
def dxtReset (b : Block) : Block :=
  { b with dxt := { Dxt.reset with die := { DieClk.reset with bring := .reset }, sram := b.dxt.sram } }

/-- Bring-up begins, and both ports train, since ENABLE resets to 1 (R75). -/
def dxtResetRelease (b : Block) : Block :=
  if b.dxt.die.bring != .reset then b
  else ((b.updDie fun d => { d with bring := .colophon }).enterTrain .dxt 0).enterTrain .dxt 1

/-! ### Power (R378, R381 to R384) -/

/-- The heater's power during warm-up and in regulation, 0.1 W. -/
def warmUp : Nat := 80
def steady : Nat := 30

/-- Power-down: PRST_N first, then the rails; the oscillator cools (R305). -/
def Block.powerDown (b : Block) : Block :=
  b.assertPrst.updSm fun m =>
    { m with powered := false, therm := true, resetEnd := none, rdy := false, heater := 0 }

/-- Power-up to step 5: the rails are up and PRST_N is low until NODE_RESET_RELEASE. -/
def Block.powerUp (b : Block) : Block :=
  if b.sm.powered then b else b.updSm fun m => { m with powered := true, rdy := false, heater := warmUp }

/-- The chip drives THERM_N: PRST_N is high and the binder's boot is over (R377; log entry 125, DEDUCED). -/
def Block.drives (b : Block) : Bool := b.sm.prst && b.hub.bn.boot != 0

/-- THERM_N falls at 110 °C and rises below 105 °C. -/
def Block.thermLevel (b : Block) : Block :=
  if b.sm.therm && b.drives && b.sm.c16 ≥ 110 * 16 then b.updSm fun m => { m with therm := false, thermAt := b.now }
  else if !b.sm.therm && b.sm.c16 < 105 * 16 then b.updSm fun m => { m with therm := true }
  else b

def thermAssert (c16 : Int) (b : Block) : Block :=
  if !b.sm.powered then b else (b.updSm fun m => { m with c16 := c16 }).thermLevel

/-- The level of MG_ALERT_N, which the controller reports as SMBALERT# (R385). -/
def Block.mgAlertN (b : Block) : Bool := b.sm.therm && b.hub.bn.boot != 2

/-- 100 ms in cycles. -/
def thermLimit : Nat := 100000000

def thermalPowerDown (b : Block) : Block :=
  if b.sm.powered && !b.sm.therm && b.now ≥ b.sm.thermAt + thermLimit then
    b.powerDown.updSm fun m => { m with on := false, status := m.status ||| 4 }
  else b

/-- OCXO_RDY changes; the heater then regulates, or warms up. -/
def ocxoRdyChange (rdy : Bool) (b : Block) : Block :=
  if !b.sm.powered then b else b.updSm fun m => { m with rdy := rdy, heater := if rdy then steady else warmUp }

/-- The start threshold and the shut-down range, mV. -/
def startMv : Nat := 38500
def lowMv : Nat := 36000
def highMv : Nat := 63000

def modulePowerUp (mv : Nat) (b : Block) : Block :=
  let b := b.updSm fun m => { m with vin := mv }
  if b.sm.mgmt || mv ≤ startMv || mv > highMv then b else (b.updSm fun m => { m with mgmt := true, on := true }).powerUp

def inputShutdown (mv : Nat) (b : Block) : Block :=
  let b := b.updSm fun m => { m with vin := mv }
  if lowMv ≤ mv && mv ≤ highMv then b
  else b.powerDown.updSm fun m => { m with mgmt := false, hold := false, status := m.status ||| 2, reply := none }

/-! ### PMBus (R385, R386) -/

/-- A command that reaches the controller. -/
def Block.pmbus (b : Block) (f : Block → Block) : Block := b.on b.sm.mgmt f

def Block.reply (b : Block) (code : Nat) (bs : List Byte) : Block := b.updSm fun m => { m with reply := some (code, bs) }

/-- A command refused with a communication fault. -/
def Block.commFault (b : Block) : Block := b.updSm fun m => { m with status := m.status ||| 1, reply := none }

def Pm.statusWord : Nat := 0x79
def Pm.readVin : Nat := 0x88
def Pm.readIin : Nat := 0x89
def Pm.readTemp : Nat := 0x8D
def Pm.readPin : Nat := 0x97
def Pm.revision : Nat := 0x98
def Pm.mfrId : Nat := 0x99
def Pm.flashRd : Nat := 0xD2
def Pm.ocxo : Nat := 0xD4
def Pm.modrec : Nat := 0xD5

def operationOn (b : Block) : Block := b.pmbus fun b => (b.updSm fun m => { m with on := true }).powerUp

def operationOff (b : Block) : Block :=
  b.pmbus fun b => (b.on b.sm.powered Block.powerDown).updSm fun m => { m with on := false }

def clearFaults (b : Block) : Block := b.pmbus fun b => b.updSm fun m => { m with status := 0 }

/-- STATUS_WORD, with the bits that PMBus gives it (log entry 31, PRESUMED): 13 input, 11 power not good, 6 off, 2 temperature,
1 communication. -/
def Module.word (m : Module) : Nat :=
  packed [flag (bit m.status 1) 13, flag (!m.powered) 11, flag (!m.powered) 6, flag (bit m.status 2 || !m.therm) 2, flag (bit m.status 0) 1]

def statusWord (b : Block) : Block := b.pmbus fun b => b.reply Pm.statusWord (leBytes 2 b.sm.word)

def readVin (b : Block) : Block := b.pmbus fun b => b.reply Pm.readVin (leBytes 2 (Config.pmbusWord Pm.readVin b.sm.vin))

def readTemperature1 (b : Block) : Block := b.pmbus fun b => b.reply Pm.readTemp (leBytes 2 (Config.pmbusWord Pm.readTemp b.sm.c16))

/-- A quantity that the model does not hold: a free value. -/
def Block.readFree (b : Block) (code : Nat) : Block :=
  (b.reply code (leBytes 2 (Config.pmbusWord code (Config.freeValue b.free)))).useFree

def readIin (b : Block) : Block := b.pmbus fun b => b.readFree Pm.readIin

def readPin (b : Block) : Block := b.pmbus fun b => b.readFree Pm.readPin

def pmbusRevision (b : Block) : Block := b.pmbus fun b => b.reply Pm.revision (leBytes 1 (Config.pmbusWord Pm.revision 0))

def mfrId (b : Block) : Block := b.pmbus fun b => b.reply Pm.mfrId Config.mfrId

/-- MFR_DX_RESET: PRST_N low for 1 to 65,535 ms; another time is a communication fault. -/
def mfrDxReset (ms : Nat) (b : Block) : Block :=
  b.pmbus fun b =>
    if 1 ≤ ms && ms ≤ 65535 then b.assertPrst.updSm fun m => { m with resetEnd := some (b.now + ms * 1000000) } else b.commFault

def mfrDxHold (b : Block) : Block := b.pmbus fun b => b.assertPrst.updSm fun m => { m with hold := true }

def mfrDxRelease (b : Block) : Block := b.pmbus fun b => b.updSm fun m => { m with hold := false }

def mfrDxOcxo (b : Block) : Block := b.pmbus fun b => b.reply Pm.ocxo (leBytes 1 (b2n b.sm.rdy) ++ leBytes 1 b.sm.heater)

def mfrDxModrec (b : Block) : Block := b.pmbus fun b => b.reply Pm.modrec b.sm.modrec

/-- The flash's bytes: 16 MiB. -/
def flashSize : Nat := 16777216

/-- A flash transfer is taken: held, and 1 to 128 bytes. -/
def Block.flashTakes (b : Block) (n : Nat) : Bool := b.sm.mgmt && b.sm.hold && decide (1 ≤ n) && decide (n ≤ 128)

/-- A flash transfer that reaches beyond the flash. -/
def Block.flashBeyond (b : Block) (addr n : Nat) : Bool := b.flashTakes n && decide (addr + n > flashSize)

def mfrDxFlashWr (addr : Nat) (bytes : List Byte) (b : Block) : Block :=
  b.pmbus fun b =>
    if b.flashTakes bytes.length then b.updSm fun m => { m with flash := memWriteN m.flash addr bytes } else b.commFault

def mfrDxFlashRd (addr len : Nat) (b : Block) : Block :=
  b.pmbus fun b => if b.flashTakes len then b.reply Pm.flashRd (memReadN b.sm.flash addr len) else b.commFault

/-! ### PERST_N (R377) -/

def perstNChange (level : Bool) (b : Block) : Block := b.updSm fun m => { m with perst := level }

/-! ### The rows -/

def execNodeReset (dt : Nat) (s : State) : Host.Outcome State Fault Refusal :=
  s.act dt (Foot.dxsAll ++ [.module]) nodeReset

def execNodeResetRelease (dt : Nat) (cals : List Nat) (s : State) : Host.Outcome State Fault Refusal :=
  s.act dt [.outs .dxs, .module] (nodeResetRelease cals)

def execDxtReset (dt : Nat) (s : State) : Host.Outcome State Fault Refusal :=
  s.act dt Foot.dxtAll dxtReset

def execDxtResetRelease (dt : Nat) (s : State) : Host.Outcome State Fault Refusal :=
  s.act dt [.ports .dxt, .sheets .dxt, .eyes .dxt, .die] dxtResetRelease

def execThermAssert (dt : Nat) (c16 : Int) (s : State) : Host.Outcome State Fault Refusal :=
  s.act dt [.module] (thermAssert c16)

def execThermalPowerDown (dt : Nat) (s : State) : Host.Outcome State Fault Refusal :=
  s.act dt (Foot.dxsAll ++ [.module]) thermalPowerDown

def execOcxoRdyChange (dt : Nat) (rdy : Bool) (s : State) : Host.Outcome State Fault Refusal :=
  s.act dt [.module] (ocxoRdyChange rdy)

def execModulePowerUp (dt mv : Nat) (s : State) : Host.Outcome State Fault Refusal :=
  s.act dt [.module] (modulePowerUp mv)

def execInputShutdown (dt mv : Nat) (s : State) : Host.Outcome State Fault Refusal :=
  s.act dt (Foot.dxsAll ++ [.module]) (inputShutdown mv)

def execOperationOn (dt : Nat) (s : State) : Host.Outcome State Fault Refusal :=
  s.act dt [.module] operationOn

def execOperationOff (dt : Nat) (s : State) : Host.Outcome State Fault Refusal :=
  s.act dt (Foot.dxsAll ++ [.module]) operationOff

def execClearFaults (dt : Nat) (s : State) : Host.Outcome State Fault Refusal :=
  s.act dt [.module] clearFaults

def execStatusWord (dt : Nat) (s : State) : Host.Outcome State Fault Refusal :=
  s.act dt [.module] statusWord

def execReadVin (dt : Nat) (s : State) : Host.Outcome State Fault Refusal :=
  s.act dt [.module] readVin

def execReadIin (dt : Nat) (s : State) : Host.Outcome State Fault Refusal :=
  s.act dt [.module, .free] readIin

def execReadTemperature1 (dt : Nat) (s : State) : Host.Outcome State Fault Refusal :=
  s.act dt [.module] readTemperature1

def execReadPin (dt : Nat) (s : State) : Host.Outcome State Fault Refusal :=
  s.act dt [.module, .free] readPin

def execPmbusRevision (dt : Nat) (s : State) : Host.Outcome State Fault Refusal :=
  s.act dt [.module] pmbusRevision

def execMfrId (dt : Nat) (s : State) : Host.Outcome State Fault Refusal :=
  s.act dt [.module] mfrId

def execMfrDxReset (dt ms : Nat) (s : State) : Host.Outcome State Fault Refusal :=
  s.act dt (Foot.dxsAll ++ [.module]) (mfrDxReset ms)

def execMfrDxFlashWr (dt addr : Nat) (bytes : List Byte) (s : State) : Host.Outcome State Fault Refusal :=
  if s.hall.flashBeyond addr bytes.length then .fault .flashAddress else s.act dt [.module, .flash] (mfrDxFlashWr addr bytes)

def execMfrDxFlashRd (dt addr len : Nat) (s : State) : Host.Outcome State Fault Refusal :=
  if s.hall.flashBeyond addr len then .fault .flashAddress else s.act dt [.module] (mfrDxFlashRd addr len)

def execMfrDxHold (dt : Nat) (s : State) : Host.Outcome State Fault Refusal :=
  s.act dt (Foot.dxsAll ++ [.module]) mfrDxHold

def execMfrDxRelease (dt : Nat) (s : State) : Host.Outcome State Fault Refusal :=
  s.act dt [.module] mfrDxRelease

def execMfrDxOcxo (dt : Nat) (s : State) : Host.Outcome State Fault Refusal :=
  s.act dt [.module] mfrDxOcxo

def execMfrDxModrec (dt : Nat) (s : State) : Host.Outcome State Fault Refusal :=
  s.act dt [.module] mfrDxModrec

def execPerstNChange (dt : Nat) (level : Bool) (s : State) : Host.Outcome State Fault Refusal :=
  s.act dt [.module] (perstNChange level)

end Sys2Proof.Machine
end

