-- ==== Sys2Proof/Machine/DieClocking.lean ====
section
/-! DEFINITION. The die-clocking commands (R142 to R165): bring-up calibrations, region cycles and crossings, overrides,
voltage and relock, margins. -/

namespace Sys2Proof.Machine

/-! ### Colophon (R145, R146) -/

def colophonCrcOk (bs : List Byte) : Bool := bs.length == 32 && crc32c (bs.take 28) == leAt bs 28 4

/-- DISABLED fits the geometry: none in L64, one in each row in L56. -/
def disabledFits (geom disabled : Nat) : Bool :=
  if geom == 0 then disabled == 0
  else (List.range 8).all fun i => ((List.range 8).filter fun j => bit disabled (8 * i + j)).length == 1

/-- The colophon is sampled at reset release and checked. -/
def colophonSample (bs : List Byte) (b : Block) : Block :=
  if b.dxt.die.bring != .colophon then b
  else
    let geom := bits (leAt bs 17 1) 1 0
    let dis := leAt bs 8 8
    let ok := colophonCrcOk bs && geom ≤ 1 && disabledFits geom dis
    let b := (((b.hw .dxt Reg.DC_COL_SERIAL_LO 0 (w32 (leAt bs 0 4))).hw .dxt Reg.DC_COL_SERIAL_HI 0 (w32 (leAt bs 4 4))).hw
      .dxt Reg.DC_COL_MASK_LO 0 (w32 dis)).hw .dxt Reg.DC_COL_MASK_HI 0 (w32 (dis / 2 ^ 32))
    let b := b.updDie fun d =>
      { d with geom := geom, grade := bits (leAt bs 16 1) 1 0, disabled := dis, colBad := !ok,
               bring := if ok then .waitLock else .failed }
    if ok then b else b.raiseWhenUp Cause.colophonBad

/-! ### Launch tree (R138, R164) -/

/-- The measurements of a loop, and the attempts that they may take. -/
def treeMeas : Nat := 16
def treeTries : Nat := 64

/-- The distance in 2^-16 ns below which a stop is not resolved (R134). -/
def stopGap : Nat := 2 * 65536

/-- The start and the eight stops of a measurement, as stamps on its calibration. -/
def Block.treeStamps (b : Block) (t : TreeTry) : List Int :=
  let c := { b.conv .dxt treeConv with d1 := t.1, d2 := t.2.1 }
  (t.2.2.take 9).map fun e => (c.stamp (b.htAfter .dxt e.1) e.2 (b.clk .dxt).fw b.free : Int)

/-- Eight laps of a measurement in 2^-16 ns; none where it has to be repeated: a bad calibration, or less than eight resolved
stops. -/
def Block.treeLap (b : Block) (t : TreeTry) : Option Int :=
  let l := b.treeStamps t
  if calIsGood t.1 t.2.1 && l.length == 9 && (l.zip l.tail).all fun (x, y) => x + stopGap ≤ y then some (l.getD 8 0 - l.getD 0 0)
  else none

/-- The sum of a loop's 16 measurements, and the attempts that it took; no sum where 64 attempts do not give them. -/
def Block.treeSum (b : Block) (ts : List TreeTry) : Option Int × Nat :=
  (ts.take treeTries).foldl (fun (acc : List Int × Nat) t =>
    if acc.1.length ≥ treeMeas then acc
    else match b.treeLap t with
      | some l => (acc.1 ++ [l], acc.2 + 1)
      | none => (acc.1, acc.2 + 1)) ([], 0) |> fun (l, n) => (if l.length == treeMeas then some (sumI l) else none, n)

/-- The one-way estimate of a region, fs: half of its mean lap less the reference loop's; the sums are of 16 measurements of eight
laps, in 2^-16 ns. -/
def treeDelay (ref lap : Int) : Int := divR ((lap - ref) * 1000000) (2 * treeMeas * 8 * 65536)

/-- The largest delay that a trim can absorb: 4,000 ps in fs. -/
def treeLimit : Int := 4000000

/-- Whether the launch tree may be calibrated: LOCKED after the colophon (R324). -/
def Block.treeDue (b : Block) : Bool :=
  ((b.dxt.die.bring == .waitLock && (b.clk .dxt).lock == .locked) || b.dxt.die.bring == .ltCal) && (b.conv .dxt treeConv).linValid

/-- The calibration, once the converter's first linearity table is complete (R131). -/
def launchTreeCal (ref : List TreeTry) (tries : List (List TreeTry)) (b : Block) : Block :=
  if !b.treeDue then b
  else
    let sums := (List.range 64).map fun r => b.treeSum (tries.getD r [])
    let us := sums.map fun s => match (b.treeSum ref).1, s.1 with
      | some c, some l => some (treeDelay c l)
      | _, _ => none
    let b := (b.useFree).measured .dxt treeConv ((b.treeSum ref).2 + sumN (sums.map Prod.snd))
    let b := b.each ((List.range 64).zip us) fun b (r, u) => match u with
      | some u =>
        let b := b.hw .dxt (tmBase .dxt + Reg.TM_LT_RESULT) r (w32 (bits (i32 u).toNat 23 0))
        if u ≤ treeLimit then b.hw .dxt Reg.DC_R_TRIM r (w32 (bits (i32 (roundOpen (treeLimit - u) 4000)).toNat 9 0)) else b
      | none => b
    let ok := us.all fun u => match u with
      | some u => decide (u ≤ treeLimit)
      | none => false
    let b := b.updDie fun d =>
      { d with ltDone := us.all Option.isSome, ltFail := !ok, bring := if ok then .xcal else .failed }
    if ok then b else b.raiseWhenUp Cause.ltFail

/-! ### Crossing calibration (R153, R154) -/

/-- The largest λ measured for a crossing. -/
def lambdaOf (lams : List (Nat × Nat)) (x : Nat) : Option Nat :=
  let l := (lams.filter fun e => e.1 == x).map Prod.snd
  if l.isEmpty then none else some (maxN l)

/-- Whether a crossing passes: λmax at most L - 2. -/
def Block.xPasses (b : Block) (lams : List (Nat × Nat)) (x : Nat) : Bool :=
  match lambdaOf lams x with
  | some l => l + 2 ≤ b.classL (xClass x)
  | none => false

def crossingCal (lams : List (Nat × Nat)) (b : Block) : Block :=
  if b.dxt.die.bring != .xcal then b
  else
    let used := b.dxt.die.usedXings
    let ok := used.all fun x => b.xPasses lams x
    let b := b.each used fun b x =>
      b.updXing x fun c => { c with lambda := satU 4 ((lambdaOf lams x).getD 15), fail := !b.xPasses lams x }
    let b := b.updDie fun d => { d with xcalFail := !ok, bring := if ok then .ready else .failed }
    if ok then b else b.raiseWhenUp Cause.xcalFail

/-- A changed latency override: crossing calibration is repeated before the die is READY again. -/
def DieClk.recalibrate (d : DieClk) : DieClk :=
  { d with bring := if d.bring == .ready || (d.bring == .failed && !d.colBad && !d.ltFail) then .xcal else d.bring }

/-- What a completed L_OVR pair does: nothing while bound, and nothing with a latency outside 4 to 15 (R154). -/
def doneLOvr (b : Block) (v idx : Nat) (w : Word) : Option Block :=
  if b.bound then none
  else if [fld w 3 0, fld w 7 4, fld w 11 8].all fun l => decide (4 ≤ l) then
    some ((b.setGuarded .dxt v idx w).updDie DieClk.recalibrate)
  else none

def lOverride (off : Nat) (w : Word) (b : Block) : Block :=
  if pairOf .dxt off == some Reg.DC_L_OVR then b.guardWrite .dxt off 0 w doneLOvr else b

/-- What a completed SEAM_OVR pair does: accepted only while unbound, and with EN only a code 0 to 4 (R158). -/
def doneSeamOvr (b : Block) (v idx : Nat) (w : Word) : Option Block :=
  if b.bound || (wbit w 3 && fld w 2 0 ≥ 5) then none else some (b.setGuarded .dxt v idx w)

def seamOverride (off : Nat) (w : Word) (b : Block) : Block :=
  if pairOf .dxt off == some Reg.DC_SEAM_OVR then b.guardWrite .dxt off 0 w doneSeamOvr else b

/-! ### Region cycles (R143, R144, R150, R156, R157) -/

/-- The slot of crossing `x` that its receiver needs at its cycle `c`; none where it needs none. -/
def Block.neededSlot (b : Block) (x c : Nat) : Option Nat :=
  let l := b.classL (xClass x)
  let seam := b.dxt.die.seam
  let src := halfOf (x / 16)
  if c < l then none
  else if xClass x == 1 && halves seam src then (if (c - l) % 2 == 0 then some ((c - l) / 2) else none)
  else some (c - l)

/-- Whether a crossing stalls its receiver at cycle `c`. -/
def Block.missing (b : Block) (c x : Nat) : Bool :=
  !parks b.dxt.die.seam (halfOf (x / 16)) &&
    match b.neededSlot x c with
    | some s => !((b.dxt.die.xing x).fifo.any fun e => e.1 == s)
    | none => false

/-- Releases the slot that a cycle needs. -/
def Block.release (b : Block) (c x : Nat) : Block :=
  match b.neededSlot x c with
  | some s => b.updXing x fun k =>
      { k with fifo := k.fifo.filter fun e => e.1 != s, out := ((k.fifo.find? fun e => e.1 == s).bind Prod.snd) }
  | none => b.updXing x fun k => { k with out := none }

/-- The receiver's cycle at which a slot is released. -/
def Block.releaseCycle (b : Block) (x s : Nat) : Nat :=
  let l := b.classL (xClass x)
  if xClass x == 1 && halves b.dxt.die.seam (halfOf (x / 16)) then 2 * s + l else s + l

/-- Writes a slot into a crossing, noting the occupancy and the slack. -/
def Block.writeSlot (b : Block) (x s : Nat) (word : Option Nat) : Block :=
  match xingDst x with
  | none => b
  | some r =>
    let rx := b.region r
    let slack : Int := (b.releaseCycle x s : Int) - ((rx.cyc + rx.held : Nat) : Int)
    b.updXing x fun k =>
      { k with fifo := k.fifo ++ [(s, word)], occMax := max k.occMax (k.fifo.length + 1),
               slack := some (match k.slack with
                 | some m => min m slack
                 | none => slack) }

/-- What a region sends on a crossing in its cycle `c`. -/
def Block.sendWord (b : Block) (c x : Nat) (word : Option Nat) : Block :=
  let seam := b.dxt.die.seam
  let dst := halfOf ((xingDst x).getD 0)
  if parks seam dst then
    if word.isSome then (b.bump .dxt Reg.DC_PARK_DROP_CNT).raiseDxt Cause.parkedTraffic else b
  else if xClass x == 1 && halves seam dst then
    if c % 2 == 0 then b.writeSlot x (c / 2) word
    else if word.isSome then (b.bump .dxt Reg.DC_SEAM_RATE_CNT).raiseDxt Cause.seamRate
    else b
  else b.writeSlot x c word

/-- A squall ends at the first period that is not stretched (R143). -/
def Block.countPeriod (b : Block) (r stretch drop : Nat) : Block :=
  let b := b.hwMax .dxt Reg.DC_R_DEPTH_MAX r (min drop 255)
  let n := (b.region r).squall
  if stretch > 30 then b.updRegion r fun x => { x with squall := x.squall + 1 }
  else if n > 0 then
    ((b.updRegion r fun x => { x with squall := 0 }).bump .dxt Reg.DC_R_SQUALL_CNT r).bump .dxt Reg.DC_R_STRETCH_CNT r n
  else b

/-- The end cycle of a region's half. -/
def Block.endCycle (b : Block) (r : Nat) : Nat := if halfOf r == 0 then b.dxt.die.ends.1 else b.dxt.die.ends.2

/-- A held period. -/
def Block.holdPeriod (b : Block) (r : Nat) : Block := b.updRegion r fun x => { x with held := x.held + 1 }

/-- Delivers an edge: the needed slots are released, the cycle begins, and its words are sent. -/
def Block.deliverEdge (b : Block) (r : Nat) (sends : List (Nat × Nat)) : Block :=
  let c := (b.region r).cyc
  let d := b.dxt.die
  let b := b.each ((d.inbound r).filter fun x => !parks d.seam (halfOf (x / 16))) fun b x => b.release c x
  let b := b.updRegion r fun x => { x with cyc := x.cyc + 1, held := 0 }
  b.each (d.outbound r) fun b x => b.sendWord c x ((sends.find? fun e => e.1 == x % 16).map Prod.snd)

/-- The rule of R150 before an edge, and the waits of R175. -/
def regionCycle (r stretch drop : Nat) (sends : List (Nat × Nat)) (b : Block) : Block :=
  let d := b.dxt.die
  if !d.clocked r then b
  else
    let b := b.countPeriod r stretch drop
    let x := b.region r
    if !x.started || x.ended || x.cyc ≥ b.endCycle r then b
    else match (d.inbound r).find? (b.missing x.cyc) with
      | some i => ((b.bump .dxt Reg.DC_R_STALL_CNT r).bump .dxt Reg.DC_X_STALL_CNT i).holdPeriod r
      | none =>
        if (d.outbound r).any fun o => (d.xing o).fifo.length ≥ 16 then (b.bump .dxt Reg.DC_R_HOLD_CNT r).holdPeriod r
        else
          let b := b.evalWaits r
          if (b.region r).waitHeld then (b.bump .dxt Reg.SY_WAIT_HOLD_CNT).holdPeriod r else b.deliverEdge r sends

/-- Every region of the running halves has ended. -/
def Block.allEnded (b : Block) : Bool := b.dxt.die.runningRegions.all fun r => (b.region r).ended

/-- A region has executed its half's end cycle; with the last one the folio's compute ends (R22, R38). -/
def regionEnd (r : Nat) (b : Block) : Block :=
  if b.dxt.step.st != .running || !b.dxt.die.clocked r || !(b.region r).started || (b.region r).cyc < b.endCycle r then b
  else
    let b := b.updRegion r fun x => { x with ended := true }
    if b.allEnded then (b.updStep fun s => { s with st := .ended }).requestHigher else b

/-! ### Voltage and relock (R38, R162) -/

/-- The requested voltage is reached. A binding that waited for it retargets now (R279). -/
def voltageAck (b : Block) : Block :=
  let b := b.updDie fun d => { d with vreq := none, vreqLate := false }
  if b.dxt.die.retargetDue then (b.updDie fun d => { d with retargetDue := false }).retarget b.dxt.die.opp else b

/-- Relock is complete; a retarget that still waits for its voltage has not begun. -/
def relockComplete (b : Block) : Block := if b.dxt.die.retargetDue then b else b.relocked

/-- No acknowledgement of a higher-voltage request within 100 µs. -/
def vreqTimeout (b : Block) : Block :=
  match b.dxt.die.vreq with
  | some (_, t, true) =>
    if b.now ≥ t + 100000 && !b.dxt.die.vreqLate then
      (b.updDie fun d => { d with vreqLate := true }).raiseDxt Cause.vreqTimeout
    else b
  | _ => b

/-! ### Margins (R165) -/

/-- Whether a region is in warning under a threshold: its latest code on some monitor lies below it (R165). -/
def Region.warned (x : Region) (warn : Nat) : Bool := x.margins.any fun c => c < warn

/-- A region after a measurement of its four monitors: a monitor keeps it critical from `cnt` codes below `crit` in a row to
its first code that is not below. -/
def Region.measure (x : Region) (codes : List Nat) (warn crit cnt : Nat) : Region :=
  let runs := (codes.zip x.critRun).map fun (c, n) => if c < crit then n + 1 else 0
  let x := { x with margins := codes, low := codes.foldl min x.low, critRun := runs }
  { x with warn := x.warned warn,
           critMon := ((codes.zip runs).zip (List.range 4)).map fun ((c, n), i) => c < crit && (n ≥ cnt || x.critMon.getD i false) }

def marginMeasure (r c0 c1 c2 c3 : Nat) (b : Block) : Block :=
  if !b.dxt.die.clocked r then b
  else
    let cfg := b.reg .dxt Reg.DC_MARGIN_CFG
    let was := b.region r
    let x := was.measure ([c0, c1, c2, c3].map fun c => min c 63) (fld cfg 5 0) (fld cfg 13 8) (fld cfg 23 16)
    let b := b.updRegion r fun _ => x
    let b := if x.warn && !was.warn then b.bump .dxt Reg.DC_MARGIN_WARN_CNT else b
    if x.crit && !was.crit then b.raiseDxt Cause.marginCrit else b

/-! ### The commands -/

def execColophonSample (dt : Nat) (bytes : List Byte) (s : State) : Host.Outcome State Fault Refusal :=
  s.act dt [.regs .dxt, .ports .dxt, .raised .dxt, .die, .lastCause] (colophonSample bytes)

def execLaunchTreeCal (dt : Nat) (ref : List TreeTry) (tries : List (List TreeTry)) (s : State) :
    Host.Outcome State Fault Refusal :=
  s.act dt [.regs .dxt, .ports .dxt, .convs .dxt, .raised .dxt, .die, .lastCause, .free] (launchTreeCal ref tries)

def execCrossingCal (dt : Nat) (lams : List (Nat × Nat)) (s : State) : Host.Outcome State Fault Refusal :=
  s.act dt [.regs .dxt, .ports .dxt, .raised .dxt, .die, .lastCause] (crossingCal lams)

def execLOverride (dt off : Nat) (w : Word) (s : State) : Host.Outcome State Fault Refusal :=
  s.act dt [.regs .dxt, .die] (lOverride off w)

def execSeamOverride (dt off : Nat) (w : Word) (s : State) : Host.Outcome State Fault Refusal :=
  s.act dt [.regs .dxt] (seamOverride off w)

def execRegionCycle (dt r stretch drop : Nat) (sends : List (Nat × Nat)) (s : State) : Host.Outcome State Fault Refusal :=
  s.act dt [.regs .dxt, .ports .dxt, .raised .dxt, .die, .sync, .lastCause] (regionCycle r stretch drop sends)

def execRegionEnd (dt r : Nat) (s : State) : Host.Outcome State Fault Refusal :=
  s.act dt [.regs .dxt, .step, .die] fun b => (regionEnd r b).watchDone

def execVoltageAck (dt : Nat) (s : State) : Host.Outcome State Fault Refusal :=
  s.act dt [.regs .dxt, .step, .die] fun b => (voltageAck b).watchDone

def execRelockComplete (dt : Nat) (s : State) : Host.Outcome State Fault Refusal :=
  s.act dt [.regs .dxt, .die] relockComplete

def execVreqTimeout (dt : Nat) (s : State) : Host.Outcome State Fault Refusal :=
  s.act dt [.regs .dxt, .ports .dxt, .raised .dxt, .die, .lastCause] vreqTimeout

def execMarginMeasure (dt r c0 c1 c2 c3 : Nat) (s : State) : Host.Outcome State Fault Refusal :=
  s.act dt [.regs .dxt, .ports .dxt, .raised .dxt, .die, .lastCause] (marginMeasure r c0 c1 c2 c3)

end Sys2Proof.Machine
end

