-- ==== Sys2Proof/Machine/Operands.lean ====
section
/-! DEFINITION. The operand of a register access: what a read of a window offset returns (R335 to R338, R345, R358). -/

namespace Sys2Proof.Machine

/-- The window of a part: 256 KiB or 2 MiB (R334). -/
def windowSize : Side → Nat
  | .dxt => 0x40000
  | .dxs => 0x200000

/-- The program memory window of a timing root (R358). -/
def pmBase : Nat := 0x20000
def pmSize : Nat := 0x20000

def inProgram (sd : Side) (off : Nat) : Bool := sd == .dxs && pmBase ≤ off && off < pmBase + pmSize

def Block.progRead (b : Block) (off : Nat) : Word :=
  let o := off - pmBase
  w32 (nget progZero b.hub.prog (o / 8) / (if o % 8 = 4 then 2 ^ 32 else 1))

/-- The complement address of a guarded register: its reset value, with what differs from reset in the value. -/
def Block.complementRead (b : Block) (sd : Side) (v idx : Nat) : Word :=
  let c := regReset sd (regKey idx (v + 4))
  c ^^^ (b.reg sd v idx ^^^ regReset sd (regKey idx v))

/-- Which copy of a staged register a read returns (R338). -/
def Block.viewEffect (b : Block) (sd : Side) : Bool := wbit (b.reg sd Reg.CM_CTRL) 0

/-- How many instances a selector shows, for the selectors whose field can name more (log entry 21, DESIGN CHOICE). -/
def instCount (sd : Side) (sel : Nat) : Nat :=
  if sel == Reg.SP_PORTSEL || sel == Reg.TT_PORTSEL then nPorts sd
  else if sel == toReg sd Reg.TO_OUTSEL then nOuts sd
  else if sel == tmBase sd + Reg.TM_CVSEL then nConvs sd
  else if sel == isBase sd + Reg.IS_LANESEL then (match sd with | .dxt => 4 | .dxs => 96)
  else if sd == .dxs && sel == Reg.BN_PORTSEL then 48
  else 65536

/-- Whether the instance that a register's selector names exists. -/
def Block.instOk (b : Block) (sd : Side) (r : RegRow) : Bool :=
  match r.sel with
  | some s => (b.reg sd s).toNat < instCount sd s
  | none => true

/-- The value that a register row reads as. -/
def Block.rowRead (b : Block) (sd : Side) (r : RegRow) : Word :=
  let idx := b.selIdx sd r
  match r.acc with
  | .ro => (b.view sd r.off idx).getD (b.reg sd r.off idx)
  | .roc => (b.view sd r.off idx).getD (b.reg sd r.off idx)
  | .rw => (b.view sd r.off idx).getD (b.reg sd r.off idx)
  | .rws => if b.viewEffect sd then b.reg sd r.off idx else b.staged sd r.off idx
  | .lk => if b.viewEffect sd then b.reg sd r.off idx else b.staged sd r.off idx
  | .wg => match pairOf sd r.off with
    | some v => if v == r.off then b.reg sd r.off idx else b.complementRead sd v idx
    | none => b.reg sd r.off idx

/-- A read of one aligned word; a hole and a page that no block occupies read 0. -/
def Block.regRead (b : Block) (sd : Side) (off : Nat) : Word :=
  let off := off % windowSize sd / 4 * 4
  if inProgram sd off then (if isRoot b.dxs.role then b.progRead off else 0)
  else match decodeReg b sd off with
    | some r => if b.instOk sd r then b.rowRead sd r else 0
    | none => 0

/-- Whether a block, or the program memory, occupies the page of an offset in the node's role (R337). -/
def Block.occupied (b : Block) (sd : Side) (off : Nat) : Bool :=
  if inProgram sd off then isRoot b.dxs.role
  else decodeSize sd (off / 4096) != 0 &&
    match sd with
    | .dxt => true
    | .dxs => isRoot b.dxs.role || !([0x1, 0x4, 0x9, 0xA].contains (off / 4096))

end Sys2Proof.Machine
end

