-- ==== Sys2Proof/Machine/Sync.lean ====
section
/-! DEFINITION. The sync-object commands of a DX-T (R173 to R178). -/

namespace Sys2Proof.Machine

/-- A write of ARRIVE: object [13:0], increment [23:16], 0 meaning 1 (R174). A DMA completion pulse arrives the same way with
increment 1. -/
def syncArrive (obj inc : Nat) (b : Block) : Block :=
  let inc := inc % 256
  (b.hw .dxt Reg.SY_ARRIVE 0 (w32 (inc * 65536 + obj % 16384))).arrive (obj % 16384) (if inc == 0 then 1 else inc)

/-- A write of WAIT: object [13:0], logical region [21:16], PREV [22] (R175). -/
def syncWait (w : Word) (b : Block) : Block :=
  let obj := fld w 13 0
  let b := b.hw .dxt Reg.SY_WAIT 0 (w32 (w.toNat &&& 0x7F3FFF))
  if objKind b obj == 0 || objKind b obj > 4 then b.syncBad
  else match b.dxt.die.physical (fld w 21 16) with
    | none => b
    | some r =>
      let slot := if wbit w 22 then (b.curSlot + 1) % 2 else b.curSlot
      b.updRegion r fun x => { x with waits := x.waits ++ [⟨obj, slot, x.cyc - 1, false⟩] }

/-- The first wait that holds a logical region and whose object is done is released. -/
def waitRelease (lr : Nat) (b : Block) : Block :=
  match b.dxt.die.physical lr with
  | none => b
  | some r => match (b.region r).waits.find? fun w => w.held && b.objDone w.obj w.slot with
    | some w => b.releaseWait r w
    | none => b

/-- A received COMPLETE (R177). -/
def completeReceive (b : Block) : Block :=
  b.withMark .dxt .complete fun r b =>
    let objs := b.endpoints r.mark.obj.toNat
    if objs.isEmpty then b.bump .dxt Reg.SY_NOEP_CNT
    else match b.liveFolio r.mark.tag with
      | some k => b.each objs fun b o =>
          b.takeComplete o k (bits r.mark.arg.toNat 3 0) (expandStamp (b.ht .dxt) r.mark.stamp)
      | none => b

def execSyncArrive (dt obj inc : Nat) (s : State) : Host.Outcome State Fault Refusal :=
  s.act dt [.regs .dxt, .ports .dxt, .raised .dxt, .sync, .binds, .lastCause] (syncArrive obj inc)

def execSyncWait (dt : Nat) (w : Word) (s : State) : Host.Outcome State Fault Refusal :=
  s.act dt [.regs .dxt, .ports .dxt, .raised .dxt, .die, .lastCause] (syncWait w)

def execWaitRelease (dt lr : Nat) (s : State) : Host.Outcome State Fault Refusal :=
  s.act dt [.die, .sync] (waitRelease lr)

def execCompleteReceive (dt : Nat) (s : State) : Host.Outcome State Fault Refusal :=
  s.act dt [.regs .dxt, .inbox .dxt, .step, .sync, .binds] fun b => (completeReceive b).watchDone

end Sys2Proof.Machine
end

