-- ==== Sys2Proof/Machine/Registers.lean ====
section
/-! DEFINITION. Register writes (R335 to R338, R341, R344 to R346, R349): what a written word does, locks, the guarded pairs of
the fence epoch and the quorum, and the running configuration CRC (R350 to R352). -/

namespace Sys2Proof.Machine

/-! ### Locks (R344, R304) -/

/-- The lock bit of a port's EPOCH. -/
def lockBit (p : Nat) : Nat := if p = 0 then 2 else 14

def Block.epochLocked (b : Block) (p : Nat) : Bool := wbit (b.reg .dxt Reg.CM_LOCK) (lockBit p)

/-- The staged EPOCH of a port enters effect; an entry to EPOCH_MISMATCH is counted. -/
def Block.lockEpoch (b : Block) (p : Nat) : Block :=
  let was := b.epochMismatch .dxt p
  let key := regKey p Reg.SP_EPOCH
  let b := b.commit .dxt key (b.staged .dxt Reg.SP_EPOCH p)
  if !was && b.epochMismatch .dxt p then b.bump .dxt Reg.DXT_FQ_FENCE_CNT else b

/-- A write of LOCK: ones set bits, and the staged values of what a newly set bit governs enter effect. -/
def lockSet (w : Word) (b : Block) : Block :=
  let old := (b.reg .dxt Reg.CM_LOCK).toNat
  let new := fld w 15 0
  let b := b.hw .dxt Reg.CM_LOCK 0 (w32 (old ||| new))
  b.each ([0, 1].filter fun p => bit new (lockBit p) && !bit old (lockBit p)) Block.lockEpoch

/-! ### Guarded pairs without a chapter of their own -/

/-- A write to the EPOCH pair of the port selected (R75). -/
def fenceEpochSet (off : Nat) (w : Word) (b : Block) : Block :=
  if pairOf .dxs off == some Reg.SP_EPOCH then
    b.guardWrite .dxs off (b.guardIdx .dxs Reg.SP_EPOCH) w fun b v idx x => some (b.setGuarded .dxs v idx x)
  else b

/-- A write to the QUORUM pair (R306): the votes are weighed anew among the voters present. -/
def quorumSet (off : Nat) (w : Word) (b : Block) : Block :=
  if pairOf .dxs off == some Reg.DXS_FQ_QUORUM then
    b.guardWrite .dxs off 0 w fun b v idx x => some (b.setGuarded .dxs v idx x).reopineAll
  else b

/-- An open pair is not completed within 64 slow-clock cycles (R345); one of a set or step leaves GUARD_FAIL (R124). -/
def guardTimeout (sd : Side) (page : Nat) (b : Block) : Block :=
  match sd with
  | .dxt => b.guardExpire .dxt page
  | .dxs => b.noteHtFail fun b => b.guardExpire .dxs page

/-! ### The configuration CRC (R350 to R352) -/

/-- The instances of a selector that shows covered registers. -/
def coveredInsts (sd : Side) (sel : Nat) : Nat :=
  if sel == Reg.SP_PORTSEL || sel == Reg.TT_PORTSEL then nPorts sd
  else if sel == toReg sd Reg.TO_OUTSEL then nOuts sd
  else match sd with
    | .dxt => if sel == Reg.DC_OPP_SEL then 16 else if sel == Reg.DXT_FD_FBSEL then 64 else 0
    | .dxs => if sel == Reg.RF_REFSEL then 8 else 0

/-- The covered registers of a block, by offset. -/
def Block.coveredRows (b : Block) (sd : Side) (page : Nat) : List RegRow :=
  sortRows ((pageRows sd page).filter fun r => isCovered b sd r && (sd == .dxt || present b.dxs.role r.off))

/-- The values in effect in the order of R351, as bytes. -/
def Block.crcInput (b : Block) (sd : Side) (page : Nat) : List Byte :=
  let rows := b.coveredRows sd page
  let word (r : RegRow) (i : Nat) : List Byte := leBytes 4 (b.reg sd r.off i).toNat
  let sels := sortNat ((rows.filterMap fun r => r.sel).eraseDups)
  ((rows.filter fun r => r.sel.isNone).flatMap fun r => word r 0) ++
    sels.flatMap fun s => (List.range (coveredInsts sd s)).flatMap fun i => (rows.filter fun r => r.sel == some s).flatMap fun r => word r i

def crcBadZero (_ : Nat) : Nat := 0

def Block.setBad (b : Block) (sd : Side) (page n : Nat) : Block :=
  b.updRegs sd fun r => { r with crcBad := nset crcBadZero r.crcBad page n }

/-- Sets or clears a block's bit in a mask register. -/
def Block.maskBit (b : Block) (sd : Side) (off page : Nat) (v : Bool) : Block :=
  let m := (b.reg sd off).toNat
  b.hw sd off 0 (w32 (if v then m ||| 2 ^ page else m - (m &&& 2 ^ page)))

/-- A complete pass: the result is shown, and compared while the block's reference is current and its CRC_EN bit is 1. -/
def crcPass (sd : Side) (page : Nat) (b : Block) : Block :=
  if page ≥ 32 || !bit (crcBlocks b sd) page then b
  else
    let c := w32 (crc32c (b.crcInput sd page))
    let b := b.hw sd Reg.CM_CFG_CRC_NOW page c
    if wbit (b.reg sd Reg.CM_CRC_STALE) page || !wbit (b.reg sd Reg.CM_CRC_EN) page then b.setBad sd page 0
    else if c == b.reg sd Reg.CM_CFG_CRC_REF page then (b.setBad sd page 0).maskBit sd Reg.CM_CRC_DRIFT page false
    else
      let n := nget crcBadZero (b.node sd).regs.crcBad page + 1
      let b := b.setBad sd page n
      if n == 2 then ((b.maskBit sd Reg.CM_CRC_DRIFT page true).bump sd Reg.CM_DRIFT_CNT).raise sd Cause.cfgDrift else b

/-- A write of CFG_CRC_REF for the block selected. -/
def crcRefWrite (sd : Side) (w : Word) (b : Block) : Block :=
  let page := (b.reg sd Reg.CM_CRCSEL).toNat
  ((b.hw sd Reg.CM_CFG_CRC_REF page w).maskBit sd Reg.CM_CRC_STALE page false).setBad sd page 0

/-! ### The write of a word -/

def masked (r : RegRow) (w : Word) : Word := w &&& w32 r.mask

/-- The value that a register instance will have staged once the writes that are held have landed. -/
def Block.stagedSoon (b : Block) (sd : Side) (off idx : Nat) : Word :=
  match (b.node sd).regs.heldWrites.reverse.find? fun x => x.1 == regKey idx off with
  | some (_, w) => w
  | none => b.staged sd off idx

/-- A staged write; the one bit KAT_EN is staged in both registers that show it (R333). -/
def Block.stage (b : Block) (sd : Side) (r : RegRow) (idx : Nat) (w : Word) : Block :=
  let w := masked r w
  let b := b.stageWrite sd (regKey idx r.off) w
  let copy (dst i k : Nat) : Block :=
    let v := (b.stagedSoon .dxs dst 0).toNat
    b.stageWrite .dxs (regKey 0 dst) (w32 (v - (v &&& 2 ^ k) + b2n (wbit w i) * 2 ^ k))
  if sd == .dxs && r.off == Reg.DXS_FD_CTRL then copy (isBase .dxs + Reg.IS_CTRL) 1 0
  else if sd == .dxs && r.off == isBase .dxs + Reg.IS_CTRL then copy Reg.DXS_FD_CTRL 0 1
  else b

/-- Whether software's write of a ring offset is ignored: the offsets that a root writes (R237, R267, R332). -/
def Block.rootOwns (b : Block) (off idx : Nat) : Bool :=
  if off == Reg.FS_C_LOG_HEAD then !(b.job idx).replays
  else if off == Reg.FS_C_LOG_TAIL then (b.job idx).replays
  else off == Reg.DXS_SS_EV_HEAD || off == Reg.BN_TREND_HEAD || off == Reg.BN_PROP_HEAD

/-- A write of an RW register of either part that is a command of the common, time-transfer or DMA block. -/
def Block.rwCommon (b : Block) (sd : Side) (off : Nat) (w : Word) : Option Block :=
  if off == Reg.CM_APPLY then some (applyWrite sd w b)
  else if off == Reg.CM_CFG_CRC_REF then some (crcRefWrite sd w b)
  else if off == Reg.CM_CRC_EN then some (b.hw sd off 0 (w32 (w.toNat &&& crcBlocks b sd)))
  else if off == Reg.TT_SNAP then some (htSnapshot sd w b)
  else if off == Reg.TT_SEED + 8 then some (seedWrite sd w b)
  else if off / 4096 == dmPage sd && 0x100 ≤ off % 4096 && (off % 4096 - 0x100) % 0x30 == 0x14 then
    some (dmaRingHeadWrite sd ((off % 4096 - 0x100) / 0x30) w b)
  else none

def Block.rwDie (b : Block) (off : Nat) (w : Word) : Option Block :=
  if off == Reg.CM_LOCK then some (lockSet w b)
  else if off == Reg.TT_FW_SW then
    let b := b.hw .dxt off 0 w
    some (if b.servoMode .dxt then b.setFw48 .dxt (sx 32 w.toNat * 65536) else b)
  else if off == Reg.SY_ARRIVE then some (syncArrive (fld w 13 0) (fld w 23 16) b)
  else if off == Reg.SY_WAIT then some (syncWait w b)
  else if off == Reg.DXT_FQ_RAISE then some (selfReport .dxt w b)
  else none

def Block.rwHub (b : Block) (off idx : Nat) (w : Word) : Option Block :=
  if b.rootOwns off idx then some b
  else if off == Reg.TT_FW_SW then some (fwSwWrite w b)
  else if off == tmBase .dxs + Reg.TM_SW_GO then some (swGo w b)
  else if off == tmBase .dxs + Reg.TM_FQ_GO then some (fqGo w b)
  else if off == Reg.DXS_FQ_RAISE then some (selfReport .dxs w b)
  else if off == Reg.DXS_FQ_NVOTE then some (nvoteWrite w b)
  else if off == Reg.DXS_FQ_J_STORED then some (jStoredWrite w b)
  else none

/-- A write of an RW register: its command, or the value at once. -/
def Block.rwWrite (b : Block) (sd : Side) (r : RegRow) (idx : Nat) (w : Word) : Block :=
  let special := (b.rwCommon sd r.off w).orElse fun _ =>
    match sd with
    | .dxt => b.rwDie r.off w
    | .dxs => b.rwHub r.off idx w
  special.getD (b.commit sd (regKey idx r.off) (masked r w))

/-- A write to an address of a guarded pair. -/
def Block.wgWrite (b : Block) (sd : Side) (off : Nat) (w : Word) : Block :=
  match sd with
  | .dxt =>
    if off / 4096 == 3 then htLoad off w b
    else if pairOf .dxt off == some Reg.DC_SEAM_OVR then seamOverride off w b
    else lOverride off w b
  | .dxs =>
    if isHtSet off then htSet off w b
    else if isHtStep off then htStep off w b
    else if off / 4096 == 4 then forceSet off w b
    else if off / 4096 == 2 then fenceEpochSet off w b
    else if off / 4096 == 11 then quorumSet off w b
    else proposalCommit off w b

/-- A write of a word at a window offset: a hole, a read-only register and an instance that does not exist ignore it. -/
def Block.regWrite (b : Block) (sd : Side) (off : Nat) (w : Word) : Block :=
  let off := off % windowSize sd / 4 * 4
  match decodeReg b sd off with
  | none => b
  | some r =>
    let idx := b.selIdx sd r
    if !b.instOk sd r then b
    else match r.acc with
      | .ro => b
      | .roc => b
      | .rw => b.rwWrite sd r idx w
      | .rws => b.stage sd r idx w
      | .lk => if b.epochLocked idx then b else b.setStg sd (regKey idx r.off) (masked r w)
      | .wg => b.wgWrite sd r.off w

/-- An access of the control bus: a write with a byte enable missing is discarded and counted (R337). -/
def registerWrite (sd : Side) (off : Nat) (be : BitVec 4) (w : Word) (b : Block) : Block :=
  if be != 15 then b.bump sd Reg.CM_BAD_ACC_CNT else b.regWrite sd off w

/-! ### The rows -/

def execLockSet (dt : Nat) (w : Word) (s : State) : Host.Outcome State Fault Refusal :=
  s.act dt [.regs .dxt] (lockSet w)

def execGuardTimeout (dt : Nat) (sd : Side) (page : Nat) (s : State) : Host.Outcome State Fault Refusal :=
  s.act dt [.regs sd] (guardTimeout sd page)

def execFenceEpochSet (dt off : Nat) (w : Word) (s : State) : Host.Outcome State Fault Refusal :=
  s.act dt [.regs .dxs] (fenceEpochSet off w)

def execQuorumSet (dt off : Nat) (w : Word) (s : State) : Host.Outcome State Fault Refusal :=
  s.act dt [.regs .dxs, .ports .dxs, .sheets .dxs, .quorum, .binder] (quorumSet off w)

def execCrcPass (dt : Nat) (sd : Side) (page : Nat) (s : State) : Host.Outcome State Fault Refusal :=
  s.act dt (Foot.sided sd [.regs .dxt, .ports .dxt, .raised .dxt, .lastCause] [.regs .dxs, .ports .dxs, .inbox .dxs,
    .raised .dxs]) (crcPass sd page)

def execCrcRefWrite (dt : Nat) (sd : Side) (w : Word) (s : State) : Host.Outcome State Fault Refusal :=
  s.act dt [.regs sd] (crcRefWrite sd w)

def execRegisterWrite (dt : Nat) (sd : Side) (off : Nat) (be : BitVec 4) (w : Word) (s : State) : Host.Outcome State Fault Refusal :=
  s.act dt (Foot.sided sd [.regs .dxs, .clk .dxt, .regs .dxt, .ports .dxt, .dma .dxt, .raised .dxt, .die, .sync,
    .binds, .lastCause] [.clk .dxs, .regs .dxs, .ports .dxs, .inbox .dxs, .sheets .dxs, .convs .dxs, .dma .dxs,
    .raised .dxs, .root, .meas, .jobs, .quorum, .binder]) (registerWrite sd off be w)

end Sys2Proof.Machine
end

