-- ==== Sys2Proof/Machine/Remote.lean ====
section
/-! DEFINITION. Remote register access (R315 to R318): execution at a target, completion and abandonment at the origin, and the
REMOTE mailbox command. -/

namespace Sys2Proof.Machine

/-! ### The target (R317) -/

/-- A request as its sheet carries it. -/
structure RemReq where
  port : Nat
  tag : Nat
  origin : Nat
  op : Nat
  count : Nat
  addr : Nat
  head : List Byte
  words : List Word
deriving DecidableEq, Repr

def remReq (r : RxSheet) : RemReq :=
  let s := r.sheet
  ⟨r.port, s.obj, s.tag, leAt s.body 0 1 % 4, leAt s.body 2 2, leAt s.body 8 4, slice s.body 0 16, wordsOf (s.body.drop 16)⟩

/-- Takes the oldest request received, if it is of an operation. -/
def Block.takeReq (b : Block) (sd : Side) (op : Nat) : Option (RemReq × Block) :=
  match takeFirst (fun (r : RxSheet) => r.sheet.typ == tRemoteReq) (b.node sd).rxSheets with
  | some (r, rest) =>
    if (remReq r).op == op then
      let b := b.updNode sd fun n => { n with rxSheets := rest }
      some (remReq r, if r.port == ownPort then b else b.freeCredits sd r.port r.sheet.chan (b2n r.booked))
    else none
  | none => none

/-- Whether every word of a request lies in the window, in a page that is there. -/
def Block.reqInWindow (b : Block) (sd : Side) (q : RemReq) : Bool :=
  q.addr + 4 * q.count ≤ windowSize sd && (List.range q.count).all fun i => b.occupied sd (q.addr + 4 * i)

/-- The port a REMOTE_RSP leaves by: the rule of R316 for its origin; at a die, the first port of REFS that is UP. -/
def Block.responsePort (b : Block) (sd : Side) (q : RemReq) : Nat :=
  (match sd with
    | .dxs => b.routeRemote 2 q.origin
    | .dxt => [0, 1].filterMap (b.refPort .dxt) |>.find? (b.upPort .dxt)).getD q.port

/-- The answer: the REMOTE_RSP sheet of a READ, then the REMOTE mark, which names no origin and goes back by the port that the request
came by (log entry 182, DEDUCED). -/
def Block.remReply (b : Block) (sd : Side) (q : RemReq) (status done : Nat) (data : List Word) : Block :=
  let rsp := if q.op == 1 && status == 0 then
      sheetsOf tRemoteRsp q.tag q.origin false (q.head ++ data.flatMap fun w => leBytes 4 w.toNat)
    else []
  let m := mkMark .remote q.tag 0 (b.ht sd) (done * 256 + status)
  if q.port == ownPort then
    (b.updNode .dxs fun n => { n with rxSheets := n.rxSheets ++ rsp.map fun s => ⟨ownPort, s, false⟩ }).pushMark .dxs ⟨ownPort, b.ht .dxs, m, false⟩
  else (b.queueSheets sd (b.responsePort sd q) rsp).offer sd q.port m

/-- Whether a write would meet an LK register after its lock bit is set. -/
def Block.lkRefuses (b : Block) (sd : Side) (off : Nat) : Bool :=
  match decodeReg b sd off with
  | some r => r.acc == .lk && b.epochLocked (b.selIdx sd r)
  | none => false

/-- Writes words in order; tells whether one met a locked register. -/
def Block.writeWords (b : Block) (sd : Side) (addr : Nat) : List Word → Bool × Block
  | [] => (false, b)
  | w :: ws =>
    let bad := b.lkRefuses sd addr
    let r := (b.regWrite sd addr w).writeWords sd (addr + 4) ws
    (bad || r.1, r.2)

/-- Runs the oldest request if it has the operation. -/
def Block.remoteRun (b : Block) (sd : Side) (op : Nat) (f : RemReq → Block → Block) : Block :=
  match b.takeReq sd op with
  | some (q, b) => if b.reqInWindow sd q then f q b else b.remReply sd q 1 0 []
  | none => b

def remoteRead (sd : Side) (b : Block) : Block :=
  b.remoteRun sd 1 fun q b => b.remReply sd q 0 q.count ((List.range q.count).map fun i => b.regRead sd (q.addr + 4 * i))

/-- Whether an offset belongs to a guarded pair. -/
def Block.isGuarded (b : Block) (sd : Side) (off : Nat) : Bool :=
  match decodeReg b sd off with
  | some r => r.acc == .wg
  | none => false

/-- Whether the pair at an offset stands opened by a write to that offset. -/
def Block.openedAt (b : Block) (sd : Side) (off : Nat) : Bool :=
  match b.guard sd (off / 4096) with
  | some g => g.off == canonical sd off
  | none => false

/-- A GUARDED write: both words in consecutive cycles; REFUSED where the pair rejects it. -/
def remoteGuarded (sd : Side) (b : Block) : Block :=
  b.remoteRun sd 3 fun q b =>
    let (bad1, b1) := b.writeWords sd q.addr (q.words.take 1)
    let (bad2, b2) := b1.writeWords sd (q.addr + 4) ((q.words.drop 1).take 1)
    let rejected := b.isGuarded sd q.addr &&
      (!b1.openedAt sd q.addr || b2.reg sd Reg.CM_GUARD_FAIL_CNT != b1.reg sd Reg.CM_GUARD_FAIL_CNT)
    b2.remReply sd q (if bad1 || bad2 || rejected then 2 else 0) q.count []

/-! ### The origin (R318) -/

/-- Ends a transaction for whoever waits for it: status 0 OK, 1 BAD_ADDR, 2 REFUSED, 3 TIMEOUT. -/
def Block.remEnd (b : Block) (t : RemTx) (status done : Nat) : Block :=
  let ws := t.got.getD []
  match t.for_ with
  | .none => b
  | .stage _ => b.stageResult t (status == 0)
  | .job cause _ =>
    let w := ws.headD 0
    if status == 0 && wbit w 24 then b.faultJob (fld w 23 16) cause else b
  | .verdict seq => b.verdictStored seq (status == 0)
  | .copy mb => if b.isAccepted mb || b.copying mb || b.own mb != Own.taken then b else b.answer mb Cs.ok
  | .mailbox mb =>
    let data : List (Nat × List Byte) :=
      if t.op == 1 && status == 0 then [(64, ws.flatMap fun w => leBytes 4 w.toNat)] else []
    if status == 3 then b.answer mb Cs.timeout
    else
      b.answer mb (if status == 0 then Cs.ok else if status == 1 then Cs.badAddr else Cs.refused)
        ((48, leBytes 1 status ++ leBytes 1 done ++ leBytes 2 0) :: data)

/-- Whether the origin holds all that a transaction needs: the mark, and the words of a READ that was executed. -/
def RemTx.complete (t : RemTx) : Bool :=
  match t.mark with
  | some (status, _) => t.op != 1 || status != 0 || (t.got.getD []).length == t.count
  | none => false

/-- Takes the REMOTE_RSP sheets received: the words of an outstanding READ, or of none. A READ whose mark came first completes. -/
def Block.takeRsps (b : Block) : Nat → Block
  | 0 => b
  | n + 1 =>
    match takeFirst (fun (r : RxSheet) => r.sheet.typ == tRemoteRsp) (b.node .dxs).rxSheets with
    | none => b
    | some (r, rest) =>
      let b := b.updNode .dxs fun x => { x with rxSheets := rest }
      let b := if r.port == ownPort then b else b.freeCredits .dxs r.port r.sheet.chan (b2n r.booked)
      let ws := wordsOf ((r.sheet.body.take r.sheet.len).drop 16)
      let b := match takeFirst (fun (t : RemTx) => t.tag == r.sheet.obj && t.sentAt.isSome) b.hub.bn.rem with
        | none => b
        | some (t, others) =>
          let t := { t with got := some (ws.take t.count) }
          match t.mark, t.complete with
          | some (st, done), true => ((b.updBn fun x => { x with rem := others }).remEnd t st done).pumpRemote
          | _, _ => b.updBn fun x => { x with rem := x.rem.map fun (y : RemTx) => if y.tag == t.tag && y.sentAt.isSome then t else y }
      b.takeRsps n

/-- The first REMOTE mark received, with the sheets that came before it: its transaction completes; a mark of none is late. -/
def remoteResponse (b : Block) : Block :=
  let b := b.takeRsps b.dxs.node.rxSheets.length
  b.withMark .dxs .remote fun r b =>
    let tag := r.mark.obj.toNat
    let st := bits r.mark.arg.toNat 7 0
    let done := bits r.mark.arg.toNat 15 8
    match takeFirst (fun (t : RemTx) => t.tag == tag && t.sentAt.isSome) b.hub.bn.rem with
    | none => b.bump .dxs Reg.BN_REM_LATE_CNT
    | some (t, rest) =>
      let t := { t with mark := some (st, done) }
      if t.complete then ((b.updBn fun n => { n with rem := rest }).remEnd t st done).pumpRemote
      else b.updBn fun n => { n with rem := n.rem.map fun x => if x.tag == tag && x.sentAt.isSome then t else x }

/-- REMOTE_TO, in ns. -/
def Block.remoteTo (b : Block) : Nat := b.rf .dxs Reg.BN_CTRL 31 16 * 1000

def remoteTimeout (tag : Nat) (b : Block) : Block :=
  match takeFirst (fun (t : RemTx) => t.tag == tag && t.sentAt.isSome) b.hub.bn.rem with
  | none => b
  | some (t, rest) =>
    if b.now < t.sentAt.getD 0 + b.remoteTo then b
    else (((b.updBn fun n => { n with rem := rest }).bump .dxs Reg.BN_REM_TO_CNT).remEnd t 3 0).pumpRemote

/-! ### The REMOTE mailbox command (R313) -/

/-- Arguments: bytes 16 to 31 of a request body; data: the words to write. Arguments that form no request are answered BAD_CMD
(log entry 22, DESIGN CHOICE). The page stays TAKEN until the transaction ends. -/
def remoteCmd (mb : Nat) (b : Block) : Block :=
  b.control mb Cmd.remote fun b =>
    if b.hub.bn.rem.any fun t => t.for_ == .mailbox mb then b
    else
      let op := b.pageAt mb 32 1 % 4
      let kind := b.pageAt mb 33 1
      let count := b.pageAt mb 34 2
      let target := b.pageAt mb 36 4
      let addr := b.pageAt mb 40 4
      let bad := op == 0 || kind > 2 || count == 0 || count > 55 || (op == 3 && count != 2) || addr % 4 != 0
      if bad then b.answer mb Cs.badCmd
      else
        let ws := if op == 1 then [] else wordsOf (b.page mb 64 (4 * count))
        b.remoteIssue op kind (if kind == 1 then target else target % 65536) addr count ws (.mailbox mb)

/-! ### The rows -/

def execRemote (dt mb : Nat) (s : State) : Host.Outcome State Fault Refusal :=
  s.act dt [.ports .dxs, .sheets .dxs, .binder, .mbox] (remoteCmd mb)

def execRemoteRead (dt : Nat) (sd : Side) (s : State) : Host.Outcome State Fault Refusal :=
  s.act dt (Foot.sided sd [.inbox .dxs, .sheets .dxs, .regs .dxt, .ports .dxt, .sheets .dxt] [.regs .dxs, .ports .dxs,
    .inbox .dxs, .sheets .dxs]) (remoteRead sd)

def execRemoteGuarded (dt : Nat) (sd : Side) (s : State) : Host.Outcome State Fault Refusal :=
  s.act dt (Foot.sided sd [.regs .dxs, .inbox .dxs, .sheets .dxs, .clk .dxt, .regs .dxt, .ports .dxt, .sheets .dxt,
    .dma .dxt, .raised .dxt, .die, .sync, .binds, .lastCause] [.clk .dxs, .regs .dxs, .ports .dxs, .inbox .dxs,
    .sheets .dxs, .convs .dxs, .dma .dxs, .raised .dxs, .root, .meas, .jobs, .quorum, .binder]) (remoteGuarded sd)

/-- What the end of a transaction may write: the mailbox page that waits for it, and the effect of a verdict. -/
def remoteEndFoot : Foot :=
  [.clk .dxs, .regs .dxs, .ports .dxs, .inbox .dxs, .sheets .dxs, .dma .dxs, .eyes .dxs, .raised .dxs, .root, .instances,
    .dones, .folds, .jobs, .path, .sess, .quorum, .binder, .gaAudit, .gaOver, .mbox, .host, .free]

def execRemoteResponse (dt : Nat) (s : State) : Host.Outcome State Fault Refusal :=
  s.act dt remoteEndFoot remoteResponse

def execRemoteTimeout (dt tag : Nat) (s : State) : Host.Outcome State Fault Refusal :=
  s.act dt remoteEndFoot (remoteTimeout tag)

end Sys2Proof.Machine
end

