-- ==== Sys2Proof/Machine/Topology.lean ====
section
/-! DEFINITION. The topology table and its slices, the boot from flash, LOG records, and the ports of a binder as they come up (R93,
R319 to R323, R328). -/

namespace Sys2Proof.Machine

/-! ### The node record and the table (R320, R321; log entry 23, DESIGN CHOICE) -/

/-- A node record of 64 bytes: number, role, tree, tier, REFS, then the 2-bit roles of the 48 ports. -/
def nodeRecOf (bs : List Byte) : NodeRec :=
  { num := leAt bs 0 2, role := leAt bs 2 1, tree := leAt bs 3 1, tier := leAt bs 4 1, refs := leAt bs 6 2,
    roles := (List.range 48).map fun p => bits (leAt bs (8 + p / 4) 1) (p % 4 * 2 + 1) (p % 4 * 2), ports := [] }

def portEntryOf (bs : List Byte) : PortEntry :=
  ⟨leAt bs 0 1, bit (leAt bs 1 1) 0, leAt bs 2 2, leAt bs 4 1, leAt bs 5 1, leAt bs 6 2⟩

def nodeRecSize : Nat := 448
def dieRecSize : Nat := 16
def topoHeader : Nat := 64

/-- A node record of the table: the flash record and 48 port entries. -/
def tableNodeOf (bs : List Byte) : NodeRec :=
  { nodeRecOf (slice bs 0 64) with ports := (List.range 48).map fun p => portEntryOf (slice bs (64 + 8 * p) 8) }

def dieRecOf (bs : List Byte) : DieRec := ⟨leAt bs 0 4, leAt bs 4 2, leAt bs 6 1, bit (leAt bs 7 1) 0, leAt bs 8 2⟩

def topoNodes (bs : List Byte) : Nat := leAt bs 4 4
def topoDies (bs : List Byte) : Nat := leAt bs 8 4
def topoLen (bs : List Byte) : Nat := topoHeader + nodeRecSize * topoNodes bs + dieRecSize * topoDies bs

def topoOf (bs : List Byte) : Topo :=
  let n := topoNodes bs
  { crc := leAt bs 60 4, epoch0 := leAt bs 16 4 % 65536,
    nodes := (List.range n).map fun i => tableNodeOf (slice bs (topoHeader + nodeRecSize * i) nodeRecSize),
    dies := (List.range (topoDies bs)).map fun i =>
      dieRecOf (slice bs (topoHeader + nodeRecSize * n + dieRecSize * i) dieRecSize) }

/-- FORMAT, length and CRC of a table. -/
def topoIntact (bs : List Byte) : Bool :=
  topoLen bs ≤ bs.length && leAt bs 0 2 == 1 &&
    crc32c (bs.take 60 ++ leBytes 4 0 ++ (bs.take (topoLen bs)).drop 64) == leAt bs 60 4

/-- The roles of the two ends of a link between nodes. -/
def rolesPair (a b : PortEntry) : Bool :=
  (a.quorum && b.quorum) ||
    (!a.quorum && !b.quorum &&
      ((a.role == 0 && b.role == 1) || (a.role == 1 && b.role == 0) || (a.role == 2 && b.role == 2)))

/-- A port entry agrees with its node's own roles and with the entry at its other end. -/
def Topo.linkOk (t : Topo) (r : NodeRec) (p : Nat) : Bool :=
  let e := r.port p
  e.role == r.roles.getD p 3 &&
    (if e.kind == 0 then true
    else if e.kind == 1 then
      match t.nodeOf e.nbr with
      | none => false
      | some o =>
        let x := o.port e.nport
        e.nport < 48 && x.kind == 1 && x.nbr == r.num && x.nport == p && rolesPair e x && e.asym == x.asym
    else e.kind == 2 && e.role == 0 && !e.quorum && decide (e.nbr < t.dies.length) && e.nport == r.tree)

/-- The die ends that the table names. -/
def Topo.dieEnds (t : Topo) : List (Nat × Nat) :=
  t.nodes.flatMap fun r => ((List.range 48).filter fun p => (r.port p).kind == 2).map fun p => ((r.port p).nbr, (r.port p).nport)

def distinct {α : Type} [BEq α] (l : List α) : Bool := l.eraseDups.length == l.length

/-- The nodes beneath a root. -/
def Topo.treeOf (t : Topo) (root : Nat) : List Nat := (List.range 48).flatMap fun p => t.nodesBeneath topoDepth root p

/-- Node 0 is root A, node 1 root B, node 2 member C, and no other node has their roles. -/
def Topo.triadOk (t : Topo) : Bool :=
  let is (n role tree : Nat) : Bool := match t.nodeOf n with
    | some r => r.role == role && (role == 2 || r.tree == tree)
    | none => false
  is 0 1 0 && is 1 1 1 && is 2 2 0 && t.nodes.all fun r => r.role == 0 || r.num ≤ 2

/-- A tier node lies beneath the root of its tree and not beneath the other. -/
def Topo.treesOk (t : Topo) : Bool :=
  let a := t.treeOf 0
  let c := t.treeOf 1
  t.nodes.all fun r =>
    r.role != 0 || (if r.tree == 0 then a.contains r.num && !c.contains r.num
      else r.tree == 1 && c.contains r.num && !a.contains r.num)

/-- A table does not contradict itself (R321). -/
def Topo.consistent (t : Topo) : Bool :=
  distinct (t.nodes.map NodeRec.num) && t.triadOk && distinct t.dieEnds && distinct (t.dies.map DieRec.pos) &&
    distinct ((t.dies.filter fun d => d.bound).map DieRec.idx) &&
    (t.nodes.all fun r => (List.range 48).all fun p => t.linkOk r p) &&
    (t.nodes.all fun r => decide (((List.range 48).filter fun p => (r.port p).role == 0).length ≤ 40)) &&
    t.treesOk

/-! ### LOG records (R319) -/

def lkTrend : Nat := 1
def lkBringup : Nat := 2
def lkIst : Nat := 3

def logBody (kind origin : Nat) (rec : List Byte) : List Byte :=
  leBytes 1 kind ++ leBytes 1 0 ++ leBytes 2 origin ++ leBytes 2 1 ++ leBytes 2 0 ++ rec

def trendRec : Nat := 96

/-- A record of 96 bytes enters the trend ring (R328): it is never split, and what has no room is discarded and counted. -/
def Block.putTrend (b : Block) (rec : List Byte) : Block :=
  let r := b.trendRing
  let at_ := if r.size - r.head < trendRec then 0 else r.head
  let next := if r.size - (at_ + trendRec) < trendRec then 0 else at_ + trendRec
  let tail := if r.size - r.tail < trendRec then 0 else r.tail
  if next != tail && b.chanAble .dxs chanTrend then
    (b.hostWrite chanTrend (r.base + at_) rec).hw .dxs Reg.BN_TREND_HEAD 0 (w32 next)
  else b.bump .dxs Reg.BN_LOG_DROP_CNT

/-- Keeps the first `n` elements that satisfy a test, and every other one. -/
def keepFirst {α : Type} (q : α → Bool) : Nat → List α → List α
  | _, [] => []
  | n, x :: xs => if !q x then x :: keepFirst q n xs else if n == 0 then keepFirst q 0 xs else x :: keepFirst q (n - 1) xs

/-- The samples of one die at one entry that the acting root keeps: the most that TREND_CFG.WIN may name. -/
def maxSamples : Nat := 65535

/-- A sample is kept for the projections of R329. -/
def Block.keepSample (b : Block) (rec : List Byte) : Block :=
  let same (s : List Byte) : Bool := slice s 4 4 == slice rec 4 4 && slice s 2 1 == slice rec 2 1
  b.updBn fun n => { n with samples := rec :: keepFirst same (maxSamples - 1) n.samples }

/-- The acting root takes LOG records: DIE_TREND into the ring. The others have no ring in the manual (log entry 25, DESIGN CHOICE). -/
def Block.keepLog (b : Block) (body : List Byte) : Block :=
  if leAt body 0 1 == lkTrend then
    b.each (List.range (leAt body 4 2)) fun b i =>
      let rec_ := slice body (8 + trendRec * i) trendRec
      (b.putTrend rec_).keepSample rec_
  else b

/-- The port a LOG record leaves by. -/
def Block.logPort (b : Block) : Option Nat := if isRoot b.dxs.role then b.crossPort else b.upPortOf

/-- A binder's LOG record: kept at the acting root, else queued towards it. It waits there for credits. -/
def Block.sendLog (b : Block) (kind : Nat) (rec : List Byte) : Block :=
  let body := logBody kind b.dxs.nodeNo rec
  if b.actingRoot then b.keepLog body
  else match b.logPort with
    | none => b.bump .dxs Reg.BN_LOG_DROP_CNT
    | some p =>
      if (b.port .dxs p).st.discards then b.bump .dxs Reg.BN_LOG_DROP_CNT
      else (b.sendMessage .dxs p tLog 0 0 false body).updBn fun n => { n with logq := n.logq ++ [⟨kind, rec, b.now⟩] }

/-- Whether a queued sheet is a LOG record of the node's own. -/
def Block.ownLog (b : Block) (s : Sheet) : Bool := s.typ == tLog && leAt s.body 2 2 == b.dxs.nodeNo

/-- The records of the node's own that are still queued: the last of those it noted. -/
def Block.logWaiting (b : Block) : List LogRec :=
  match b.logPort with
  | none => []
  | some p =>
    let n := ((b.port .dxs p).sh.queue.filter b.ownLog).length
    b.hub.bn.logq.drop (b.hub.bn.logq.length - n)

/-- A LOG record has waited for 1 s: it is discarded and counted. -/
def logRecordTimeout (b : Block) : Block :=
  match b.logWaiting, b.logPort with
  | x :: rest, some p =>
    if b.now < x.since + 1000000000 then b
    else
      let b := b.updSh .dxs p fun s => { s with queue := match takeFirst b.ownLog s.queue with
        | some (_, r) => r
        | none => s.queue }
      (b.updBn fun n => { n with logq := rest }).bump .dxs Reg.BN_LOG_DROP_CNT
  | _, _ => b

/-- A LOG record arrives at the acting root. -/
def logReceive (b : Block) : Block :=
  if !b.actingRoot then b
  else match b.takeMessage .dxs tLog with
    | some (m, b) => b.keepLog m.bytes
    | none => b

/-- BRINGUP codes and record (log entry 25, DESIGN CHOICE). -/
def Bring.absent : Nat := 1
def Bring.mismatch : Nat := 2

def bringRec (code port node t : Nat) : List Byte := leBytes 1 code ++ leBytes 1 port ++ leBytes 2 node ++ htBytes t

def Block.sendBring (b : Block) (code port node : Nat) : Block := b.sendLog lkBringup (bringRec code port node (b.ht .dxs))

/-! ### Ports as they come up (R322, R323) -/

def Block.setBring (b : Block) (p v : Nat) : Block := b.updBn fun n => { n with bring := nset bringReset n.bring p v }

/-- The settings of the child on a port, written from the table: CABLE_ASYM of its reference port, and a die's CTRL. -/
def Block.writeChild (b : Block) (p : Nat) : Block :=
  let e := b.entryOf p
  let parent := e.role == roleDown || (e.role == roleCross && b.actingRoot)
  let write (b : Block) (kind target : Nat) : Block :=
    ((b.remoteIssue 2 kind target Reg.TT_PORTSEL 1 [w32 e.nport] .none).remoteIssue 2 kind target Reg.TT_P_CABLE_ASYM 1
      [w32 e.asym] .none).remoteIssue 2 kind target Reg.CM_APPLY 1 [8] .none
  if !parent then b
  else if e.kind == 1 then write b 2 e.nbr
  else if e.kind == 2 then
    let s := b.partOfRec e.nbr
    write (b.writeCtrl s e.nport (b.ctrlFor s e.nport true)) 1 (b.topo.die e.nbr).pos
  else b

/-- The slice of a node: its own record, those of its neighbours and of the nodes beneath it, and the die records beneath it under
their numbers, the others empty (log entry 169, DESIGN CHOICE). `bs` is the table as it was loaded. -/
def Block.sliceFor (b : Block) (bs : List Byte) (n : Nat) : List Byte :=
  let t := b.topo
  let near := match t.nodeOf n with
    | some r => ((List.range 48).filter fun p => (r.port p).kind == 1).map fun p => (r.port p).nbr
    | none => []
  let ns := n :: near ++ t.treeOf n
  let is := (List.range (topoNodes bs)).filter fun i => ns.contains (leAt bs (topoHeader + nodeRecSize * i) 2)
  let under := t.recsUnder n
  let body := (is.flatMap fun i => slice bs (topoHeader + nodeRecSize * i) nodeRecSize) ++
    (List.range t.dies.length).flatMap fun r => if under.contains r then dieRecBytes (t.die r) else leBytes 16 0
  let head := leBytes 4 1 ++ leBytes 4 is.length ++ leBytes 4 t.dies.length ++ leBytes 4 0 ++ leBytes 4 t.epoch0 ++ leBytes 40 0
  head ++ leBytes 4 (crc32c (head ++ leBytes 4 0 ++ body)) ++ body

/-- Sends nodes what R322 gives them of the table `bs`: the other members of the triad all of it, the others their slices. `again` marks
what a node that comes up later receives. -/
def Block.shareTopo (b : Block) (use : RemUse) (bs : List Byte) (ns : List Nat) (again : Bool := false) : Block :=
  b.each ns fun b n => b.copyOne use n Ck.topo (b2n again) (if n ≤ 2 then bs.take (topoLen bs) else b.sliceFor bs n)

/-- The die records that have changed since the table was loaded. -/
def Block.changedDies (b : Block) (bs : List Byte) : List Nat :=
  (List.range b.topo.dies.length).filter fun r => (topoOf bs).die r != b.topo.die r

/-- The nodes that come within reach of the root when one of its ports comes up. -/
def Block.newlyReached (b : Block) (p : Nat) : List Nat :=
  let e := b.entryOf p
  if e.kind != 1 then [] else if e.role == roleDown then e.nbr :: b.topo.treeOf e.nbr else [e.nbr]

/-- A port of a DX-S48 has come up: the binder writes the child's settings, and the port is ABSENT no longer; the acting root sends
the table's parts to the nodes that it reaches now. -/
def Block.childUp (b : Block) (p : Nat) : Block :=
  let b := if b.bring p == 2 then b.setBring p 1 else b
  if b.hub.bn.boot != 1 then b
  else
    let b := b.writeChild p
    let bs := b.hub.bn.table
    let ns := (b.newlyReached p).eraseDups
    if b.actingRoot && !bs.isEmpty then
      (b.shareTopo .none bs ns true).each (b.changedDies bs) fun b r =>
        b.copyTo .none (ns.filter fun n => n ≤ 2) Ck.die r (dieRecBytes (b.topo.die r))
    else b

/-- BRING_TO in time-clock cycles. -/
def Block.bringTo (b : Block) : Nat := b.rf .dxs Reg.BN_CTRL 15 0 * 1000000

/-- A port that the table expects is still in TRAIN, BRING_TO after the node became LOCKED. -/
def bringTimeout (p : Nat) (b : Block) : Block :=
  if b.bring p == 1 && (b.port .dxs p).st == .train && (b.clk .dxs).lock == .locked &&
    b.now ≥ (b.clk .dxs).lockedAt + b.bringTo then
    (b.setBring p 2).sendBring Bring.absent p (b.entryOf p).nbr
  else b

/-- A child's BRINGUP record tells of a MISMATCH: no DATA sheets on the port towards it. -/
def Block.hearLog (b : Block) (p : Nat) (body : List Byte) : Block :=
  let e := b.entryOf p
  if leAt body 0 1 == lkBringup && leAt body 8 1 == Bring.mismatch && e.role == roleDown && e.kind == 1 &&
    leAt body 2 2 == e.nbr then
    let c := b.reg .dxs Reg.SP_CTRL p
    (b.hwBoth .dxs Reg.SP_CTRL p (w32 (c.toNat - (c.toNat &&& 2)))).setBring p 3
  else b

/-! ### Boot (R320) -/

def flashSlot (s : Nat) : Nat := s * 0x800000
def flashNode : Nat := 0xFFF000
/-- The slot's place up to the boot configuration, less its length and CRC (log entry 23, DESIGN CHOICE). -/
def slotMax : Nat := 0x7EFFF8

def Block.flashRead (b : Block) (a n : Nat) : List Byte := memReadN b.sm.flash a n

/-- A slot passes its CRC-32C. -/
def Block.slotGood (b : Block) (s : Nat) : Bool :=
  let a := flashSlot s
  let n := ofLe (b.flashRead a 4)
  n ≤ slotMax && crc32c (b.flashRead (a + 8) n) == ofLe (b.flashRead (a + 4) 4)

def Block.flashRec (b : Block) : NodeRec := nodeRecOf (b.flashRead flashNode 64)

def roleOf (r : NodeRec) : Role := if r.role == 1 then (if r.tree == 0 then .rootA else .rootB) else if r.role == 2 then .memberC else .tier

/-- The channels that the binder enables at boot (R370): 0 to 7; it then writes the CRC reference of the DMA block. -/
def Block.bootDma (b : Block) : Block :=
  let b := b.each (List.range 16) fun b c =>
    let off := chanReg .dxs c 0
    let w := (b.reg .dxs off).toNat % 2 ^ 31
    b.hwBoth .dxs off 0 (w32 (b2n (c < 8) * 2 ^ 31 + w))
  let page := dmPage .dxs
  ((b.hw .dxs Reg.CM_CFG_CRC_REF page (w32 (crc32c (b.crcInput .dxs page)))).maskBit .dxs Reg.CM_CRC_STALE page false).setBad .dxs page 0

/-- A running binder configures the node from its record: role, REFS, and CTRL of each port. -/
def Block.configure (b : Block) (r : NodeRec) : Block :=
  let role := roleOf r
  let b := { b with dxs := { b.dxs with role := role, nodeNo := r.num } }
  let b := if role == .rootA && !b.dxs.peerActs then b.becomeActing else b
  let b := b.hw .dxs Reg.BN_NODE 0 (w32 (r.tier % 16 * 2 ^ 28 + (if role == .memberC then 2 else r.tree % 2) * 2 ^ 26 + r.num))
  let b := (b.hw .dxs Reg.BN_FW 0 (w32 (Config.freeValue b.free))).useFree
  let b := b.hwBoth .dxs Reg.TT_REFS 0 (w32 (r.refs &&& 0x3F3F))
  let b := b.bootDma
  b.each (List.range 48) fun b p =>
    let role := r.roles.getD p 3
    let old := b.reg .dxs Reg.SP_CTRL p
    (b.hwBoth .dxs Reg.SP_CTRL p (w32 (if role == 3 then 0x70 else 0x43 + role * 16))).portCtrlChanged .dxs p old

def binderBoot (b : Block) : Block :=
  if b.hub.bn.boot != 0 || !b.sm.powered || !b.sm.prst then b
  else
    let booted :=
      if b.slotGood 0 then (b.updBn fun n => { n with boot := 1, slot := 0 }).configure b.flashRec
      else if b.slotGood 1 then (b.updBn fun n => { n with boot := 1, slot := 1 }).configure b.flashRec
      else b.updBn fun n => { n with boot := 2 }
    booted.thermLevel

/-! ### Slices (R322) -/

/-- The node's own record in a table is its flash record. -/
def Block.recMatches (b : Block) (t : Topo) : Bool :=
  match t.nodeOf b.dxs.nodeNo with
  | some r => { r with ports := [] } == b.flashRec
  | none => false

/-- The binder takes a table or a slice that holds its own record: the fence epochs of the positions, the quorum port, the ports
it expects, and the settings of the children that are up. -/
def Block.takeTopo (b : Block) (t : Topo) : Block :=
  let b := (b.updBn fun n => { n with topo := some t, slice := true }).updFq fun q => { q with fences := [] }
  let ports := List.range 48
  let b := { b with dxs := { b.dxs with quorum := ports.find? fun p => (b.entryOf p).quorum && (b.entryOf p).kind == 1 } }
  let b := b.each (ports.filter fun p => (b.entryOf p).kind == 2) fun b p => b.hwBoth .dxs Reg.SP_EPOCH p (w32 t.epoch0)
  let b := b.each ports fun b p => b.setBring p (if (b.entryOf p).kind == 0 then 0 else 1)
  b.each (ports.filter fun p => b.upPort .dxs p) fun b p => b.childUp p

/-- A slice that differs from the flash record is reported and not held. One sent `again` to a node that still holds its own changes
no fence epoch and no port (R293). -/
def nodeSliceReceive (slice : List Byte) (again : Bool) (b : Block) : Block :=
  if b.hub.bn.boot != 1 || !topoIntact slice then b
  else
    let t := topoOf slice
    if b.recMatches t then
      if again && b.hub.bn.topo.isSome then
        b.updBn fun n => { n with topo := if isTriad b.dxs.role then n.topo else some t, slice := true }
      else b.takeTopo t
    else (b.updBn fun n => { n with slice := false }).sendBring Bring.mismatch 0xFF b.dxs.nodeNo

/-! ### Copies from another binder (R170, R192, R204, R219, R322; log entry 120, DESIGN CHOICE) -/

/-- What a whole copy does at the node that it is for. -/
def Block.copied (b : Block) (kind key : Nat) (bs : List Byte) : Block :=
  if kind == Ck.gdef then b.keepDef (key % 65536) (gdefOf bs)
  else if kind == Ck.gend then b.loseDef (key % 65536)
  else if kind == Ck.prog then b.loadProgram (key % 256) (key / 256) bs
  else if kind == Ck.jend then b.dropJob (key % 256)
  else if kind == Ck.topo then nodeSliceReceive bs (key == 1) b
  else if kind == Ck.die then b.setDie key (dieRecOf bs)
  else if kind == Ck.sess then b.updJob (key % 256) fun x => { x with sess := bit (leAt bs 0 1) 0 }
  else if kind == Ck.image then b.mirrorImage (key % 256) bs
  else b

/-- Takes a piece of a copy: the first begins it, the last ends it. -/
def Block.takeCopy (b : Block) (ws : List Word) : Block :=
  let n (i : Nat) : Nat := (ws.getD i 0).toNat
  let had := if n 3 == 0 then [] else b.hub.bn.copy
  let bs := (had ++ (ws.drop 4).flatMap fun w => leBytes 4 w.toNat).take (n 2)
  if n 3 != had.length then b
  else if bs.length < n 2 then b.updBn fun x => { x with copy := bs }
  else (b.updBn fun x => { x with copy := [] }).copied (n 0) (n 1) bs

/-- A WRITE. Eight words at the verdict word of a voter store a verdict log entry (R292, log entry 15, DEDUCED), and words at
`copyAddr` are a piece of a copy (log entry 120, DESIGN CHOICE). -/
def remoteWrite (sd : Side) (b : Block) : Block :=
  b.remoteRun sd 2 fun q b =>
    let ws := q.words.take q.count
    if sd == .dxs && isTriad b.dxs.role && q.addr == verdictAddr && q.count == 8 then
      ((b.storeVerdict (b.verdictOf (ws.flatMap fun w => leBytes 4 w.toNat))).reopineAll).remReply sd q 0 q.count []
    else if sd == .dxs && q.addr == copyAddr then (b.takeCopy ws).remReply sd q 0 q.count []
    else
      let (bad, b) := b.writeWords sd q.addr ws
      b.remReply sd q (if bad then 2 else 0) q.count []

/-! ### Seeds (R93) -/

def seedReset (_ : Nat) : Nat := 0

/-- Whether a child's port is due for a seed: none since it came to ask for one, or 100 ms have passed. Over CROSS the child is the
root that does not act. -/
def Block.seedDue (b : Block) (p : Nat) : Bool :=
  let q := b.port .dxs p
  let e := b.entryOf p
  let last := nget seedReset b.hub.bn.seedAt p
  (e.role == roleDown || (e.role == roleCross && b.actingRoot)) && (e.kind == 1 || e.kind == 2) && q.st == .up && q.rx.lock ≤ 1 &&
    (last == 0 || last < q.rx.askAt || b.now ≥ last + 100000000)

/-- Writes the node's own HT into a child's SEED. -/
def Block.seedChild (b : Block) (p : Nat) : Block :=
  let e := b.entryOf p
  let t := b.ht .dxs
  let ws := [htWord t 0, htWord t 1, htWord t 2]
  let b := b.updBn fun n => { n with seedAt := nset seedReset n.seedAt p b.now }
  if e.kind == 1 then b.remoteWriteNode e.nbr Reg.TT_SEED ws
  else b.remoteIssue 2 1 (b.topo.die e.nbr).pos Reg.TT_SEED 3 ws .none

def seedRepeat (b : Block) : Block :=
  if b.hub.bn.boot != 1 then b else b.each ((List.range 48).filter b.seedDue) fun b p => b.seedChild p

/-! ### The rows -/

def execSeedRepeat (dt : Nat) (s : State) : Host.Outcome State Fault Refusal :=
  s.act dt [.ports .dxs, .sheets .dxs, .binder] seedRepeat

def execRemoteWrite (dt : Nat) (sd : Side) (s : State) : Host.Outcome State Fault Refusal :=
  s.act dt (Foot.sided sd [.regs .dxs, .inbox .dxs, .sheets .dxs, .clk .dxt, .regs .dxt, .ports .dxt, .sheets .dxt,
    .dma .dxt, .raised .dxt, .die, .sync, .binds, .lastCause] [.clk .dxs, .regs .dxs, .ports .dxs, .inbox .dxs,
    .sheets .dxs, .convs .dxs, .dma .dxs, .eyes .dxs, .raised .dxs, .ident, .root, .meas, .instances, .dones, .defs, .folds, .jobs, .prog, .sess, .quorum,
    .binder, .host, .free]) (remoteWrite sd)

def execLogReceive (dt : Nat) (s : State) : Host.Outcome State Fault Refusal :=
  s.act dt [.regs .dxs, .ports .dxs, .sheets .dxs, .dma .dxs, .binder, .host] logReceive

def execLogRecordTimeout (dt : Nat) (s : State) : Host.Outcome State Fault Refusal :=
  s.act dt [.regs .dxs, .ports .dxs, .binder] logRecordTimeout

def execBinderBoot (dt : Nat) (s : State) : Host.Outcome State Fault Refusal :=
  s.act dt [.clk .dxs, .regs .dxs, .ports .dxs, .inbox .dxs, .sheets .dxs, .eyes .dxs, .raised .dxs, .ident, .root, .binder, .module, .free]
    binderBoot

def execNodeSliceReceive (dt : Nat) (slice : List Byte) (s : State) : Host.Outcome State Fault Refusal :=
  s.act dt [.regs .dxs, .ports .dxs, .inbox .dxs, .sheets .dxs, .dma .dxs, .eyes .dxs, .raised .dxs, .ident, .quorum,
    .binder, .host] (nodeSliceReceive slice false)

def execBringTimeout (dt p : Nat) (s : State) : Host.Outcome State Fault Refusal :=
  s.act dt [.regs .dxs, .ports .dxs, .dma .dxs, .binder, .host] (bringTimeout p)

end Sys2Proof.Machine
end

