-- ==== Sys2Proof/Machine/Binder.lean ====
section
/-! DEFINITION. The mailboxes' polling and host writes, and the control commands that belong to no job (R111, R114, R115, R304, R305,
R309 to R314, R320, R321). -/

namespace Sys2Proof.Machine

/-! ### Polling (R311, R312) -/

/-- A page that is no command: an unknown CLASS, a control command without a code, or NREC or FLAGS not 0 (log entry 27, DEDUCED). -/
def Block.badPost (b : Block) (mb : Nat) : Bool :=
  let cmd := b.pageAt mb 16 2
  b.pageAt mb 8 1 > 1 || cmd == 0 || cmd > Cmd.status || b.pageAt mb 9 1 != 0 || b.pageAt mb 19 1 != 0

/-- A POSTED page is taken. A control command that no earlier answer fits stays TAKEN for its row. -/
def Block.takePage (b : Block) (mb : Nat) : Block :=
  let b := (b.setOwn mb Own.taken).bump .dxs Reg.BN_MB_CMD_CNT
  let cmd := b.pageAt mb 16 2
  if b.pageAt mb 8 1 == 1 then b.openPage mb
  else if b.badPost mb then b.answer mb Cs.badCmd
  else if !b.actingRoot && cmd != Cmd.remote && cmd != Cmd.status then b.answer mb Cs.notActing
  else if b.cmdBusy mb then b.answer mb Cs.busy
  else b

/-- A polling pass: the POSTED pages in ascending mailbox number. -/
def mailboxPoll (b : Block) : Block :=
  if b.hub.bn.boot != 1 then b
  else b.each (List.range nMbox) fun b mb => if b.own mb == Own.posted then b.takePage mb else b

/-- A write of the host to a word of BAR2: discarded and counted while the page is POSTED or TAKEN. -/
def mailboxHostWrite (mb off : Nat) (w : Word) (b : Block) : Block :=
  let at_ := off / 4 * 4
  if mb ≥ nMbox || off ≥ pageSize || !b.sm.perst || !b.sm.powered || !b.sm.prst then b
  else if b.own mb == Own.posted || b.own mb == Own.taken then b.bump .dxs Reg.BN_MB_WR_DROP_CNT
  else b.setPage mb at_ (leBytes 4 (if at_ == 0 then w.toNat % 4 else w.toNat))

/-! ### STATUS -/

/-- What a read of a register of the DX-S48 gives the binder. -/
def Block.own4 (b : Block) (off : Nat) : List Byte := leBytes 4 (b.regRead .dxs off).toNat

def statusCmd (mb : Nat) (b : Block) : Block :=
  b.control mb Cmd.status fun b =>
    b.answer mb Cs.ok [(32, b.own4 Reg.BN_STATUS ++ b.own4 Reg.BN_FW ++ b.own4 Reg.BN_TOPO)]

/-! ### TOPO_LOAD (R321, R322) -/

def topoLoad (mb : Nat) (b : Block) : Block :=
  b.control mb Cmd.topoLoad fun b =>
    if !b.loadedJobs.isEmpty then b.answer mb Cs.jobState
    else b.withBuf mb fun bs b =>
      let t := topoOf bs
      if !topoIntact bs || !t.consistent then b.answer mb Cs.topoBad
      else
        let b := (b.updBn fun n => { n with table := [] }).takeTopo t
        let b := (b.updBn fun n => { n with table := bs }).shareTopo (.copy mb) bs b.otherNodes
        let b := if b.recMatches t then b
          else (b.updBn fun n => { n with slice := false }).sendBring Bring.mismatch 0xFF b.dxs.nodeNo
        b.answerCopied mb [(32, leBytes 4 t.crc)]

/-! ### REINSTATE (R304) -/

/-- The part that REINSTATE names, if its arguments agree with each other and with the log. -/
def Block.reinstated (b : Block) (mb : Nat) : Option Part :=
  let num := b.pageAt mb 34 2
  match b.pageAt mb 32 1 with
  | 0 =>
    match b.recAtPos (b.pageAt mb 36 4) with
    | none => none
    | some r =>
      let d := b.topo.die r
      if (!d.bound || d.idx == num) && b.hub.fq.badRecs.contains r then some (b.partOfRec r) else none
  | 1 => if (b.topo.nodeOf num).isSome && b.faulty (Part.dxs num) then some (Part.dxs num) else none
  | _ => none

/-- Whether a part has been reset and answers again: of the block's own die its READY state and its epochs, of another part its
ports towards this node (log entry 28, DESIGN CHOICE). -/
def Block.answersAgain (b : Block) (p : Part) : Bool :=
  match b.recOfPart p with
  | some r => r != ownRec || (b.dxt.die.bring == .ready && [0, 1].all fun q => !b.upPort .dxt q || !b.epochMismatch .dxt q)
  | none => true

def reinstate (mb : Nat) (b : Block) : Block :=
  b.control mb Cmd.reinstate fun b =>
    match b.reinstated mb with
    | none => b.answer mb Cs.paramRange
    | some p =>
      if !b.answersAgain p then b.answer mb Cs.notReady
      else
        let b := b.appendVerdict Vk.reinstate (some p) 0 (b.jobOfPart p) 0 0 0 0
        let b := b.actLater (.reinstate p) fun b => b.reenable p
        let b := if p == Part.dxs b.otherRoot then b.updPath fun x => { x with solo := false } else b
        b.reopineAll.answer mb Cs.ok [(40, leBytes 4 b.hub.fq.seq)]

/-! ### HANDBACK (R114) -/

/-- Root A is LOCKED on the CROSS domain. -/
def Block.partnerLocked (b : Block) : Bool :=
  match b.crossPort with
  | some p => b.upPort .dxs p && (b.port .dxs p).rx.lock == LockState.locked.code
  | none => false

/-- After HANDBACK a context between its start and its next ending instruction stays with root B; the others pass at once (R234). -/
def Block.holdContexts (b : Block) : Block :=
  b.each b.loadedJobs fun b j => b.updJob j fun x => { x with hold := x.active && !x.stopped }

/-- Root B returns to its normal conduct; its word stays. -/
def Block.giveBack (b : Block) : Block :=
  let b := b.holdContexts
  let ki := fld (b.reg .dxs Reg.TT_SERVO_CFG) 11 8
  (b.updRoot fun r => { r with acting := false, sel := none }).updClk .dxs fun c =>
    { c with sel := 0, fw48 := c.fw * 65536, iTerm := -(c.fw * (2 ^ ki : Nat)) }

/-- Root A, LOCKED on CROSS, goes on from what root B hands it: its own θ on the CROSS domain is added to each bias. -/
def Block.takeBack (b : Block) (h : RootHand) : Block :=
  let own := match b.crossPort with
    | some p => (b.port .dxs p).echo.theta
    | none => 0
  if b.dxs.role != .rootA || b.actingRoot || (b.clk .dxs).lock != .locked then b
  else
    let b := (b.holdContexts.setFw48 .dxs h.1).updClk .dxs fun c => { c with hold := false }
    let b := b.each (List.range 8) fun b i => b.updCand i fun c => { c with bias := h.2.2.2.getD i 0 + own }
    b.updRoot fun r =>
      { r with acting := true, i48 := h.2.1, sel := h.2.2.1, te := b.ht .dxs, overAt := b.now, inWin := 0, outWin := 0, acqAt := b.now }

/-- HANDBACK. Root B accepts it while root A is LOCKED, and gives the role back at its next column boundary. -/
def handback (mb : Nat) (given : Option RootHand) (b : Block) : Block :=
  match given with
  | some h => b.takeBack h
  | none =>
    b.control mb Cmd.handback fun b =>
      if b.dxs.role == .rootB && b.actingRoot && b.partnerLocked then
        (b.updRoot fun r => { r with roleDue := some false }).answer mb Cs.ok
      else b.answer mb Cs.handbackRefused

/-- A change of role that waits for the column boundary (R114). -/
def Block.turnRole (b : Block) : Block :=
  match b.dxs.root.roleDue with
  | some true => (b.updRoot fun r => { r with roleDue := none }).takeRole
  | some false => (b.updRoot fun r => { r with roleDue := none }).giveBack
  | none => b

/-- The column boundary: a change of role that waits for it, the selection of the domain, and at root B the loop's own source (R89, R99,
R114). -/
def columnBoundary (sd : Side) (phaseOk : Bool) (b : Block) : Block :=
  match sd with
  | .dxt => domainSelect .dxt phaseOk b
  | .dxs => (domainSelect .dxs phaseOk b.turnRole).crossLoop

/-! ### FUNC_REINIT (R305) -/

def funcIs (b : Block) (mb f : Nat) : Bool := b.pageAt mb 32 1 == f

/-- Sets ENABLE of one of the node's own ports. -/
def Block.setEnable (b : Block) (p : Nat) (en : Bool) : Block :=
  let old := b.reg .dxs Reg.SP_CTRL p
  (b.hwBoth .dxs Reg.SP_CTRL p (w32 (old.toNat - old.toNat % 2 + b2n en))).portCtrlChanged .dxs p old

/-- ENABLE 0, then 1. Arguments that name no function are answered here too. -/
def funcReinitPort (mb : Nat) (b : Block) : Block :=
  b.control mb Cmd.funcReinit fun b =>
    let f := b.pageAt mb 32 1
    let p := b.pageAt mb 33 1
    if f == 0 || f > 4 || (f == 1 && p ≥ 48) then b.answer mb Cs.paramRange
    else if f != 1 then b
    else ((b.setEnable p false).setEnable p true).answer mb Cs.ok

/-- The session service's work in flight is lost: queued and relayed kills. -/
def funcReinitSession (mb : Nat) (b : Block) : Block :=
  b.control mb Cmd.funcReinit fun b =>
    if !funcIs b mb 2 then b
    else if b.loadedJobs.any fun j => (b.job j).sess && (b.job j).active then b.answer mb Cs.busy
    else (b.updSs fun u => { u with kills := [], relayed := [], audit := [] }).answer mb Cs.ok

def funcReinitFold (mb : Nat) (b : Block) : Block :=
  b.control mb Cmd.funcReinit fun b => if funcIs b mb 3 then b.reinitFold.answer mb Cs.ok else b

/-- An apply that takes EN to 0, for every halted channel (R372). -/
def funcReinitDma (mb : Nat) (b : Block) : Block :=
  b.control mb Cmd.funcReinit fun b =>
    if !funcIs b mb 4 then b
    else
      let b := b.each ((List.range 16).filter fun c => (b.chan .dxs c).st == .halted) fun b c =>
        let off := chanReg .dxs c 0
        let old := b.reg .dxs off
        (b.hwBoth .dxs off 0 (w32 (old.toNat % 2 ^ 31))).chanEnabled .dxs c old
      b.answer mb Cs.ok

/-! ### PTP_CONFIG (R115) -/

/-- A signed byte within a range. -/
def byteIn (bs : List Byte) (i : Nat) (lo hi : Int) : Bool := decide (lo ≤ sx 8 (leAt bs i 1)) && decide (sx 8 (leAt bs i 1) ≤ hi)

def ptpArgsOk (a : List Byte) : Bool :=
  leAt a 0 1 ≤ 3 && leAt a 1 1 ≤ 2 && byteIn a 2 (-7) 4 && byteIn a 3 (-7) 127 && byteIn a 4 (-3) 4 && leAt a 5 1 ≤ 1

/-- Slots 0 and 1 would name the same port and domain. -/
def Block.ptpClash (b : Block) (slot : Nat) : Bool :=
  let dom (i : Nat) := b.rf .dxs Reg.RF_P_CFG 15 8 i
  slot < 2 && (b.dxs.root.ptp.getD (1 - slot) PtpCfg.reset).on && b.candEth 4 == b.candEth 5 && dom 4 == dom 5

def ptpConfig (mb : Nat) (b : Block) : Block :=
  b.control mb Cmd.ptpConfig fun b =>
    let a := b.page mb 32 32
    let slot := leAt a 0 1
    if !ptpArgsOk a then b.answer mb Cs.paramRange
    else if b.ptpClash slot then b.answer mb Cs.conflict
    else
      let c : PtpCfg := ⟨true, leAt a 1 1, if slot < 2 then b.candEth (4 + slot) else slot - 2,
        if slot < 2 then b.rf .dxs Reg.RF_P_CFG 15 8 (4 + slot) else 0, a ++ b.page mb 64 256⟩
      (b.updRoot fun r => { r with ptp := r.ptp.set slot c }).answer mb Cs.ok

/-! ### The rows -/

def execMailboxPoll (dt : Nat) (s : State) : Host.Outcome State Fault Refusal :=
  s.act dt [.regs .dxs, .binder, .mbox] mailboxPoll

def execMailboxHostWrite (dt mb off : Nat) (w : Word) (s : State) : Host.Outcome State Fault Refusal :=
  s.act dt [.regs .dxs, .mbox] (mailboxHostWrite mb off w)

def execStatus (dt mb : Nat) (s : State) : Host.Outcome State Fault Refusal :=
  s.act dt [.mbox] (statusCmd mb)

def execTopoLoad (dt mb : Nat) (s : State) : Host.Outcome State Fault Refusal :=
  s.act dt [.regs .dxs, .ports .dxs, .inbox .dxs, .sheets .dxs, .dma .dxs, .eyes .dxs, .raised .dxs, .ident, .quorum,
    .binder, .mbox, .host] (topoLoad mb)

def execReinstate (dt mb : Nat) (s : State) : Host.Outcome State Fault Refusal :=
  s.act dt [.regs .dxs, .ports .dxs, .inbox .dxs, .sheets .dxs, .dma .dxs, .eyes .dxs, .raised .dxs, .path, .quorum,
    .binder, .mbox, .host] (reinstate mb)

def execHandback (dt : Nat) (pg : RolePage) (s : State) : Host.Outcome State Fault Refusal :=
  s.act dt [.clk .dxs, .root, .jobs, .mbox] (handback pg.mb pg.given)

def execDomainSelect (dt : Nat) (sd : Side) (phaseOk : Bool) (s : State) : Host.Outcome State Fault Refusal :=
  s.act dt (Foot.sided sd [.clk .dxt, .regs .dxt, .ports .dxt, .raised .dxt, .lastCause, .host] [.clk .dxs, .regs .dxs, .ports .dxs, .dma .dxs,
    .raised .dxs, .quality, .root, .jobs, .sess, .host]) (columnBoundary sd phaseOk)

def execFuncReinitPort (dt mb : Nat) (s : State) : Host.Outcome State Fault Refusal :=
  s.act dt [.regs .dxs, .ports .dxs, .inbox .dxs, .sheets .dxs, .eyes .dxs, .raised .dxs, .mbox] (funcReinitPort mb)

def execFuncReinitSession (dt mb : Nat) (s : State) : Host.Outcome State Fault Refusal :=
  s.act dt [.sess, .mbox] (funcReinitSession mb)

def execFuncReinitFold (dt mb : Nat) (s : State) : Host.Outcome State Fault Refusal :=
  s.act dt [.folds, .mbox] (funcReinitFold mb)

def execFuncReinitDma (dt mb : Nat) (s : State) : Host.Outcome State Fault Refusal :=
  s.act dt [.regs .dxs, .dma .dxs, .sram .dxs, .mbox, .host, .free] (funcReinitDma mb)

def execPtpConfig (dt mb : Nat) (s : State) : Host.Outcome State Fault Refusal :=
  s.act dt [.root, .mbox] (ptpConfig mb)

end Sys2Proof.Machine
end

