-- ==== Sys2Proof/Machine/FolioProgram.lean ====
section
/-! DEFINITION. The instructions of a folio's decision: CUTOFF to COMMIT, PAUSE and HALT, and the changes named for a later folio
(R23 to R28, R35, R39, R223, R225 to R228, R252 to R255, R297, R394). -/

namespace Sys2Proof.Machine

/-! ### The order of a segment (R223) -/

/-- The instructions of the sequence that a segment must have issued. -/
def Job.required (x : Job) : List Nat :=
  if x.prologue then [] else if x.sess then [Op.cutoff, Op.retire, Op.charge] else [Op.cutoff]

/-- Whether an instruction of the sequence may issue now. -/
def Job.orderOk (x : Job) (op : Nat) : Bool :=
  !(x.prologue && (op == Op.cutoff || op == Op.retire || op == Op.charge)) &&
    !(x.ran.any fun r => decide (op ≤ r)) && x.required.all fun r => !decide (r < op) || x.ran.contains r

def sessionOp (op : Nat) : Bool := op == Op.retire || op == Op.charge || op == Op.admitOp || op == Op.form

/-- Runs an instruction of the sequence, or halts the job: NO_SESS, then ORDER_BAD. -/
def Block.inOrder (b : Block) (j op : Nat) (f : Block → Block) : Block :=
  let x := b.job j
  if sessionOp op && !x.sess then b.progFault j Pstat.noSess
  else if !x.orderOk op then b.progFault j Pstat.order
  else f (b.updJob j fun x => { x with ran := x.ran ++ [op] })

/-! ### CUTOFF (R23, R24, R40) -/

def doCutoff (j : Nat) (b : Block) : Block := b.inOrder j Op.cutoff fun b => b.updJob j fun x => { x with wait := .cutoff }

/-- Whether the DONE set of the job's folio is complete. -/
def Block.doneSet (b : Block) (j : Nat) : Bool :=
  let x := b.job j
  let i := b.done j x.sn
  i.live && i.sn == x.sn && i.fwd

/-- The report that CUTOFF uses has been merged (R250, R251): DONE follows its sheets, so at a job with sessions it is awaited. -/
def Block.reportHere (b : Block) (j : Nat) : Bool := !(b.job j).sess || ((b.job j).reportOf (b.job j).cutB (b.job j).sn).isSome

/-- The seal stamp: of the tree that completed first. -/
def Block.sealStamp (b : Block) (j : Nat) : Nat :=
  let x := b.job j
  let i := b.done j x.sn
  if x.cutB then i.stampB else i.stamp

def Job.sched (x : Job) : Nat := x.tgo + x.period
def Job.ready_ (x : Job) : Nat := x.cut + x.lead

/-- The DONE set is complete, and the report merged: Tcut and Tseal are recorded, with the period and lead in effect. -/
def cutoffComplete (j : Nat) (b : Block) : Block :=
  let x := b.job j
  if !(b.runsJob j && x.active && !x.stopped && x.wait == .cutoff && b.doneSet j && b.reportHere j) then b
  else (b.showCut j x.sn (b.ht .dxs) (b.sealStamp j)).updJob j fun x => { x with wait := .none, st := .deciding }

/-! ### The session instructions -/

def doRetire (j pc w : Nat) (b : Block) : Block :=
  b.inOrder j Op.retire fun b =>
    b.varies j Op.retire pc (wdOf w) (fun b =>
      let r := b.retireLive j
      (⟨r.n, (r.b.job j).f, r.pay⟩, r.b)) fun pay b => b.retireReplay j pay

def doCharge (j w : Nat) (b : Block) : Block :=
  b.inOrder j Op.charge fun b =>
    let (n, b) := b.charge j
    b.setWord j (wdOf w) n

/-- The requests that ADMIT considers: up to the cut-off, or up to now in the prologue. -/
def Block.admitUpTo (b : Block) (j : Nat) : Nat := if (b.job j).prologue then b.ht .dxs else (b.job j).cut

def doAdmit (j pc w : Nat) (b : Block) : Block :=
  b.inOrder j Op.admitOp fun b =>
    b.varies j Op.admitOp pc (wdOf w) (fun b =>
      let r := b.admitLive j (immOf w) (b.admitUpTo j)
      (⟨r.n, (r.b.job j).f, r.pay⟩, r.b)) fun pay b => b.admitReplays j pay

def doForm (j : Nat) (b : Block) : Block := b.inOrder j Op.form fun b => b.form j

/-! ### Ending a segment (R25, R26, R39, R225 to R227, R394) -/

/-- The launch time of the next folio by R25 and R39: scheduled time, launch time, and whether it is late. -/
def Job.nextLaunch (x : Job) : Nat × Nat × Bool :=
  let t := ceilGrid (max x.sched x.ready_)
  let t := if x.oppFor == some (x.sn + 1) && t < x.sealAt + 200 * 65536 then ceilGrid (x.sealAt + 200 * 65536) else t
  (x.sched, t, decide (x.ready_ > x.sched))

/-- The commit list of the folio that is being decided. -/
def Job.commitList (x : Job) (j : Nat) : List Byte := listBytes j x.folio x.entries (x.dueRecs x.nextSn)

/-- Scheduled time, launch time and lateness that a job's ending instruction computes: by R35 or R36 in the prologue. -/
def Job.endTimes (x : Job) : Nat × Nat × Bool := if x.prologue then (x.start, x.start, false) else x.nextLaunch

/-- PAUSE: the decision carries the list and no GO; the kept code is the program status. It is held like any other (R31). -/
def Block.pauseNow (b : Block) (j : Nat) : Block :=
  let b := (b.formFirst j).updJob j fun x => { x with pstat := x.deferred, deferred := 0 }
  let (sched, tgo, _) := (b.job j).endTimes
  b.decide_ j .pause tgo sched false ((b.job j).commitList j)

def doPause (j : Nat) (b : Block) : Block := b.inOrder j Op.pause fun b => b.pauseNow j

def Block.commitNow (b : Block) (j : Nat) : Block :=
  let b := b.formFirst j
  let x := b.job j
  let (sched, tgo, late) := x.endTimes
  (b.updJob j fun x => { x with pstat := 0 }).decide_ j .commit tgo sched late (x.commitList j)

/-- COMMIT; a deferred pause turns it into PAUSE. -/
def doCommit (j : Nat) (b : Block) : Block :=
  b.inOrder j Op.commit fun b => if (b.job j).deferred == 0 then b.commitNow j else b.pauseNow j

/-- HALT: after CUTOFF it decides with the list and no GO; before it, nothing is decided. -/
def doHalt (j w : Nat) (b : Block) : Block :=
  let b := b.updJob j fun x => { x with haltCode := bits (immOf w) 15 0, deferred := 0 }
  if (b.job j).ran.contains Op.cutoff then
    let b := (b.formFirst j).updJob j fun x => { x with pstat := Pstat.halted }
    let (sched, tgo, _) := (b.job j).endTimes
    b.decide_ j .halt tgo sched false ((b.job j).commitList j)
  else b.haltJob j Pstat.halted

/-! ### Changes named for a later folio (R228, R297) -/

def doOppoint (j w : Nat) (b : Block) : Block :=
  if aheadOf w < 2 then b.deferPause j Pstat.oppLate
  else b.updJob j fun x => { x with opp := some (x.sn + aheadOf w, bits (immOf w) 3 0) }

/-- The records that a job may hold. -/
def maxRecs : Nat := 16

/-- Holds a program record; the 17th halts the job. -/
def Block.holdRec (b : Block) (j : Nat) (r : HeldRec) (f : Block → Block) : Block :=
  let x := b.job j
  if (x.unsent x.sn).length ≥ maxRecs then b.progFault j Pstat.recFull
  else f (b.updJob j fun x => { x with recs := x.recs ++ [r] })

def doApplyat (j w : Nat) (b : Block) : Block :=
  if aheadOf w < 2 then b.deferPause j Pstat.applyLate
  else b.holdRec j ⟨1, 0, (b.job j).sn + aheadOf w, immOf w, 0⟩ id

def doSeed (j w : Nat) (b : Block) : Block :=
  if aheadOf w < 2 then b.deferPause j Pstat.seedLate
  else b.holdRec j ⟨2, bits (subOf w) 2 0, (b.job j).sn + aheadOf w, immOf w, 0⟩ id

def doCkpt (j w : Nat) (b : Block) : Block :=
  let e := (b.job j).epoch + 1
  b.holdRec j ⟨3, 0, (b.job j).sn + 2, bits (immOf w) 15 0, e⟩ fun b =>
    (b.updJob j fun x => { x with epoch := e }).setWord j (wdOf w) e

/-! ### The rows -/

def execHalt (dt job : Nat) (s : State) : Host.Outcome State Fault Refusal :=
  s.act dt [.regs .dxs, .ports .dxs, .inbox .dxs, .dma .dxs, .raised .dxs, .instances, .dones, .folds, .jobs, .path,
    .sess, .gaAudit, .gaOver, .host] fun b => b.issue job Op.halt (doHalt job)

def execCutoff (dt job : Nat) (s : State) : Host.Outcome State Fault Refusal :=
  s.act dt [.regs .dxs, .dma .dxs, .jobs, .path, .sess, .host] fun b => b.issue job Op.cutoff fun _ b => doCutoff job b

def execCutoffComplete (dt job : Nat) (s : State) : Host.Outcome State Fault Refusal :=
  s.act dt [.regs .dxs, .jobs] (cutoffComplete job)

def execRetire (dt job : Nat) (s : State) : Host.Outcome State Fault Refusal :=
  s.act dt [.regs .dxs, .ports .dxs, .dma .dxs, .instances, .jobs, .path, .sess, .host, .free]
    fun b => b.issueVaries job Op.retire (doRetire job)

def execCharge (dt job : Nat) (s : State) : Host.Outcome State Fault Refusal :=
  s.act dt [.regs .dxs, .dma .dxs, .jobs, .path, .sess, .host] fun b => b.issue job Op.charge (doCharge job)

def execAdmitSeq (dt job : Nat) (s : State) : Host.Outcome State Fault Refusal :=
  s.act dt [.regs .dxs, .ports .dxs, .dma .dxs, .instances, .jobs, .path, .sess, .host]
    fun b => b.issueVaries job Op.admitOp (doAdmit job)

def execForm (dt job : Nat) (s : State) : Host.Outcome State Fault Refusal :=
  s.act dt [.regs .dxs, .dma .dxs, .jobs, .path, .sess, .host] fun b => b.issue job Op.form fun _ b => doForm job b

def execCommit (dt job : Nat) (s : State) : Host.Outcome State Fault Refusal :=
  s.act dt [.regs .dxs, .ports .dxs, .inbox .dxs, .dma .dxs, .raised .dxs, .instances, .dones, .folds, .jobs, .path,
    .sess, .gaAudit, .gaOver, .host] fun b => b.issue job Op.commit fun _ b => doCommit job b

def execPause (dt job : Nat) (s : State) : Host.Outcome State Fault Refusal :=
  s.act dt [.regs .dxs, .ports .dxs, .inbox .dxs, .dma .dxs, .raised .dxs, .instances, .dones, .folds, .jobs, .path,
    .sess, .gaAudit, .gaOver, .host] fun b => b.issue job Op.pause fun _ b => doPause job b

def execOppoint (dt job : Nat) (s : State) : Host.Outcome State Fault Refusal :=
  s.act dt [.regs .dxs, .dma .dxs, .jobs, .path, .sess, .host] fun b => b.issue job Op.oppoint (doOppoint job)

def execApplyat (dt job : Nat) (s : State) : Host.Outcome State Fault Refusal :=
  s.act dt [.regs .dxs, .dma .dxs, .jobs, .path, .sess, .host] fun b => b.issue job Op.applyat (doApplyat job)

def execSeed (dt job : Nat) (s : State) : Host.Outcome State Fault Refusal :=
  s.act dt [.regs .dxs, .dma .dxs, .jobs, .path, .sess, .host] fun b => b.issue job Op.seed (doSeed job)

def execCkpt (dt job : Nat) (s : State) : Host.Outcome State Fault Refusal :=
  s.act dt [.regs .dxs, .dma .dxs, .jobs, .path, .sess, .host] fun b => b.issue job Op.ckpt (doCkpt job)

end Sys2Proof.Machine
end

