-- ==== Sys2Proof/Machine/Jobs.lean ====
section
/-! DEFINITION. The job commands of the mailboxes (R35, R36, R219, R265, R275 to R279, R300 to R302, R313). -/

namespace Sys2Proof.Machine

/-- The job that a command's page names. -/
def Block.cmdJob (b : Block) (mb : Nat) : Nat := b.pageAt mb 18 1

/-- A job command: its effect with the job it names. -/
def Block.jobCmd (b : Block) (mb cmd : Nat) (f : Nat → Block → Block) : Block := b.control mb cmd (f (b.cmdJob mb))

/-- Where ARGS [i] stands in a page. -/
def argAt (i : Nat) : Nat := 32 + i

def Block.arg (b : Block) (mb i n : Nat) : Nat := b.pageAt mb (argAt i) n

/-- Where the inline data of a control command starts. -/
def dataAt : Nat := 64

/-! ### JOB_LOAD, JOB_START, JOB_UNLOAD -/

/-- A die that the table binds to the job is not READY: the own die, or one of those that `unready` names, the logical indices at which
the binder has read another state or had no answer (log entry 178, DESIGN CHOICE). -/
def Block.diesUnready (b : Block) (j : Nat) (unready : List Nat) : Bool :=
  (b.ownOf j && !b.ownReady) || unready.any fun i => (b.jobDies j).contains i

def jobLoad (mb : Nat) (unready : List Nat) (b : Block) : Block :=
  b.jobCmd mb Cmd.jobLoad fun j b => b.withBuf mb fun bs b =>
    match b.checkLoad j bs with
    | .error s => b.answer mb s
    | .ok base =>
      if b.diesUnready j unready then b.answer mb Cs.notReady
      else ((b.loadHere (.copy mb) j base bs).bindFresh j).answerCopied mb

def jobStart (mb : Nat) (b : Block) : Block :=
  b.jobCmd mb Cmd.jobStart fun j b =>
    if (b.job j).st != .loaded then b.answer mb Cs.jobState
    else
      let start := ceilGrid (max (htOfBytes (b.page mb (argAt 0) 12) 0) (b.ht .dxs + b.ftLead j))
      (b.updJob j fun x => { x with st := .deciding, start := start }).answer mb Cs.ok [(argAt 16, htBytes start)]

def jobUnload (mb : Nat) (b : Block) : Block :=
  b.jobCmd mb Cmd.jobUnload fun j b =>
    let x := b.job j
    if x.active && !x.stopped then b.answer mb Cs.jobState else (b.unloadJob j).answer mb Cs.ok

/-! ### JOB_PAUSE, JOB_RESUME (R36, R226, R279, R302) -/

def Job.snBytes (x : Job) : List Byte := leBytes 8 (x.folio % 2 ^ 64).toNat

/-- JOB_PAUSE defers a pause and keeps its page until the job has paused; the row then runs again. -/
def jobPause (mb : Nat) (b : Block) : Block :=
  b.jobCmd mb Cmd.jobPause fun j b =>
    let x := b.job j
    if !b.isAccepted mb then
      if x.active && !x.stopped then (b.deferPause j Pstat.hostPause).setAccepted mb 1 else b.answer mb Cs.jobState
    else if x.stopped || x.st == .halted then b.answerWait mb Cs.jobState
    else if x.st == .paused then b.answerWait mb Cs.ok [(argAt 0, x.snBytes)]
    else b

/-- The list that GO k+1 carries after a pause: none, but for the records of an image that no GO has carried yet, in order (R279). -/
def Job.resumeList (x : Job) (j : Nat) : List Byte := if x.restored then listBytes j x.folio [] x.recs else []

/-- A restored job's records are emitted with its first GO; it catches up with its log, or goes live at once. -/
def Job.resumed (x : Job) : Job :=
  let x := if x.restored then { x with early := x.early ++ x.recs, recs := [] } else x
  let x := { x with st := .deciding, restored := false }
  if x.rst.st != .ready then x
  else { x with rst := { x.rst with st := if x.record && decide (x.folio < (x.rst.last : Int)) then .catchup else .none } }

def jobResume (mb : Nat) (b : Block) : Block :=
  b.jobCmd mb Cmd.jobResume fun j b =>
    let x := b.job j
    if x.st != .paused || x.stopped || b.binding j then b.answer mb Cs.jobState
    else
      let start := ceilGrid (b.ht .dxs + b.ftLead j)
      let list := x.resumeList j
      ((b.updJob j Job.resumed).decide_ j .commit start start false list).answer mb Cs.ok [(argAt 16, htBytes start)]

/-! ### JOB_SAVE (R275) -/

/-- A die of the job has not applied the commit list of the last folio decided: the own die, or one of those that `held` names, the
logical indices at which the root has read EGRESS_HELD (log entry 178, DESIGN CHOICE). -/
def Block.egressOpen (b : Block) (j : Nat) (held : List Nat) : Bool :=
  (b.bound && b.dxt.step.job == j && b.dxt.step.egressHeld) || held.any fun i => (b.jobDies j).contains i

/-- An instance of a gathering of the job is live and not decided. -/
def Block.undecided (b : Block) (j : Nat) : Bool :=
  (b.jobGaths j).any fun d =>
    let p := nget pairReset b.hub.ga d.1
    (p.s0.live && p.s0.outcome == 0) || (p.s1.live && p.s1.outcome == 0)

/-- A fold of the job's last folio was decided, and its result has not been delivered to a destination die: the own one, or one of
those that `lacking` names, the pairs of gathering and logical index at which the root has found none. -/
def Block.undelivered (b : Block) (j : Nat) (lacking : List (Nat × Nat)) : Bool :=
  let k := (b.job j).sn
  (b.jobGaths j).any fun d =>
    gdKind d.2.bytes == 4 && (b.inst d.1 k).live && (b.inst d.1 k).sn == k &&
      ((b.bound && b.dxt.step.job == j && (b.endpoints d.1).any fun o => !b.objDone o (k % 2)) ||
        lacking.any fun l => l.1 == d.1 && (b.jobDies j).contains l.2 && (d.2.dests.isEmpty || d.2.dests.contains l.2))

def jobSave (mb : Nat) (held : List Nat) (lacking : List (Nat × Nat)) (b : Block) : Block :=
  b.jobCmd mb Cmd.jobSave fun j b =>
    let x := b.job j
    if x.st != .paused || x.stopped then b.answer mb Cs.jobState
    else if b.egressOpen j held then b.answer mb Cs.egressOpen
    else if b.undecided j || b.undelivered j lacking then b.answer mb Cs.gathOpen
    else
      let img := b.jobImage j x.folio
      let (at_, room) := b.bufAt mb
      if img.length > room then b.answer mb Cs.paramRange
      else if !b.chanAble .dxs chanMbox then b.answer mb Cs.hostErr
      else (b.hostWrite chanMbox at_ img).answer mb Cs.ok [(12, leBytes 4 img.length), (argAt 0, leBytes 8 img.length)]

/-! ### JOB_RESTORE (R278, R279) -/

/-- The range of an image overlaps that of a loaded job. -/
def Block.rangeTaken (b : Block) (range : Nat) : Bool :=
  let lo := range % 65536
  let n := range / 65536
  b.loadedJobs.any fun i =>
    let w := (b.reg .dxs Reg.GA_RANGE i).toNat
    n > 0 && w / 65536 > 0 && lo < w % 65536 + w / 65536 && w % 65536 < lo + n

/-- A die of the job has another colophon GEOM than the one named: the own die, or one of `geoms`, which gives what the binder has read
of other dies by logical index (log entry 178, DESIGN CHOICE). -/
def Block.geomDiffers (b : Block) (ns : List Nat) (geoms : List (Nat × Nat)) (geom : Nat) : Bool :=
  ns.any fun i => if b.recOf i == some ownRec then b.dxt.die.geom != geom else geoms.any fun g => g.1 == i && g.2 != geom

/-- The first status of R278 that applies to a job image that is well formed. -/
def Block.imageRefused (b : Block) (j : Nat) (prog img : List Byte) (ss : List Section) (geoms : List (Nat × Nat)) : Option Nat :=
  let dies := b.jobDies j
  let c := sectionOf ss 1
  let named := (splitGather (sectionCount ss 4) (sectionOf ss 4)).flatMap fun g => g.2.1 ++ g.2.2
  let slots := (chop 64 (sectionCount ss 6) (sectionOf ss 6)).map fun r => slotOf (leAt r 0 4)
  let tens := (chop 48 (sectionCount ss 7) (sectionOf ss 7)).map fun t => leAt t 0 4
  let ticks := ((chop 48 (sectionCount ss 9) (sectionOf ss 9)).filter fun p => leAt p 0 1 == Pk.park).map fun p => leAt p 8 4 % 2 ^ 22
  if leAt img 24 4 != leAt prog 60 4 then some Cs.progMismatch
  else if dies.length != leAt img 28 4 || named.any fun i => !dies.contains i then some Cs.bindMismatch
  else if b.geomDiffers dies geoms (leAt c 170 1) then some Cs.geomMismatch
  else if b.rangeTaken (leAt c 172 4) then some Cs.gathRange
  else if slots.any fun i => (b.sess i).st != Sess.free then some Cs.slotBusy
  else if tens.any fun t => (b.tenant t).valid && (b.tenant t).job != j then some Cs.tenantBusy
  else if ticks.any fun i => (b.ticket i).st != 0 then some Cs.ticketBusy
  else none

/-- A command that has bound a job's dies keeps its page until every binding and every write is complete (R170, R279); the row then
runs again. -/
def Block.bindingDone (b : Block) (mb j : Nat) : Block := if b.binding j || b.copying mb then b else b.answerWait mb Cs.ok

def jobRestore (mb : Nat) (geoms : List (Nat × Nat)) (b : Block) : Block :=
  b.jobCmd mb Cmd.jobRestore fun j b => if b.isAccepted mb then b.bindingDone mb j else b.withBuf mb fun bs b =>
    let n := b.arg mb 0 4
    let shift := sx 64 (b.arg mb 8 8)
    let prog := bs.take n
    let img := bs.drop n
    match b.checkLoad j prog with
    | .error s => b.answer mb s
    | .ok base =>
      match imageSections img with
      | none => b.answer mb Cs.imgBad
      | some ss =>
        match b.imageRefused j prog img ss geoms with
        | some s => b.answer mb s
        | none =>
          let b := (b.loadHere (.copy mb) j base prog).loadImage (.copy mb) j img ss shift (leAt img 48 4) (sectionOf ss 3)
          (((b.bindAt j (imgSn img + 1).toNat).killPending j).setAccepted mb 1).bindingDone mb j

/-! ### JOB_RESTART (R300, R301) -/

/-- The pairs of a JOB_RESTART: logical index and position. -/
def Block.pairs (b : Block) (mb : Nat) : List (Nat × Nat) :=
  (chop 8 (min (b.arg mb 0 4) 504) (b.page mb dataAt 4032)).map fun p => (leAt p 0 2, leAt p 4 4)

/-- The geometry that a job's snapshot names. -/
def Block.targetGeom (b : Block) (j : Nat) : Nat :=
  match b.target j with
  | some (_, img) => match imageSections img with
    | some ss => leAt (sectionOf ss 1) 170 1
    | none => b.dxt.die.geom
  | none => b.dxt.die.geom

/-- The first status of R300 that applies; `geoms` gives, by position, the colophon GEOM that the binder has read of the dies named,
`unready` the positions whose dies are not READY or do not answer REMOTE. -/
def Block.restartRefused (b : Block) (j : Nat) (ps geoms : List (Nat × Nat)) (unready : List Nat) : Option Nat :=
  let x := b.job j
  let recs := ps.map fun p => b.recAtPos p.2
  let named := recs.filterMap id
  if !x.stopped then some Cs.jobState
  else if ps.any fun p => !x.rst.expelled.contains p.1 then some Cs.notMember
  else if named.any fun r => (b.topo.die r).bound then some Cs.bindBusy
  else if recs.any Option.isNone || (named.contains ownRec && !b.ownReady) || ps.any (fun p => unready.contains p.2) then some Cs.notReady
  else if named.any fun r => b.hub.fq.badRecs.contains r then some Cs.fenced
  else if (named.contains ownRec && b.dxt.die.geom != b.targetGeom j) || ps.any (fun p => b.recAtPos p.2 != some ownRec &&
      geoms.any fun g => g.1 == p.2 && g.2 != b.targetGeom j) then some Cs.geomMismatch
  else none

/-- Takes a logical index from its die record to another one. -/
def Block.rebind (b : Block) (j idx pos : Nat) : Block :=
  match b.recAtPos pos with
  | none => b
  | some r =>
    let buddy := (b.buddyOf idx).getD 0
    let b := match b.recOf idx with
      | some o => b.setDie o { b.topo.die o with bound := false, job := 0 }
      | none => b
    b.setDie r { b.topo.die r with idx := idx, job := j, bound := true, buddy := buddy }

/-- The die records that a JOB_RESTART has changed go to every other node: those that have no index now,
then those of the named positions. -/
def Block.shareDies (b : Block) (use : RemUse) (ps : List (Nat × Nat)) : Block :=
  let new := ps.filterMap fun p => b.recAtPos p.2
  let old := (List.range b.topo.dies.length).filter fun r => !(b.topo.die r).bound
  b.each (old ++ new) fun b r => b.copyTo use b.otherNodes Ck.die r (dieRecBytes (b.topo.die r))

/-- The state of the restart after a JOB_RESTART has named indices. -/
def Restart.named (r : Restart) (ns all : List Nat) : Restart :=
  let left := if r.st == .restoring then (r.left ++ ns).eraseDups else all
  { r with st := .restoring, left := left, exposed := if r.fallback then [] else (r.exposed ++ ns).eraseDups,
           expelled := r.expelled.filter fun i => !ns.contains i }

/-- The seeds and the operating point that the target's snapshot gives a binding; the table is the root's copy (R331). -/
def Block.bindFrom (b : Block) (j : Nat) (img : List Byte) (ss : List Section) : Block :=
  let c := sectionOf ss 1
  let b := b.updJob j fun x =>
    { x with streams := leAt c 4 1 % 16, salts := (List.range 4).map fun i => leAt c (16 + 4 * i) 4, oppNow := leAt c 5 1 % 16 }
  b.bindAt j (imgSn img + 1).toNat

/-- Every die of the job is bound at the folio before the target's. -/
def Block.bindTarget (b : Block) (j : Nat) : Block :=
  match b.target j with
  | none => b
  | some (_, img) => match imageSections img with
    | none => b
    | some ss => b.bindFrom j img ss

/-- An index and its buddy are both named. -/
def Block.pairNamed (b : Block) (ns : List Nat) : Bool :=
  ns.any fun i => match b.buddyOf i with
    | some k => k != i && ns.contains k
    | none => false

def jobRestart (mb : Nat) (geoms : List (Nat × Nat)) (unready : List Nat) (b : Block) : Block :=
  b.jobCmd mb Cmd.jobRestart fun j b => if b.isAccepted mb then b.bindingDone mb j else
    let ps := b.pairs mb
    match b.restartRefused j ps geoms unready with
    | some s => b.answer mb s
    | none =>
      let ns := ps.map Prod.fst
      let b := ((b.each ps fun b p => b.rebind j p.1 p.2).shareDies (.copy mb) ps).replan (.copy mb) j
      let all := b.jobDies j
      let b := b.updJob j fun x => { x with rst := x.rst.named ns all }
      let b := if b.pairNamed ns && !(b.job j).rst.fallback then b.fallBack j (b.job j).rst.cause else b
      ((b.on ((b.job j).rst.st == .restoring) fun b => b.bindTarget j).setAccepted mb 1).bindingDone mb j

/-! ### RESTORE_DONE (R301, R302) -/

/-- The indices of a RESTORE_DONE. -/
def Block.indices (b : Block) (mb : Nat) : List Nat :=
  (chop 2 (min (b.arg mb 0 4) 2016) (b.page mb dataAt 4032)).map fun p => leAt p 0 2

/-- The job's tenants, sessions, definitions and instances go, for those of a snapshot. -/
def Block.clearJob (b : Block) (j : Nat) : Block :=
  let b := (b.clearTables j).each (b.jobGaths j) fun b d => b.dropDef d.1
  b.updHub fun h => { h with dones := nset pairReset h.dones j GPair.reset }

/-- The period of a restart: one that is staged takes effect, else the snapshot's (R302, R331; log entry 183, DEDUCED). -/
def Block.restartPeriod (b : Block) (j : Nat) (img : List Byte) : Nat :=
  let w := b.staged .dxs Reg.FT_PERIOD j
  if w == b.reg .dxs Reg.FT_PERIOD j then leAt img 48 4 else w.toNat

/-- Every index is restored: the root's tables and context come from the target's snapshot, and the job is READY. The table is the
root's copy, which R279 puts into its step 3, and R302 asks for the others (log entry 183, DEDUCED). -/
def Block.restored (b : Block) (use : RemUse) (j : Nat) : Block :=
  match b.target j with
  | none => b
  | some (c, img) => match imageSections img with
    | none => b
    | some ss =>
      let pos := (b.job j).logBytes
      let b := (b.clearJob j).loadImage use j img ss 0 (b.restartPeriod j img) (b.job j).table
      let b := (b.killPending j).updJob j fun x => { x with logEnd := pos, rst := { x.rst with st := .ready } }
      b.postEvent (eventBytes Ev.lost 0 j 0 c.folio (b.ht .dxs) 0)

def restoreDone (mb : Nat) (b : Block) : Block :=
  b.jobCmd mb Cmd.restoreDone fun j b =>
    let x := b.job j
    let ns := b.indices mb
    if x.rst.st != .restoring then b.answer mb Cs.jobState
    else if ns.any fun i => !(b.jobDies j).contains i then b.answer mb Cs.notMember
    else
      let b := b.updJob j fun x =>
        { x with rst := { x.rst with left := x.rst.left.filter (fun i => !ns.contains i),
                                     exposed := x.rst.exposed.filter (fun i => !ns.contains i) } }
      let r := (b.job j).rst
      let b := if r.left.isEmpty && r.expelled.isEmpty then b.restored (.copy mb) j else b
      b.answerCopied mb [(argAt 8, leBytes 4 r.left.length)]

/-! ### The rows -/

def execJobLoad (dt : Nat) (pg : LoadPage) (s : State) : Host.Outcome State Fault Refusal :=
  s.act dt [.regs .dxs, .ports .dxs, .sheets .dxs, .dma .dxs, .regs .dxt, .dma .dxt, .step, .die, .jobs, .prog,
    .binder, .mbox] (jobLoad pg.mb pg.unready)

def execJobStart (dt mb : Nat) (s : State) : Host.Outcome State Fault Refusal :=
  s.act dt [.jobs, .mbox] (jobStart mb)

def execJobPause (dt mb : Nat) (s : State) : Host.Outcome State Fault Refusal :=
  s.act dt [.jobs, .binder, .mbox] (jobPause mb)

def execJobResume (dt mb : Nat) (s : State) : Host.Outcome State Fault Refusal :=
  s.act dt [.regs .dxs, .ports .dxs, .inbox .dxs, .dma .dxs, .raised .dxs, .instances, .dones, .folds, .jobs, .path,
    .sess, .gaAudit, .gaOver, .mbox, .host] (jobResume mb)

def execJobUnload (dt mb : Nat) (s : State) : Host.Outcome State Fault Refusal :=
  s.act dt [.regs .dxs, .ports .dxs, .sheets .dxs, .dma .dxs, .step, .instances, .dones, .defs, .folds, .jobs, .path,
    .sess, .binder, .mbox, .host] (jobUnload mb)

def execJobSave (dt : Nat) (pg : SavePage) (s : State) : Host.Outcome State Fault Refusal :=
  s.act dt [.regs .dxs, .dma .dxs, .mbox, .host] (jobSave pg.mb pg.held pg.lacking)

def execJobRestore (dt : Nat) (pg : RestorePage) (s : State) : Host.Outcome State Fault Refusal :=
  s.act dt [.regs .dxs, .ports .dxs, .sheets .dxs, .dma .dxs, .regs .dxt, .dma .dxt, .step, .die, .instances, .defs,
    .folds, .jobs, .prog, .sess, .binder, .mbox, .host, .free] (jobRestore pg.mb pg.geoms)

def execJobRestart (dt : Nat) (pg : RestartPage) (s : State) : Host.Outcome State Fault Refusal :=
  s.act dt [.regs .dxs, .ports .dxs, .sheets .dxs, .dma .dxs, .regs .dxt, .dma .dxt, .step, .die, .instances, .defs,
    .folds, .jobs, .sess, .quorum, .binder, .mbox, .host] (jobRestart pg.mb pg.geoms pg.unready)

def execRestoreDone (dt mb : Nat) (s : State) : Host.Outcome State Fault Refusal :=
  s.act dt [.regs .dxs, .ports .dxs, .sheets .dxs, .dma .dxs, .instances, .dones, .defs, .folds, .jobs, .path, .sess,
    .binder, .mbox, .host, .free] (restoreDone mb)

end Sys2Proof.Machine
end

