-- ==== Sys2Proof/Machine/Defs.lean ====
section
/-! DEFINITION. The commands that define gatherings and fold descriptors (R168, R169, R191, R192, R212, R213). -/

namespace Sys2Proof.Machine

/-! ### GATHER_DEFINE (R168, R169, R213) -/

/-- The member and destination lists of a definition, as the command gives them. -/
structure Lists where
  members : List Nat
  dests : List Nat

/-- How many indices a definition lists. -/
def gdCount (d : List Byte) : Nat := (if gdListed d then gdN d else 0) + gdNdest d

/-- The most indices that stand in the page itself. -/
def inlineMax : Nat := 2000

/-- The lists: inline after the definition, or in the command buffer. -/
def listsOf (d data : List Byte) : Lists :=
  let m := if gdListed d then gdN d else 0
  let ix := (chop 2 (m + gdNdest d) data).map fun p => leAt p 0 2
  ⟨ix.take m, ix.drop m⟩

/-- The fields that R168 gives a range, and its reserved bits. -/
def gdFieldsOk (d : List Byte) : Bool :=
  let k := gdKind d
  let timed := k == 3
  k ≤ 4 && leAt d 2 1 &&& 0xC8 == 0 && !(timed && gdBase d == 3) && 1 ≤ gdN d && gdN d ≤ 65536 &&
    !((k == 1 || (timed && gdBase d == 1)) && (gdK d == 0 || gdK d > gdN d)) && !(timed && gdDeadline d > 20000000) &&
    !(timed && gdSettle d != 0 && (gdSettle d < 100 || gdSettle d > 100000)) && leAt d 20 1 ≤ 1 && leAt d 21 1 == 0 &&
    gdNdest d ≤ min (gdN d) 65535 && (k == 4 || gdNdest d == 0) && !(k == 4 && gdFold d > 4095) && leAt d 28 4 == 0

/-- The members of a definition: those listed, or every die bound to the job. -/
def Block.membersOf (b : Block) (d : List Byte) (l : Lists) : List Nat := if gdListed d then l.members else b.jobDies (gdJob d)

/-- The first status of R169 that applies. -/
def Block.gatherRefused (b : Block) (d : List Byte) (l : Lists) : Option Nat :=
  let j := gdJob d
  let x := b.job j
  let g := leAt d 0 2
  let w := (b.reg .dxs Reg.GA_RANGE j).toNat
  let ms := b.membersOf d l
  let dies := b.jobDies j
  let other := match b.gdef g with
    | some o => gdJob o.bytes != j
    | none => false
  if !x.loaded || x.st == .halted then some Cs.jobState
  else if x.active && !x.stopped then some Cs.gathActive
  else if g == 0xFFFF || g < w % 65536 || g ≥ w % 65536 + w / 65536 then some Cs.idRange
  else if other then some Cs.idBusy
  else if !gdFieldsOk d then some Cs.paramRange
  else if (ms.any fun i => !dies.contains i) || ms.eraseDups.length != gdN d || l.dests.any fun i => !ms.contains i then some Cs.notMember
  else none

/-- The FOLD gatherings through a node, but for one id, with their plans there. -/
def Block.foldsBut (b : Block) (n g : Nat) : List (Nat × GDef) :=
  (((nlist b.hub.gdefs).filter fun e => e.1 != g && gdKind e.2.bytes == 4).map fun e => (e.1, b.planAt n e.2)).filter fun e =>
    !e.2.plan.isEmpty

/-- Two instances of each may be open. -/
def maxFolds : Nat := 512

/-- What the FOLD gatherings of a list reserve at a node. -/
def Block.reserved (b : Block) (n : Nat) (l : List (Nat × GDef)) : Nat :=
  sumN (l.map fun e => e.2.reserve (b.topo.isRootNode n) (foldOpOf (b.foldDesc (gdFold e.2.bytes))))

/-- The nodes with a member of a definition beneath them. -/
def Block.foldNodes (b : Block) (d : GDef) : List Nat :=
  (b.topo.nodes.map NodeRec.num).filter fun n => !(b.planAt n d).plan.isEmpty

/-- The first status of R213 that applies to a FOLD gathering: its limits hold at every node that it reaches. -/
def Block.foldRefused (b : Block) (g : Nat) (d : GDef) : Option Nat :=
  if gdKind d.bytes != 4 then none
  else
    let i := gdFold d.bytes
    let ns := b.foldNodes d
    if !b.descValid i then some Cs.foldUndef
    else if (foldOpOf (b.foldDesc i)).destList != (gdNdest d.bytes != 0) then some Cs.paramRange
    else if ns.any fun n => (b.foldsBut n g).length + 1 > maxFolds then some Cs.foldLimit
    else if ns.any fun n => b.reserved n ((g, b.planAt n d) :: b.foldsBut n g) > foldBlocks then some Cs.foldSpace
    else none

/-- The lent blocks that a reservation needs back at this node. -/
def Block.blocksShort (b : Block) (g : Nat) (d : GDef) : Nat :=
  if gdKind d.bytes != 4 then 0
  else b.reserved b.dxs.nodeNo ((g, b.planAt b.dxs.nodeNo d) :: b.foldsBut b.dxs.nodeNo g) + b.blkLent - foldBlocks

/-- A definition that waited for blocks has them. -/
def Block.endRecall (b : Block) (mb : Nat) : Block :=
  if b.hub.fd.waiters.contains mb then b.updFd fun u => { u with recalled := 0, waiters := u.waiters.filter fun m => m != mb } else b

/-- Checks and stores a definition; one that needs lent blocks keeps its page until they have come back, and every page waits for
the writes at the other nodes. -/
def Block.define (b : Block) (mb : Nat) (d : List Byte) (l : Lists) : Block :=
  match b.gatherRefused d l with
  | some s => b.answer mb s
  | none =>
    let g := leAt d 0 2
    let x : GDef := ⟨d, sortNat (b.membersOf d l), sortNat l.dests, 0, [], []⟩
    match b.foldRefused g x with
    | some s => b.answer mb s
    | none =>
      let short := b.blocksShort g x
      if short > 0 then b.updFd fun u => { u with recalled := short, waiters := (mb :: u.waiters).eraseDups }
      else ((b.endRecall mb).storeDef (.copy mb) g x).answerCopied mb

def gatherDefine (mb : Nat) (b : Block) : Block :=
  b.control mb Cmd.gatherDefine fun b =>
    let d := b.page mb dataAt 32
    if gdCount d ≤ inlineMax then b.define mb d (listsOf d (b.page mb (dataAt + 32) 4000))
    else b.withBuf mb fun bs b => b.define mb d (listsOf d bs)

/-- Lent blocks come back from staging, and the definitions that wait for blocks proceed (R212). -/
def blockRecallDone (n : Nat) (b : Block) : Block :=
  let k := min n b.blkLent
  let b := (b.updNode .dxs fun x => { x with dma := { x.dma with lent := x.dma.lent - k } }).updFd fun u =>
    { u with recalled := u.recalled - k }
  b.each b.hub.fd.waiters fun b mb => gatherDefine mb b

/-! ### FOLD_DEFINE (R191, R192) -/

/-- The fields that R191 gives a range, its reserved bits, and its CRC. -/
def descFieldsOk (d : List Byte) : Bool :=
  let o := foldOpOf d
  o.op ≤ 9 && o.inF ≤ 6 && o.outF ≤ 6 && (if o.op == 8 then 1 ≤ o.k && o.k ≤ 64 else o.k == 0) &&
    (if o.op == 9 then 1 ≤ o.d && o.d ≤ 256 else o.d == 0) && 1 ≤ o.rows && o.rows ≤ 65536 &&
    (if o.op == 9 then o.cols == 0 else 1 ≤ o.cols && o.cols ≤ 262144) && leAt d 3 1 ≤ 3 && !(o.final && o.op != 9) &&
    leAt d 5 1 == 0 && leAt d 16 12 == 0 && crc32c (d.take 28) == leAt d 28 4

/-- The rows of R192. -/
def formatsOk (o : FoldOp) : Bool :=
  match o.op with
  | 0 => (o.inF ≤ 4 && o.outF ≤ 2) || (5 ≤ o.inF && 5 ≤ o.outF)
  | 5 => o.outF == 5
  | 6 => o.inF == 5 && o.outF == 5
  | 7 => o.inF == 5 && o.outF == 5
  | 9 => o.inF ≤ 2 && o.outF ≤ 2
  | _ => o.outF == o.inF

def leafMax : Nat := 262144
def resultMax : Nat := 1048576

/-- A gathering of a RUNNING or DECIDING job names the descriptor. -/
def Block.descBusy (b : Block) (i : Nat) : Bool :=
  (nlist b.hub.gdefs).any fun e => gdKind e.2.bytes == 4 && gdFold e.2.bytes == i &&
    (b.job (gdJob e.2.bytes)).active && !(b.job (gdJob e.2.bytes)).stopped

/-- The first status of R192 that applies. -/
def Block.descRefused (b : Block) (i : Nat) (d : List Byte) : Option Nat :=
  let o := foldOpOf d
  if b.descBusy i then some Cs.descBusy
  else if i > 4095 || !descFieldsOk d then some Cs.paramRange
  else if !formatsOk o then some Cs.fmtBad
  else if leafSize o > leafMax || resSize o > resultMax then some Cs.foldSize
  else none

/-- The gatherings that name a descriptor reserve what it needs now, and go with it to every node that they reach. -/
def Block.reserveAnew (b : Block) (use : RemUse) (i : Nat) : Block :=
  b.each ((nlist b.hub.gdefs).filter fun e => gdKind e.2.bytes == 4 && gdFold e.2.bytes == i) fun b e =>
    (b.updHub fun h =>
      { h with gdefs := nset gdefReset h.gdefs e.1 (some { e.2 with blocks := b.reserveOf e.2 (foldOpOf (b.foldDesc i)) }) }).shareDef
        use e.1 e.2

def foldDefine (mb : Nat) (b : Block) : Block :=
  b.control mb Cmd.foldDefine fun b =>
    let i := b.arg mb 0 2
    let d := b.page mb dataAt 32
    match b.descRefused i d with
    | some s => b.answer mb s
    | none => ((b.storeDesc i d).reserveAnew (.copy mb) i).answerCopied mb

/-! ### The rows -/

def execGatherDefine (dt mb : Nat) (s : State) : Host.Outcome State Fault Refusal :=
  s.act dt [.regs .dxs, .ports .dxs, .sheets .dxs, .dma .dxs, .instances, .defs, .folds, .binder, .mbox] (gatherDefine mb)

def execBlockRecallDone (dt n : Nat) (s : State) : Host.Outcome State Fault Refusal :=
  s.act dt [.regs .dxs, .ports .dxs, .sheets .dxs, .dma .dxs, .instances, .defs, .folds, .binder, .mbox] (blockRecallDone n)

def execFoldDefine (dt mb : Nat) (s : State) : Host.Outcome State Fault Refusal :=
  s.act dt [.regs .dxs, .ports .dxs, .sheets .dxs, .defs, .binder, .mbox] (foldDefine mb)

end Sys2Proof.Machine
end

