-- ==== Sys2Proof/Machine/Link.lean ====
section
/-! DEFINITION. The spine-link commands (R52 to R72). -/

namespace Sys2Proof.Machine

/-! ### Marks -/

/-- One pair leaves the port: marks in UP and TIME_ONLY, IDLE alone in the other enabled states, nothing in OFF. -/
def markPairSend (sd : Side) (p : Nat) (b : Block) : Block :=
  match (b.port sd p).st with
  | .up | .timeOnly => b.sendPair sd p
  | .train | .hunt | .down | .lost => b.sendIdle sd p
  | .off => b

/-- Whether the class queue of a mark has room. -/
def PortTx.hasRoom (t : PortTx) (q : QMark) : Bool := (t.queue q.mark.kind.cls).length < queueDepth

/-- The first waiting mark whose class queue has room enters it (R53). -/
def markEnqueue (sd : Side) (p : Nat) (b : Block) : Block :=
  let t := (b.port sd p).tx
  match takeFirst t.hasRoom t.waiting with
  | none => b
  | some (q, rest) =>
    let c := q.mark.kind.cls
    b.updPort sd p fun x =>
      { x with tx := { x.tx.setQueue c (x.tx.queue c ++ [q]) with waiting := rest } }.noteQueues

/-- The first outstanding RESYNC whose 32 pairs have passed is repeated, or ends the link (R59). -/
def resyncRepeat (sd : Side) (p : Nat) (b : Block) : Block :=
  let q := b.port sd p
  match q.rx.resync.find? fun r => q.tx.pair ≥ r.sentAt + 32 with
  | some r => b.repeatResync sd p r
  | none => b

/-- The pair index in a field of a RESYNC or RESYNC_ACK: its bits [9:0] (R51). -/
def pairIdx (f : BitVec 16) : Nat := bits f.toNat 9 0

def resyncReceive (sd : Side) (b : Block) : Block :=
  b.withMark sd .resync fun r b => b.answerResync sd r.port (pairIdx r.mark.obj) (pairIdx r.mark.tag)

/-- The RESYNC of the range that a RESYNC_ACK names is no longer outstanding. -/
def resyncAckReceive (sd : Side) (b : Block) : Block :=
  b.withMark sd .resyncAck fun r b => b.updRx sd r.port fun x =>
    { x with resync := x.resync.filter fun y => !(y.first == pairIdx r.mark.obj && y.last == pairIdx r.mark.tag) }

/-- A window of 65,536 pairs ends: UNCORR_FAULT clears if it ends below the limit (R61). A limit of 0 disables the fault. -/
def markUncorrWindow (sd : Side) (p : Nat) (b : Block) : Block :=
  let lim := b.rf sd Reg.SP_UNCORR_LIM 15 0 p
  b.updRx sd p fun r => { r with uncorr := 0, uncorrFault := decide (lim ≠ 0) && r.uncorr ≥ lim }

/-! ### Sheets -/

def sheetSlotSend (sd : Side) (p : Nat) (b : Block) : Block := b.sendSlot sd p

def retryRepeat (sd : Side) (p : Nat) (b : Block) : Block := b.repeatRetry sd p

/-- A RETRY for a number that the replay buffer holds starts the replay there (R68). -/
def retryReceive (sd : Side) (b : Block) : Block :=
  b.withMark sd .retry fun r b => b.updSh sd r.port fun s =>
    if s.replay.any fun x => x.1 == r.mark.arg.toNat then { s with resend := some r.mark.arg.toNat } else s

/-! ### Link states -/

/-- The latencies are measured before training starts, and a port whose measurement failed stays in TRAIN (R82). -/
def linkTrained (sd : Side) (p : Nat) (b : Block) : Block :=
  b.updPort sd p fun q => if q.st == .train && q.latDone && !q.latFail then { q with st := .hunt } else q

/-- The receiver takes the pair position and the fields of the two IDLEs that ended the hunt. -/
def Block.takeHunt (b : Block) (sd : Side) (p idx : Nat) (epoch : BitVec 16) (lock : Nat) (rxDown : Bool) : Block :=
  let was := b.epochMismatch sd p
  let b := b.updRx sd p fun r =>
    { r with epoch := epoch, lock := lock % 8, rxDown := rxDown, sinceIdle := 0, hbMiss := false, prev := none, missed := 0, told := 0,
             badRange := none, idx := idx % pairsPerFrame, lastIdx := (idx + pairsPerFrame - 1) % pairsPerFrame }
  if sd == .dxt && !was && b.epochMismatch sd p then b.bump .dxt Reg.DXT_FQ_FENCE_CNT else b

/-- The RESYNCs outstanding at a recovery are sent afresh. -/
def Block.resendResyncs (b : Block) (sd : Side) (p : Nat) : Block :=
  let q := b.port sd p
  (b.each q.rx.resync fun b r => b.offer sd p (resyncMark r.first r.last)).updRx sd p fun x =>
    { x with resync := x.resync.map fun y => { y with sends := 1, sentAt := q.tx.pair } }

/-- A port in DOWN recovers: the lost pairs are asked for again, and the replay resumes at its oldest sheet (R59, R68). -/
def Block.recoverLink (b : Block) (sd : Side) (p idx last : Nat) : Block :=
  let b := b.updPort sd p fun q =>
    { q with st := .up, echo := q.echo.restart b.now, rx := { q.rx with askAt := b.now },
             sh := { q.sh with resend := q.sh.replay.head?.map Prod.fst, retryAt := q.tx.pair } }.startMax
  let b := b.resendResyncs sd p
  if (last + 1) % pairsPerFrame == idx % pairsPerFrame then b
  else b.sendResync sd p ((last + 1) % pairsPerFrame) ((idx + pairsPerFrame - 1) % pairsPerFrame)

/-- The hunt has ended. A port in DOWN past its DWELL is lost instead (R71). -/
def linkUp (sd : Side) (p idx : Nat) (epoch : BitVec 16) (lock : Nat) (rxDown : Bool) (b : Block) : Block :=
  let q := b.port sd p
  match q.st with
  | .hunt => ((b.takeHunt sd p idx epoch lock rxDown).enterUpFresh sd p).reachedUp sd p
  | .down =>
    if b.now ≥ q.downAt + b.dwell sd p then b.enterLost sd p
    else ((b.takeHunt sd p idx epoch lock rxDown).recoverLink sd p idx q.rx.lastIdx).reachedUp sd p
  | .off | .train | .up | .lost | .timeOnly => b

/-- A column of the pair being received is missed: the first of the pair or its `second`. -/
def columnMissed (sd : Side) (p : Nat) (second los : Bool) (b : Block) : Block := b.missColumn sd p second los

/-- DOWN has lasted DWELL (R71). -/
def dwellExpire (sd : Side) (p : Nat) (b : Block) : Block :=
  let q := b.port sd p
  if q.st == .down && b.now ≥ q.downAt + b.dwell sd p then b.enterLost sd p else b

/-- A port in LOST regains lock (R72). -/
def lockRegained (sd : Side) (p : Nat) (b : Block) : Block :=
  if (b.port sd p).st == .lost then
    (b.updPort sd p fun q =>
      { q with st := .timeOnly, echo := q.echo.restart b.now, rx := { q.rx with prev := none, missed := 0, told := 0 } }).tryRejoin sd p
  else b

/-! ### The commands -/

def execMarkPairSend (dt : Nat) (sd : Side) (p : Nat) (s : State) : Host.Outcome State Fault Refusal :=
  s.act dt [.regs sd, .ports sd] (markPairSend sd p)

def execMarkEnqueue (dt : Nat) (sd : Side) (p : Nat) (s : State) : Host.Outcome State Fault Refusal :=
  s.act dt [.ports sd] (markEnqueue sd p)

def execResyncRepeat (dt : Nat) (sd : Side) (p : Nat) (s : State) : Host.Outcome State Fault Refusal :=
  s.act dt [.regs sd, .ports sd] (resyncRepeat sd p)

def execResyncReceive (dt : Nat) (sd : Side) (s : State) : Host.Outcome State Fault Refusal :=
  s.act dt [.regs sd, .ports sd, .inbox sd] (resyncReceive sd)

def execResyncAckReceive (dt : Nat) (sd : Side) (s : State) : Host.Outcome State Fault Refusal :=
  s.act dt [.ports sd, .inbox sd] (resyncAckReceive sd)

def execMarkUncorrWindow (dt : Nat) (sd : Side) (p : Nat) (s : State) : Host.Outcome State Fault Refusal :=
  s.act dt [.ports sd] (markUncorrWindow sd p)

def execSheetSlotSend (dt : Nat) (sd : Side) (p : Nat) (s : State) : Host.Outcome State Fault Refusal :=
  s.act dt [.regs sd, .ports sd] (sheetSlotSend sd p)

def execRetryRepeat (dt : Nat) (sd : Side) (p : Nat) (s : State) : Host.Outcome State Fault Refusal :=
  s.act dt [.regs sd, .ports sd] (retryRepeat sd p)

def execRetryReceive (dt : Nat) (sd : Side) (s : State) : Host.Outcome State Fault Refusal :=
  s.act dt [.ports sd, .inbox sd] (retryReceive sd)

def execLinkTrained (dt : Nat) (sd : Side) (p : Nat) (s : State) : Host.Outcome State Fault Refusal :=
  s.act dt [.ports sd] (linkTrained sd p)

def execColumnMissed (dt : Nat) (sd : Side) (p : Nat) (los : Missed) (s : State) : Host.Outcome State Fault Refusal :=
  s.act dt [.clk sd, .regs sd, .ports sd, .sheets sd] (columnMissed sd p los.second los.los)

def execLockRegained (dt : Nat) (sd : Side) (p : Nat) (s : State) : Host.Outcome State Fault Refusal :=
  s.act dt (Foot.sided sd [.regs .dxt, .ports .dxt, .sheets .dxt, .raised .dxt, .die, .lastCause] [.regs .dxs, .ports .dxs,
    .inbox .dxs, .sheets .dxs, .raised .dxs]) (lockRegained sd p)

end Sys2Proof.Machine
end

