-- ==== Sys2Proof/Machine/Routing.lean ====
section
/-! DEFINITION. What a DX-S48 passes on as it arrives (R38, R206, R225, R316, R319), and the loss of a CROSS port (R233). -/

namespace Sys2Proof.Machine

/-! ### Sheets -/

/-- Takes the newest received sheet away again, freeing its buffer: its content has left for the queues of its ports (log entry
154, DESIGN CHOICE). -/
def Block.takeNewest (b : Block) (r : RxSheet) : Block :=
  (b.updNode .dxs fun n => { n with rxSheets := n.rxSheets.dropLast }).freeCredits .dxs r.port r.sheet.chan 1

/-- Passes a sheet on by ports. -/
def Block.passSheet (b : Block) (r : RxSheet) (ps : List Nat) : Block :=
  (b.takeNewest r).each ps fun b p => b.queueSheets .dxs p [r.sheet]

/-- The ports a sheet leaves by; none where this node is its end. -/
def Block.sheetRoute (b : Block) (r : RxSheet) : Option (List Nat) :=
  let s := r.sheet
  let up := b.portRole r.port == roleUp
  if s.typ == tFoldOut && up then some (b.destPorts s.obj)
  else if s.typ == tCommit && up then some (b.jobPorts (s.obj % 256))
  else if s.typ == tRemoteReq then
    let kind := leAt s.body 1 1
    let target := leAt s.body 4 4 % (if kind == 1 then 2 ^ 32 else 2 ^ 16)
    if kind == 2 && target == b.dxs.nodeNo then none else some (b.routeRemote kind target).toList
  else if s.typ == tRemoteRsp then
    if s.tag == b.dxs.nodeNo then none else some (b.routeRemote 2 s.tag).toList
  else if s.typ == tLog then
    if isRoot b.dxs.role then (if b.actingRoot then none else some b.crossPort.toList) else some b.upPortOf.toList
  else none

/-- A DX-S48 routes a sheet it has just accepted. The way back of a REMOTE request is kept for its REMOTE mark. -/
def Block.routeSheet (b : Block) (r : RxSheet) : Block :=
  let b := if r.sheet.typ == tSessionList && !isRoot b.dxs.role then
      b.updJob (r.sheet.obj % 256) fun x => { x with sess := true }
    else if r.sheet.typ == tLog && r.sheet.first then b.hearLog r.port r.sheet.body
    else b
  match b.sheetRoute r with
  | none => b
  | some ps =>
    let b := b.passSheet r ps
    if r.sheet.typ == tRemoteReq then b.updBn fun n => { n with remGot := (r.sheet.obj, r.port) :: n.remGot } else b

def sheetReceive (sd : Side) (p : Nat) (bs : List Byte) (fecBad : Bool) (b : Block) : Block :=
  let n := (b.node sd).rxSheets.length
  let b := b.receiveSheet sd p bs fecBad
  let l := (b.node sd).rxSheets
  if sd == .dxs && n < l.length then
    match l.getLast? with
    | some r => b.routeSheet r
    | none => b
  else b

/-! ### Marks -/

def Block.dropNewest (b : Block) : Block := b.updNode .dxs fun n => { n with inbox := n.inbox.dropLast }

/-- OPPOINT goes to the ports of its job; a REMOTE mark goes back the way its request came. -/
def Block.routeMark (b : Block) (r : RxMark) : Block :=
  if r.mark.kind == .oppoint then b.dropNewest.offerAll .dxs (b.jobPorts (bits r.mark.obj.toNat 7 0)) r.mark
  else if r.mark.kind == .remote then
    let tag := r.mark.obj.toNat
    if b.hub.bn.rem.any fun t => t.tag == tag && t.sentAt.isSome then b
    else match takeFirst (fun (g : Nat × Nat) => g.1 == tag) b.hub.bn.remGot with
      | some (g, rest) => (b.dropNewest.updBn fun n => { n with remGot := rest }).offer .dxs g.2 r.mark
      | none => b
  else b

def markPairReceive (sd : Side) (p : Nat) (w : BitVec 112) (code : Nat) (b : Block) : Block :=
  let n := (b.node sd).inbox.length
  let b := b.receivePair sd p w code
  let l := (b.node sd).inbox
  if sd == .dxs && n < l.length then
    match l.getLast? with
    | some r => b.routeMark r
    | none => b
  else b

/-! ### The CROSS port (R233) -/

def Block.crossDown (b : Block) : Bool := (b.portsOf roleCross).all fun p => (b.port .dxs p).st == .lost

/-- Where a step loses the last CROSS port, the decisions that wait for an acknowledgement go. -/
def noteCross (f : Block → Block) (b : Block) : Block :=
  let was := b.crossDown
  let b := f b
  if !was && b.crossDown then b.goSolo else b

/-- Where a step takes a port of the DX-S48 to UP, its binder attends to the child there. -/
def noteUp (sd : Side) (p : Nat) (f : Block → Block) (b : Block) : Block :=
  let was := b.upPort sd p
  let b := f b
  if sd == .dxs && !was && b.upPort .dxs p then b.childUp p else b

/-! ### The rows -/

def execMarkPairReceive (dt : Nat) (sd : Side) (p : Nat) (bits : BitVec 112) (code : Nat) (s : State) :
    Host.Outcome State Fault Refusal :=
  s.act dt (Foot.sided sd [.clk .dxt, .regs .dxt, .ports .dxt, .inbox .dxt, .sheets .dxt, .convs .dxt, .raised .dxt,
    .lastCause, .free] [.clk .dxs, .regs .dxs, .ports .dxs, .inbox .dxs, .sheets .dxs, .convs .dxs,
    .raised .dxs, .binder, .free]) (markPairReceive sd p bits code)

def execSheetReceive (dt : Nat) (sd : Side) (p : Nat) (bytes : List Byte) (fecBad : Bool) (s : State) :
    Host.Outcome State Fault Refusal :=
  s.act dt (Foot.sided sd [.regs .dxt, .ports .dxt, .sheets .dxt] [.regs .dxs, .ports .dxs, .sheets .dxs, .jobs,
    .binder]) (sheetReceive sd p bytes fecBad)

def execLinkUp (dt : Nat) (sd : Side) (p idx : Nat) (epoch : BitVec 16) (lock : Nat) (rxDown : Bool) (s : State) :
    Host.Outcome State Fault Refusal :=
  s.act dt (Foot.sided sd [.regs .dxt, .ports .dxt, .sheets .dxt, .raised .dxt, .die, .lastCause] [.regs .dxs, .ports .dxs,
    .inbox .dxs, .sheets .dxs, .dma .dxs, .eyes .dxs, .raised .dxs, .instances, .dones, .folds, .jobs, .path, .sess,
    .binder, .gaAudit, .gaOver, .host]) (noteUp sd p (noteCross (linkUp sd p idx epoch lock rxDown)))

def execDwellExpire (dt : Nat) (sd : Side) (p : Nat) (s : State) : Host.Outcome State Fault Refusal :=
  s.act dt (Foot.sided sd [.regs .dxt, .ports .dxt, .sheets .dxt, .raised .dxt, .lastCause] [.regs .dxs, .ports .dxs, .inbox .dxs,
    .sheets .dxs, .dma .dxs, .raised .dxs, .instances, .dones, .folds, .jobs, .path, .sess, .gaAudit, .gaOver,
    .host]) (noteCross (dwellExpire sd p))

end Sys2Proof.Machine
end

