-- ==== Sys2Proof/Machine/Upkeep.lean ====
section
/-! DEFINITION. In-service tests of lanes and replica monitors, and the trend records (R326 to R328, R333). -/

namespace Sys2Proof.Machine

/-! ### In-service tests (R326, R327, R333) -/

def nLanes : Side → Nat
  | .dxt => 4
  | .dxs => 96

def Block.isReg (b : Block) (sd : Side) (hi lo rel : Nat) : Nat := b.rf sd (isBase sd + rel) hi lo

/-- A test step that would have delayed something: counted, and stale once ten intervals have passed without a result. -/
def Block.abandon (b : Block) (sd : Side) : Block := b.bump sd (isBase sd + Reg.IS_ABANDON_CNT)

/-- Ten intervals have passed since a test last completed. -/
def Block.overdue (b : Block) (last interval : Nat) : Bool := decide (b.now ≥ last + 10 * interval)

def Block.updEye (b : Block) (sd : Side) (l : Nat) (f : Eye → Eye) : Block :=
  b.updNode sd fun n => { n with eyes := nupd eyeReset n.eyes l f }

/-- EYE_INT in cycles. -/
def Block.eyeInt (b : Block) (sd : Side) : Nat := b.isReg sd 31 24 Reg.IS_INT * 1000000000

/-- The record of an in-service warning: code 1 eye, 2 replica of a die, 3 eye of a die; the lane or region, the node or die
record, the time (log entry 25, DESIGN CHOICE). -/
def istRec (code at_ node t : Nat) : List Byte := leBytes 1 code ++ leBytes 1 at_ ++ leBytes 2 node ++ htBytes t

/-- Whether the table names the block's own die beneath its DX-S48, whose binder runs. -/
def Block.overOwn (b : Block) : Bool :=
  b.hub.bn.boot == 1 && !b.topo.dies.isEmpty && (List.range 48).any fun p => (b.entryOf p).kind == 2 && (b.entryOf p).nbr == ownRec

/-- The binder above the die reports a warning of it. -/
def Block.reportDie (b : Block) (code at_ : Nat) : Block :=
  if b.overOwn then b.sendLog lkIst (istRec code at_ ownRec (b.ht .dxs)) else b

/-- A sweep of a lane is complete; a margin below its threshold is reported by the node's binder, or the one above the die. -/
def Block.sweepDone (b : Block) (sd : Side) (l v h : Nat) : Block :=
  let b := (b.updEye sd l fun _ => ⟨v % 4096, h % 64, true, b.now, false⟩).bump sd (isBase sd + Reg.IS_EYE_CNT)
  if (b.eye sd l).warn (b.isReg sd 15 8 Reg.IS_EYE_CFG) (b.isReg sd 7 0 Reg.IS_EYE_CFG) then
    match sd with
    | .dxs => b.sendLog lkIst (istRec 1 l b.dxs.nodeNo (b.ht .dxs))
    | .dxt => b.reportDie 3 l
  else b

/-- A step of the sweep of a receiving lane. -/
def eyeSweep (sd : Side) (lane v h : Nat) (delayed done : Bool) (b : Block) : Block :=
  if lane ≥ nLanes sd || b.isReg sd 1 1 Reg.IS_CTRL == 0 || !b.upPort sd (lane / 2) then b
  else if delayed then
    (b.updEye sd lane fun e => { e with stale := e.stale || b.overdue e.at_ (b.eyeInt sd) }).abandon sd
  else if done then b.sweepDone sd lane v h
  else b

/-- REP_INT in cycles. -/
def Block.repInt (b : Block) : Nat := b.isReg .dxt 15 0 Reg.IS_INT * 1000000

def repReset (_ : Nat) : Nat × Bool × Bool := (0, false, false)

def Block.updRep (b : Block) (k : Nat) (f : Nat × Bool × Bool → Nat × Bool × Bool) : Block :=
  { b with dxt := { b.dxt with reps := nupd repReset b.dxt.reps k f } }

/-- A region that a check may use: it holds after its end cycle, or its half is parked. -/
def Block.repIdle (b : Block) (r : Nat) : Bool := (b.region r).ended || parks b.dxt.die.targetSeam (halfOf r)

/-- The known added delay lowered the code by 8, give or take 2. -/
def dropOk (drop : Nat) : Bool := 6 ≤ drop && drop ≤ 10

/-- A replica monitor's check. -/
def replicaCheck (r m drop : Nat) (delayed : Bool) (b : Block) : Block :=
  let k := 4 * r + m
  if r ≥ 64 || m ≥ 4 || b.dxt.die.isDisabled r || b.isReg .dxt 2 2 Reg.IS_CTRL == 0 || !b.repIdle r then b
  else if delayed then (b.updRep k fun x => (x.1, x.2.1 || b.overdue x.1 b.repInt, x.2.2)).abandon .dxt
  else
    let b := (b.updRep k fun _ => (b.now, false, !dropOk drop)).bump .dxt (isBase .dxt + Reg.IS_REP_CNT)
    if dropOk drop then b else (b.bump .dxt (isBase .dxt + Reg.IS_REP_FAIL_CNT)).reportDie 2 r

/-! ### Trend records (R328) -/

/-- The sums of the squall and stretch counters of a die's regions, and the deepest stretch. -/
def Block.squalls (b : Block) : Nat := sumN ((List.range 64).map fun r => (b.reg .dxt Reg.DC_R_SQUALL_CNT r).toNat)
def Block.stretches (b : Block) : Nat := sumN ((List.range 64).map fun r => (b.reg .dxt Reg.DC_R_STRETCH_CNT r).toNat)
def Block.deepest (b : Block) : Nat := (List.range 64).foldl (fun a r => max a (b.reg .dxt Reg.DC_R_DEPTH_MAX r).toNat) 0

def trendReset (_ : Nat) : Nat × Nat := (0, 0)

/-- How far a sum of 64 wrapping counters has risen, modulo 2^32. -/
def risen (now old : Nat) : Nat := (now + 2 ^ 40 - old) % 2 ^ 32

/-- The DIE_TREND record of the block's DX-T; R328 names its fields, the places are the model's (log entry 30, DESIGN CHOICE). -/
def Block.trendBytes (b : Block) : List Byte :=
  let d := b.ownDie
  let old := nget trendReset b.hub.bn.trend ownRec
  leBytes 2 d.idx ++ leBytes 1 b.dxt.die.opp ++ leBytes 1 b.deepest ++ leBytes 4 d.pos ++ htBytes (b.ht .dxs) ++
    ((List.range 64).flatMap fun r => leBytes 1 (b.region r).low) ++ leBytes 4 (risen b.squalls old.1) ++ leBytes 4 (risen b.stretches old.2) ++
    leBytes 4 (b.reg .dxt Reg.DC_RELOCK_MAX).toNat

/-- The binder samples a READY die beneath it. Of the hall's dies only the block's own has its registers in the model. -/
def trendSample (die : Nat) (b : Block) : Block :=
  if die != ownRec || !b.overOwn || b.dxt.die.bring != .ready then b
  else
    let rec_ := b.trendBytes
    (b.updBn fun n => { n with trend := nset trendReset n.trend die (b.squalls, b.stretches) }).sendLog lkTrend rec_

/-! ### The rows -/

def execEyeSweep (dt : Nat) (sd : Side) (lane v h : Nat) (delayed done : Bool) (s : State) : Host.Outcome State Fault Refusal :=
  s.act dt (Foot.sided sd [.regs .dxt, .eyes .dxt, .regs .dxs, .ports .dxs, .dma .dxs, .binder, .host] [.regs .dxs, .ports .dxs, .dma .dxs, .eyes .dxs, .binder,
    .host]) (eyeSweep sd lane v h delayed done)

def execReplicaCheck (dt r m drop : Nat) (delayed : Bool) (s : State) : Host.Outcome State Fault Refusal :=
  s.act dt [.regs .dxt, .reps, .regs .dxs, .ports .dxs, .dma .dxs, .binder, .host] (replicaCheck r m drop delayed)

def execTrendSample (dt die : Nat) (s : State) : Host.Outcome State Fault Refusal :=
  s.act dt [.regs .dxs, .ports .dxs, .dma .dxs, .binder, .host] (trendSample die)

end Sys2Proof.Machine
end

