-- ==== Sys2Proof/Machine/Dispatch.lean ====
section
/-! DEFINITION. The meaning of every command, one arm each. -/

namespace Sys2Proof.Machine

/-- The effect of a command on everything but the queue. -/
def exec (i : Instr) (s : State) : Host.Outcome State Fault Refusal :=
  match i with
  | .goReceive dt => Sys2Proof.Machine.execGoReceive dt s
  | .launch dt => Sys2Proof.Machine.execLaunch dt s
  | .doneSend dt => Sys2Proof.Machine.execDoneSend dt s
  | .doneAggregate dt => Sys2Proof.Machine.execDoneAggregate dt s
  | .commitListReceive dt => Sys2Proof.Machine.execCommitListReceive dt s
  | .oppointReceive dt => Sys2Proof.Machine.execOppointReceive dt s
  | .voltageAck dt => Sys2Proof.Machine.execVoltageAck dt s
  | .relockComplete dt => Sys2Proof.Machine.execRelockComplete dt s
  | .vreqTimeout dt => Sys2Proof.Machine.execVreqTimeout dt s
  | .decisionHoldExpire dt job => Sys2Proof.Machine.execDecisionHoldExpire dt job s
  | .markPairSend dt sd p => Sys2Proof.Machine.execMarkPairSend dt sd p s
  | .markEnqueue dt sd p => Sys2Proof.Machine.execMarkEnqueue dt sd p s
  | .markPairReceive dt sd p bits code => Sys2Proof.Machine.execMarkPairReceive dt sd p bits code s
  | .resyncRepeat dt sd p => Sys2Proof.Machine.execResyncRepeat dt sd p s
  | .resyncReceive dt sd => Sys2Proof.Machine.execResyncReceive dt sd s
  | .resyncAckReceive dt sd => Sys2Proof.Machine.execResyncAckReceive dt sd s
  | .markUncorrWindow dt sd p => Sys2Proof.Machine.execMarkUncorrWindow dt sd p s
  | .sheetSlotSend dt sd p => Sys2Proof.Machine.execSheetSlotSend dt sd p s
  | .sheetReceive dt sd p bytes fecBad => Sys2Proof.Machine.execSheetReceive dt sd p bytes fecBad s
  | .retryRepeat dt sd p => Sys2Proof.Machine.execRetryRepeat dt sd p s
  | .retryReceive dt sd => Sys2Proof.Machine.execRetryReceive dt sd s
  | .goPass dt => Sys2Proof.Machine.execGoPass dt s
  | .linkTrained dt sd p => Sys2Proof.Machine.execLinkTrained dt sd p s
  | .linkUp dt sd p idx epoch lock rxDown => Sys2Proof.Machine.execLinkUp dt sd p idx epoch lock rxDown s
  | .columnMissed dt sd p los => Sys2Proof.Machine.execColumnMissed dt sd p los s
  | .dwellExpire dt sd p => Sys2Proof.Machine.execDwellExpire dt sd p s
  | .lockRegained dt sd p => Sys2Proof.Machine.execLockRegained dt sd p s
  | .echoReqSend dt sd p => Sys2Proof.Machine.execEchoReqSend dt sd p s
  | .echoReqReceive dt sd => Sys2Proof.Machine.execEchoReqReceive dt sd s
  | .echoRspReceive dt sd => Sys2Proof.Machine.execEchoRspReceive dt sd s
  | .echoLost dt sd p => Sys2Proof.Machine.execEchoLost dt sd p s
  | .intervalClose dt sd p => Sys2Proof.Machine.execIntervalClose dt sd p s
  | .domainSelect dt sd phaseOk => Sys2Proof.Machine.execDomainSelect dt sd phaseOk s
  | .seedWrite dt sd w => Sys2Proof.Machine.execSeedWrite dt sd w s
  | .seedRepeat dt => Sys2Proof.Machine.execSeedRepeat dt s
  | .seedExpire dt sd => Sys2Proof.Machine.execSeedExpire dt sd s
  | .htSnapshot dt sd w => Sys2Proof.Machine.execHtSnapshot dt sd w s
  | .htLoad dt off w => Sys2Proof.Machine.execHtLoad dt off w s
  | .latencyMeasure dt sd p pad code loop path => Sys2Proof.Machine.execLatencyMeasure dt sd p pad code loop path s
  | .qlSend dt => Sys2Proof.Machine.execQlSend dt s
  | .qlReceive dt sd => Sys2Proof.Machine.execQlReceive dt sd s
  | .qlHoldoverSend dt => Sys2Proof.Machine.execQlHoldoverSend dt s
  | .qlStale dt sd p => Sys2Proof.Machine.execQlStale dt sd p s
  | .refSelect dt => Sys2Proof.Machine.execRefSelect dt s
  | .ppsEdge dt n code => Sys2Proof.Machine.execPpsEdge dt n code s
  | .refinEdgeMissing dt n tenMhz => Sys2Proof.Machine.execRefinEdgeMissing dt n tenMhz s
  | .ptpMessageReceive dt slot msg code pos => Sys2Proof.Machine.execPtpMessageReceive dt slot msg code pos s
  | .ptpTimeout dt slot sync => Sys2Proof.Machine.execPtpTimeout dt slot sync s
  | .ptpSend dt slot out => Sys2Proof.Machine.execPtpSend dt slot out s
  | .esmcReceive dt eth ssm ext => Sys2Proof.Machine.execEsmcReceive dt eth ssm ext s
  | .esmcTimeout dt eth => Sys2Proof.Machine.execEsmcTimeout dt eth s
  | .esmcSend dt => Sys2Proof.Machine.execEsmcSend dt s
  | .rootSecondClose dt => Sys2Proof.Machine.execRootSecondClose dt s
  | .rootServoUpdate dt => Sys2Proof.Machine.execRootServoUpdate dt s
  | .rootAcquireEnd dt => Sys2Proof.Machine.execRootAcquireEnd dt s
  | .htSet dt off w => Sys2Proof.Machine.execHtSet dt off w s
  | .htStep dt off w => Sys2Proof.Machine.execHtStep dt off w s
  | .fwSwWrite dt w => Sys2Proof.Machine.execFwSwWrite dt w s
  | .swWatchdogExpire dt => Sys2Proof.Machine.execSwWatchdogExpire dt s
  | .forceSet dt off w => Sys2Proof.Machine.execForceSet dt off w s
  | .ocxoOfsGate dt freq valid => Sys2Proof.Machine.execOcxoOfsGate dt freq valid s
  | .ageFit dt c1 tau t0 hours rms => Sys2Proof.Machine.execAgeFit dt c1 tau t0 hours rms s
  | .ageExpire dt => Sys2Proof.Machine.execAgeExpire dt s
  | .outputEdge dt sd out => Sys2Proof.Machine.execOutputEdge dt sd out s
  | .tdcCalibrate dt sd cv d1 d2 => Sys2Proof.Machine.execTdcCalibrate dt sd cv d1 d2 s
  | .tdcEdge dt sd cv code src => Sys2Proof.Machine.execTdcEdge dt sd cv code src s
  | .tdcWindowExpire dt sd cv => Sys2Proof.Machine.execTdcWindowExpire dt sd cv s
  | .linearityBurst dt sd cv delayed taps residual => Sys2Proof.Machine.execLinearityBurst dt sd cv delayed taps residual s
  | .freqGateEnd dt cv => Sys2Proof.Machine.execFreqGateEnd dt cv s
  | .swGo dt w => Sys2Proof.Machine.execSwGo dt w s
  | .fqGo dt w => Sys2Proof.Machine.execFqGo dt w s
  | .launchTreeCal dt ref tries => Sys2Proof.Machine.execLaunchTreeCal dt ref tries s
  | .regionCycle dt r stretch drop sends => Sys2Proof.Machine.execRegionCycle dt r stretch drop sends s
  | .regionEnd dt r => Sys2Proof.Machine.execRegionEnd dt r s
  | .colophonSample dt bytes => Sys2Proof.Machine.execColophonSample dt bytes s
  | .crossingCal dt lams => Sys2Proof.Machine.execCrossingCal dt lams s
  | .lOverride dt off w => Sys2Proof.Machine.execLOverride dt off w s
  | .seamOverride dt off w => Sys2Proof.Machine.execSeamOverride dt off w s
  | .marginMeasure dt r c0 c1 c2 c3 => Sys2Proof.Machine.execMarginMeasure dt r c0 c1 c2 c3 s
  | .syncArrive dt obj inc => Sys2Proof.Machine.execSyncArrive dt obj inc s
  | .syncWait dt w => Sys2Proof.Machine.execSyncWait dt w s
  | .waitRelease dt lr => Sys2Proof.Machine.execWaitRelease dt lr s
  | .completeReceive dt => Sys2Proof.Machine.execCompleteReceive dt s
  | .arriveReceive dt => Sys2Proof.Machine.execArriveReceive dt s
  | .countReceive dt => Sys2Proof.Machine.execCountReceive dt s
  | .completeForward dt => Sys2Proof.Machine.execCompleteForward dt s
  | .gatherDecide dt gid slot => Sys2Proof.Machine.execGatherDecide dt gid slot s
  | .settleExpire dt gid slot => Sys2Proof.Machine.execSettleExpire dt gid slot s
  | .foldLeafReadDone dt b => Sys2Proof.Machine.execFoldLeafReadDone dt b s
  | .foldMessageReceive dt => Sys2Proof.Machine.execFoldMessageReceive dt s
  | .foldWaitExpire dt gid slot p => Sys2Proof.Machine.execFoldWaitExpire dt gid slot p s
  | .foldTaskComplete dt e => Sys2Proof.Machine.execFoldTaskComplete dt e s
  | .foldTaskSteal dt e => Sys2Proof.Machine.execFoldTaskSteal dt e s
  | .foldKat dt e pass => Sys2Proof.Machine.execFoldKat dt e pass s
  | .foldResultReady dt gid slot => Sys2Proof.Machine.execFoldResultReady dt gid slot s
  | .foldOutReceive dt => Sys2Proof.Machine.execFoldOutReceive dt s
  | .foldResultAck dt b slot => Sys2Proof.Machine.execFoldResultAck dt b slot s
  | .blockRecallDone dt n => Sys2Proof.Machine.execBlockRecallDone dt n s
  | .nop dt job => Sys2Proof.Machine.execNop dt job s
  | .halt dt job => Sys2Proof.Machine.execHalt dt job s
  | .branch dt job => Sys2Proof.Machine.execBranch dt job s
  | .movi dt job => Sys2Proof.Machine.execMovi dt job s
  | .calc dt job => Sys2Proof.Machine.execCalc dt job s
  | .get dt job => Sys2Proof.Machine.execGet dt job s
  | .stamp dt job => Sys2Proof.Machine.execStamp dt job s
  | .live dt job => Sys2Proof.Machine.execLive dt job s
  | .note dt job => Sys2Proof.Machine.execNote dt job s
  | .assert dt job => Sys2Proof.Machine.execAssert dt job s
  | .waitt dt job => Sys2Proof.Machine.execWaitt dt job s
  | .waittRelease dt job => Sys2Proof.Machine.execWaittRelease dt job s
  | .waitg dt job => Sys2Proof.Machine.execWaitg dt job s
  | .waitgRelease dt job => Sys2Proof.Machine.execWaitgRelease dt job s
  | .testg dt job => Sys2Proof.Machine.execTestg dt job s
  | .cutoff dt job => Sys2Proof.Machine.execCutoff dt job s
  | .cutoffComplete dt job => Sys2Proof.Machine.execCutoffComplete dt job s
  | .retire dt job => Sys2Proof.Machine.execRetire dt job s
  | .charge dt job => Sys2Proof.Machine.execCharge dt job s
  | .admitSeq dt job => Sys2Proof.Machine.execAdmitSeq dt job s
  | .form dt job => Sys2Proof.Machine.execForm dt job s
  | .commit dt job => Sys2Proof.Machine.execCommit dt job s
  | .pause dt job => Sys2Proof.Machine.execPause dt job s
  | .oppoint dt job => Sys2Proof.Machine.execOppoint dt job s
  | .applyat dt job => Sys2Proof.Machine.execApplyat dt job s
  | .seed dt job => Sys2Proof.Machine.execSeed dt job s
  | .ckpt dt job => Sys2Proof.Machine.execCkpt dt job s
  | .decisionReceive dt => Sys2Proof.Machine.execDecisionReceive dt s
  | .decisionAckReceive dt => Sys2Proof.Machine.execDecisionAckReceive dt s
  | .logSpaceAvailable dt job => Sys2Proof.Machine.execLogSpaceAvailable dt job s
  | .eventSpaceAvailable dt job => Sys2Proof.Machine.execEventSpaceAvailable dt job s
  | .applyRecordStep dt => Sys2Proof.Machine.execApplyRecordStep dt s
  | .rootApplyatCommit dt job => Sys2Proof.Machine.execRootApplyatCommit dt job s
  | .openSess dt mb => Sys2Proof.Machine.execOpen dt mb s
  | .admitCmd dt mb => Sys2Proof.Machine.execAdmitCmd dt mb s
  | .cancel dt mb => Sys2Proof.Machine.execCancel dt mb s
  | .park dt mb => Sys2Proof.Machine.execPark dt mb s
  | .resume dt mb => Sys2Proof.Machine.execResume dt mb s
  | .close dt mb => Sys2Proof.Machine.execClose dt mb s
  | .closeTicket dt mb => Sys2Proof.Machine.execCloseTicket dt mb s
  | .query dt mb => Sys2Proof.Machine.execQuery dt mb s
  | .queryTenant dt mb => Sys2Proof.Machine.execQueryTenant dt mb s
  | .tenantSet dt mb => Sys2Proof.Machine.execTenantSet dt mb s
  | .tenantRemove dt mb => Sys2Proof.Machine.execTenantRemove dt mb s
  | .killSend dt => Sys2Proof.Machine.execKillSend dt s
  | .killRelay dt => Sys2Proof.Machine.execKillRelay dt s
  | .killReceive dt => Sys2Proof.Machine.execKillReceive dt s
  | .reportSend dt => Sys2Proof.Machine.execReportSend dt s
  | .reportMerge dt job tag => Sys2Proof.Machine.execReportMerge dt job tag s
  | .evictTick dt => Sys2Proof.Machine.execEvictTick dt s
  | .faultReceive dt sd => Sys2Proof.Machine.execFaultReceive dt sd s
  | .selfReport dt sd w => Sys2Proof.Machine.execSelfReport dt sd w s
  | .hbMiss dt sd p => Sys2Proof.Machine.execHbMiss dt sd p s
  | .voteReceive dt => Sys2Proof.Machine.execVoteReceive dt s
  | .nvoteWrite dt w => Sys2Proof.Machine.execNvoteWrite dt w s
  | .loneVoteExpire dt isNode subj => Sys2Proof.Machine.execLoneVoteExpire dt isNode subj s
  | .verdictRecord dt isNode subj => Sys2Proof.Machine.execVerdictRecord dt isNode subj s
  | .fenceReceive dt => Sys2Proof.Machine.execFenceReceive dt s
  | .jStoredWrite dt w => Sys2Proof.Machine.execJStoredWrite dt w s
  | .mailboxPoll dt => Sys2Proof.Machine.execMailboxPoll dt s
  | .topoLoad dt mb => Sys2Proof.Machine.execTopoLoad dt mb s
  | .jobLoad dt pg => Sys2Proof.Machine.execJobLoad dt pg s
  | .jobStart dt mb => Sys2Proof.Machine.execJobStart dt mb s
  | .jobPause dt mb => Sys2Proof.Machine.execJobPause dt mb s
  | .jobResume dt mb => Sys2Proof.Machine.execJobResume dt mb s
  | .jobUnload dt mb => Sys2Proof.Machine.execJobUnload dt mb s
  | .jobSave dt pg => Sys2Proof.Machine.execJobSave dt pg s
  | .jobRestore dt pg => Sys2Proof.Machine.execJobRestore dt pg s
  | .jobRestart dt pg => Sys2Proof.Machine.execJobRestart dt pg s
  | .restoreDone dt mb => Sys2Proof.Machine.execRestoreDone dt mb s
  | .gatherDefine dt mb => Sys2Proof.Machine.execGatherDefine dt mb s
  | .foldDefine dt mb => Sys2Proof.Machine.execFoldDefine dt mb s
  | .reinstate dt mb => Sys2Proof.Machine.execReinstate dt mb s
  | .handback dt pg => Sys2Proof.Machine.execHandback dt pg s
  | .funcReinitPort dt mb => Sys2Proof.Machine.execFuncReinitPort dt mb s
  | .funcReinitSession dt mb => Sys2Proof.Machine.execFuncReinitSession dt mb s
  | .funcReinitFold dt mb => Sys2Proof.Machine.execFuncReinitFold dt mb s
  | .funcReinitDma dt mb => Sys2Proof.Machine.execFuncReinitDma dt mb s
  | .remote dt mb => Sys2Proof.Machine.execRemote dt mb s
  | .ptpConfig dt mb => Sys2Proof.Machine.execPtpConfig dt mb s
  | .status dt mb => Sys2Proof.Machine.execStatus dt mb s
  | .remoteRead dt sd => Sys2Proof.Machine.execRemoteRead dt sd s
  | .remoteWrite dt sd => Sys2Proof.Machine.execRemoteWrite dt sd s
  | .remoteGuarded dt sd => Sys2Proof.Machine.execRemoteGuarded dt sd s
  | .remoteResponse dt => Sys2Proof.Machine.execRemoteResponse dt s
  | .remoteTimeout dt tag => Sys2Proof.Machine.execRemoteTimeout dt tag s
  | .logReceive dt => Sys2Proof.Machine.execLogReceive dt s
  | .binderBoot dt => Sys2Proof.Machine.execBinderBoot dt s
  | .nodeSliceReceive dt slice => Sys2Proof.Machine.execNodeSliceReceive dt slice s
  | .bringTimeout dt p => Sys2Proof.Machine.execBringTimeout dt p s
  | .eyeSweep dt sd lane v h delayed done => Sys2Proof.Machine.execEyeSweep dt sd lane v h delayed done s
  | .replicaCheck dt r m drop delayed => Sys2Proof.Machine.execReplicaCheck dt r m drop delayed s
  | .trendSample dt die => Sys2Proof.Machine.execTrendSample dt die s
  | .replanEvaluate dt job warns q => Sys2Proof.Machine.execReplanEvaluate dt job warns q s
  | .proposalCommit dt off w => Sys2Proof.Machine.execProposalCommit dt off w s
  | .apply dt sd w => Sys2Proof.Machine.execApply dt sd w s
  | .applyStepEnd dt sd => Sys2Proof.Machine.execApplyStepEnd dt sd s
  | .lockSet dt w => Sys2Proof.Machine.execLockSet dt w s
  | .guardTimeout dt sd page => Sys2Proof.Machine.execGuardTimeout dt sd page s
  | .fenceEpochSet dt off w => Sys2Proof.Machine.execFenceEpochSet dt off w s
  | .quorumSet dt off w => Sys2Proof.Machine.execQuorumSet dt off w s
  | .crcPass dt sd page => Sys2Proof.Machine.execCrcPass dt sd page s
  | .crcRefWrite dt sd w => Sys2Proof.Machine.execCrcRefWrite dt sd w s
  | .registerWrite dt sd off be w => Sys2Proof.Machine.execRegisterWrite dt sd off be w s
  | .dmaRingHeadWrite dt sd ch w => Sys2Proof.Machine.execDmaRingHeadWrite dt sd ch w s
  | .dmaBurstIssue dt sd ch wr => Sys2Proof.Machine.execDmaBurstIssue dt sd ch wr s
  | .dmaTransferComplete dt sd ch => Sys2Proof.Machine.execDmaTransferComplete dt sd ch s
  | .dmaBusError dt sd ch cause addr => Sys2Proof.Machine.execDmaBusError dt sd ch cause addr s
  | .dmaCompletionTimeout dt ch => Sys2Proof.Machine.execDmaCompletionTimeout dt ch s
  | .nodeReset dt => Sys2Proof.Machine.execNodeReset dt s
  | .nodeResetRelease dt cals => Sys2Proof.Machine.execNodeResetRelease dt cals s
  | .dxtReset dt => Sys2Proof.Machine.execDxtReset dt s
  | .dxtResetRelease dt => Sys2Proof.Machine.execDxtResetRelease dt s
  | .thermAssert dt c16 => Sys2Proof.Machine.execThermAssert dt c16 s
  | .thermalPowerDown dt => Sys2Proof.Machine.execThermalPowerDown dt s
  | .ocxoRdyChange dt rdy => Sys2Proof.Machine.execOcxoRdyChange dt rdy s
  | .modulePowerUp dt mv => Sys2Proof.Machine.execModulePowerUp dt mv s
  | .inputShutdown dt mv => Sys2Proof.Machine.execInputShutdown dt mv s
  | .operationOn dt => Sys2Proof.Machine.execOperationOn dt s
  | .operationOff dt => Sys2Proof.Machine.execOperationOff dt s
  | .clearFaults dt => Sys2Proof.Machine.execClearFaults dt s
  | .statusWord dt => Sys2Proof.Machine.execStatusWord dt s
  | .readVin dt => Sys2Proof.Machine.execReadVin dt s
  | .readIin dt => Sys2Proof.Machine.execReadIin dt s
  | .readTemperature1 dt => Sys2Proof.Machine.execReadTemperature1 dt s
  | .readPin dt => Sys2Proof.Machine.execReadPin dt s
  | .pmbusRevision dt => Sys2Proof.Machine.execPmbusRevision dt s
  | .mfrId dt => Sys2Proof.Machine.execMfrId dt s
  | .mfrDxReset dt ms => Sys2Proof.Machine.execMfrDxReset dt ms s
  | .mfrDxFlashWr dt addr bytes => Sys2Proof.Machine.execMfrDxFlashWr dt addr bytes s
  | .mfrDxFlashRd dt addr len => Sys2Proof.Machine.execMfrDxFlashRd dt addr len s
  | .mfrDxHold dt => Sys2Proof.Machine.execMfrDxHold dt s
  | .mfrDxRelease dt => Sys2Proof.Machine.execMfrDxRelease dt s
  | .mfrDxOcxo dt => Sys2Proof.Machine.execMfrDxOcxo dt s
  | .mfrDxModrec dt => Sys2Proof.Machine.execMfrDxModrec dt s
  | .ethLinkChange dt eth up => Sys2Proof.Machine.execEthLinkChange dt eth up s
  | .mailboxHostWrite dt mb off w => Sys2Proof.Machine.execMailboxHostWrite dt mb off w s
  | .fwSwPairDue dt => Sys2Proof.Machine.execFwSwPairDue dt s
  | .logRecordTimeout dt => Sys2Proof.Machine.execLogRecordTimeout dt s
  | .dmaBurstComplete dt sd ch wr => Sys2Proof.Machine.execDmaBurstComplete dt sd ch wr s
  | .rootLaunchTime dt job => Sys2Proof.Machine.execRootLaunchTime dt job s
  | .ageSample dt => Sys2Proof.Machine.execAgeSample dt s
  | .perstNChange dt level => Sys2Proof.Machine.execPerstNChange dt level s

end Sys2Proof.Machine
end

