-- ==== Sys2Proof/Safety.lean ====
section
/-! DEFINITION. What a safe run is, and the terms in which statements say what a command does and leaves alone. -/

namespace Sys2Proof

open Machine

/-- A step is safe when it gives a next state. -/
def Safe (s : State) : Prop := ∃ t, step s = .next t

/-- A component holds in `n` what it holds in `o`. -/
def Comp.Same (o n : Block) : Comp → Prop
  | .clk sd => (n.node sd).clk = (o.node sd).clk
  | .regs sd => (n.node sd).regs = (o.node sd).regs ∧ (n.node sd).roc = (o.node sd).roc
  | .ports sd => (n.node sd).ports = (o.node sd).ports
  | .inbox sd => (n.node sd).inbox = (o.node sd).inbox
  | .sheets sd => (n.node sd).rxSheets = (o.node sd).rxSheets
  | .outs sd => (n.node sd).outs = (o.node sd).outs
  | .convs sd => (n.node sd).convs = (o.node sd).convs
  | .dma sd => (n.node sd).dma = (o.node sd).dma
  | .eyes sd => (n.node sd).eyes = (o.node sd).eyes
  | .raised sd => (n.node sd).raised = (o.node sd).raised
  | .forwarded sd => (n.node sd).forwarded = (o.node sd).forwarded
  | .sram .dxt => n.dxt.sram = o.dxt.sram
  | .sram .dxs => n.dxs.sram = o.dxs.sram
  | .step => n.dxt.step = o.dxt.step
  | .die => n.dxt.die = o.dxt.die
  | .sync => n.dxt.sync = o.dxt.sync
  | .binds => n.dxt.binds = o.dxt.binds
  | .syncAudit => n.dxt.syncAudit = o.dxt.syncAudit
  | .lastCause => n.dxt.lastCause = o.dxt.lastCause
  | .ckSeen => n.dxt.ckSeen = o.dxt.ckSeen
  | .reps => n.dxt.reps = o.dxt.reps
  | .kills => n.dxt.kills = o.dxt.kills
  | .ident => n.dxs.role = o.dxs.role ∧ n.dxs.nodeNo = o.dxs.nodeNo ∧ n.dxs.quorum = o.dxs.quorum ∧
      n.dxs.peerActs = o.dxs.peerActs
  | .quality => n.dxs.qlClass = o.dxs.qlClass ∧ n.dxs.qlSsm = o.dxs.qlSsm ∧ n.dxs.qlRxAt = o.dxs.qlRxAt ∧
      n.dxs.qlTxAt = o.dxs.qlTxAt
  | .root => n.dxs.root = o.dxs.root
  | .meas => n.dxs.sw = o.dxs.sw
  | .instances => n.dxs.hub.ga = o.dxs.hub.ga
  | .dones => n.dxs.hub.dones = o.dxs.hub.dones
  | .defs => n.dxs.hub.gdefs = o.dxs.hub.gdefs
  | .folds => n.dxs.hub.fd = o.dxs.hub.fd
  | .jobs => n.dxs.hub.jobs = o.dxs.hub.jobs
  | .prog => n.dxs.hub.prog = o.dxs.hub.prog
  | .path => n.dxs.hub.path = o.dxs.hub.path
  | .sess => n.dxs.hub.ss = o.dxs.hub.ss
  | .quorum => n.dxs.hub.fq = o.dxs.hub.fq
  | .binder => n.dxs.hub.bn = o.dxs.hub.bn
  | .gaAudit => n.dxs.hub.gaAudit = o.dxs.hub.gaAudit
  | .gaOver => n.dxs.hub.gaOver = o.dxs.hub.gaOver
  | .mbox => n.dxs.hub.mbox = o.dxs.hub.mbox
  | .host => n.dxs.hub.host = o.dxs.hub.host
  | .module => { n.sm with flash := o.sm.flash } = o.sm
  | .flash => n.sm.flash = o.sm.flash
  | .free => n.free = o.free

/-- Every component outside the footprint holds in `n` what it holds in `o`. -/
def Untouched (fp : Foot) (o n : Block) : Prop := ∀ c, c ∉ fp → Comp.Same o n c

/-- The command gives a next state. Its queue is as it was, `dt` cycles have passed, every component outside `fp` is as the
passing of time alone leaves it, and the block is as `Q` says. -/
def Completes (c : Instr) (dt : Nat) (fp : Foot) (s : State) (Q : Block → Prop) : Prop :=
  ∃ t, exec c s = .next t ∧ t.pending = s.pending ∧ t.hall.now = s.hall.now + dt ∧
    Untouched fp (s.hall.elapse dt) t.hall ∧ Q t.hall

/-- The ports of a part but one are as they were. -/
def OtherPorts (o n : Block) (sd : Side) (p : Nat) : Prop := ∀ i, i ≠ p → n.port sd i = o.port sd i

/-- An event counter has counted `k` events. -/
def Counted (o n : Block) (sd : Side) (off idx k : Nat) : Prop := n.reg sd off idx = o.reg sd off idx + w32 k

/-- The values in effect of a part's registers are as they were, but for the instances with these keys. -/
def OtherRegs (o n : Block) (sd : Side) (keys : List Nat) : Prop :=
  ∀ off idx, regKey idx off ∉ keys → n.reg sd off idx = o.reg sd off idx

/-- A mark offered to a port that is UP, with room in its class queue and none waiting, stands last in that queue. -/
def MarkQueued (o n : Block) (sd : Side) (p : Nat) (m : Mark) : Prop :=
  (o.port sd p).st = .up → ((o.port sd p).tx.queue m.kind.cls).length < queueDepth → (o.port sd p).tx.waiting = [] →
    (n.port sd p).tx.queue m.kind.cls = (o.port sd p).tx.queue m.kind.cls ++ [⟨m, 0⟩]

/-- A mark offered to a port that is UP, with room in its class queue and none waiting, stands in that queue. -/
def MarkOffered (o n : Block) (sd : Side) (p : Nat) (m : Mark) : Prop :=
  (o.port sd p).st = .up → ((o.port sd p).tx.queue m.kind.cls).length < queueDepth → (o.port sd p).tx.waiting = [] →
    ⟨m, 0⟩ ∈ (n.port sd p).tx.queue m.kind.cls

/-- Sheets queued at a port that takes DATA sheets stand last in its queue. -/
def SheetsQueued (o n : Block) (sd : Side) (p : Nat) (ss : List Sheet) : Prop :=
  (o.port sd p).st.discards = false → (n.port sd p).sh.queue = (o.port sd p).sh.queue ++ ss

/-- The mark at the head of a part's inbox, and what follows it. -/
abbrev InboxHead (b : Block) (sd : Side) (k : Kind) (r : RxMark) (rest : List RxMark) : Prop :=
  (b.node sd).inbox = r :: rest ∧ r.mark.kind = k

/-- Every other region of the DX-T is as it was. -/
def OtherRegions (o n : Block) (r : Nat) : Prop := ∀ i, i ≠ r → n.region i = o.region i

/-- A die's folio `n` is `c` but for what is noted of DONE while its conditions are watched. -/
abbrev StepWatched (c n : StepCtx) : Prop :=
  { n with doneAt := c.doneAt, holdSeen := c.holdSeen, endptSeen := c.endptSeen } = c

/-- The open guarded pair of a block with value register `v`: the value was written first, in time, and `w` is its complement
in the defined bits. -/
abbrev PairReady (b : Block) (sd : Side) (v : Nat) (g : GuardOpen) (w : Word) : Prop :=
  b.guard sd (v / 4096) = some g ∧ g.off = v ∧ g.idx = 0 ∧ b.now < g.openedAt + guardWindow sd ∧
    (g.w.toNat ^^^ w.toNat) &&& guardMask sd v = guardMask sd v

/-- The value that a guarded pair completes with. -/
def pairValue (sd : Side) (v : Nat) (g : GuardOpen) : Word := w32 (g.w.toNat &&& guardMask sd v)

/-- A context may issue the word `w` with the opcode `op`, which stands at its program counter within the folio's budget. -/
abbrev Issues (b : Block) (j op w : Nat) : Prop :=
  b.canIssue j = true ∧ (b.job j).pc < (b.job j).len ∧ b.progWord j = w ∧ opOf w = op ∧
    ((b.job j).prologue = false → (b.job j).seg + 1 ≤ (b.job j).ipf)

/-- A job after an issue alone: the next word, one instruction more in the segment. -/
def issuedJob (x : Job) : Job :=
  { x with
    pc := x.pc + 1
    seg := if x.prologue then x.seg else x.seg + 1
    segMax := if x.prologue then x.segMax else max x.segMax (x.seg + 1) }

/-- The same with the instruction noted in the segment's sequence. -/
def sequencedJob (x : Job) (op : Nat) : Job := { issuedJob x with ran := x.ran ++ [op] }

/-- Only this job is another one. -/
def JobOnly (o n : Block) (j : Nat) (x : Job) : Prop := n.job j = x ∧ ∀ i, i ≠ j → n.job i = o.job i

/-- An issue that leaves job `j` as `x`: no other job changes, and no register but the count of issues, which has gone up by 1. -/
def IssuedAs (o n : Block) (j : Nat) (x : Job) : Prop :=
  JobOnly o n j x ∧ Counted o n .dxs Reg.FS_ISSUE_LO 0 1 ∧
    OtherRegs o n .dxs [regKey 0 Reg.FS_ISSUE_LO, regKey 0 Reg.FS_ISSUE_HI]

/-- A sequence instruction may issue: in its order and, for a session instruction, in a job with sessions. -/
abbrev InSequence (b : Block) (j op : Nat) : Prop :=
  (b.job j).orderOk op = true ∧ (sessionOp op = true → (b.job j).sess = true)

/-- What originating a FAULT at a part may write. -/
def faultFoot (sd : Side) : Foot :=
  Foot.sided sd [.regs .dxt, .ports .dxt, .raised .dxt, .lastCause] [.regs .dxs, .ports .dxs, .inbox .dxs, .raised .dxs]

/-- The record that a session command of this code takes next at a mailbox, at the acting root with its sessions enabled. -/
abbrev RecordReady (b : Block) (mb cmd : Nat) (r : List Byte) : Prop :=
  b.actingRoot = true ∧ b.nextRec mb = some r ∧ recBad r = false ∧ leAt r 0 1 = cmd ∧ wbit (b.reg .dxs Reg.DXS_SS_CTRL) 0 = true

/-- A field of the record at which a session page stood. -/
def recordField (o n : Block) (mb i len : Nat) : Nat := n.pageAt mb (recAt (o.cursor mb) + i) len

/-- The record has been accepted: OK, with the low 32 bits of its job's SN and the stamp of the acceptance. -/
def RecordAccepted (o n : Block) (mb j : Nat) : Prop :=
  recordField o n mb 2 2 = Ss.ok ∧ recordField o n mb 36 4 = (o.job j).sn % 2 ^ 32 ∧
    recordField o n mb 40 8 = o.ht .dxs % 2 ^ 64 ∧ Counted o n .dxs Reg.DXS_SS_CMD_CNT 0 1

/-- Only this session is another one. -/
def SessionOnly (o n : Block) (slot : Nat) (x : Session) : Prop := n.sess slot = x ∧ ∀ i, i ≠ slot → n.sess i = o.sess i

/-- Only this tenant is another one. -/
def TenantOnly (o n : Block) (t : Nat) (x : Tenant) : Prop := n.tenant t = x ∧ ∀ i, i ≠ t → n.tenant i = o.tenant i

/-- Only this index of the parked table is another one. -/
def TicketOnly (o n : Block) (i : Nat) (x : Ticket) : Prop := n.ticket i = x ∧ ∀ k, k ≠ i → n.ticket k = o.ticket k

/-- A page has been answered with this status. -/
def PageDone (n : Block) (mb status : Nat) : Prop := n.own mb = Own.done ∧ n.pageAt mb 10 2 = status

/-- A mailbox's page is TAKEN with this control command, and the command has no write under way at another node. -/
abbrev Commanded (b : Block) (mb cmd : Nat) : Prop := b.takenCmd mb = some cmd ∧ b.copying mb = false

/-- A page has been answered OK, or waits for its command's writes at other nodes. -/
def AnsweredCopied (n : Block) (mb : Nat) : Prop := if n.copying mb then n.own mb = Own.taken else PageDone n mb Cs.ok

/-- A page has been answered OK, or waits for the relock of its job's dies and for its command's writes at other nodes. -/
def AnsweredBound (n : Block) (mb j : Nat) : Prop :=
  if n.binding j || n.copying mb then n.own mb = Own.taken ∧ n.isAccepted mb = true
  else PageDone n mb Cs.ok ∧ n.isAccepted mb = false

/-- Only this job is another one, and it is as `P` says. -/
def JobIs (o n : Block) (j : Nat) (P : Job → Prop) : Prop := P (n.job j) ∧ ∀ i, i ≠ j → n.job i = o.job i

/-- The memories hold their canonical form. -/
def MemoriesWf (s : State) : Prop :=
  Memory.wf s.hall.dxt.sram = true ∧ Memory.wf s.hall.dxs.sram = true ∧ Memory.wf s.hall.sm.flash = true

/-- What the power states of the module have in common. -/
def ModuleWf (m : Module) : Prop :=
  (m.powered = false → m.prst = false ∧ m.rdy = false ∧ m.heater = 0) ∧ (m.prst = false → m.therm = true) ∧
  (m.powered = true → m.heater = if m.rdy then 30 else 80) ∧
  (m.hold = true → m.prst = false) ∧ (m.resetEnd.isSome = true → m.prst = false) ∧
  (m.mgmt = false → m.powered = false ∧ m.hold = false) ∧ m.modrec.length = 128

/-- The invariants of the machine. -/
def Inv (s : State) : Prop := MemoriesWf s ∧ ModuleWf s.hall.sm

end Sys2Proof
end

