-- ==== Sys2Proof/Certificates/Slice0/Obligations.lean ====
section
/-! DEFINITION. The statements for the provers. Every one rests on log entries 1 (the time `dt` of a command), 35 (footprints) and 36
(rows out of their condition), which are the model's own; a statement names the further entries that it rests on. -/

section

open Sys2Proof Sys2Proof.Machine

/-! ### The spine link -/

/-- R69 to R72: how a port's state moves. In the clause of DWELL_EXPIRE the CROSS ports of a DX-S48 are left out: LostCrossPort
speaks of them. It rests on the model's own: log entries 48 and 50 (DEDUCED). -/
def Obligations.LinkStates : Prop := ∀ (s : State) (dt : Nat) (sd : Side) (p : Nat),
  let b := s.hall.elapse dt
  let q := b.port sd p
  (q.st = .train → q.latDone = true → q.latFail = false →
    Completes (.linkTrained dt sd p) dt [.ports sd] s fun n => n.port sd p = { q with st := .hunt } ∧ OtherPorts b n sd p) ∧
  (∀ idx epoch lock rxDown, q.st = .hunt →
    Completes (.linkUp dt sd p idx epoch lock rxDown) dt
      (Foot.sided sd [.regs .dxt, .ports .dxt, .sheets .dxt, .raised .dxt, .die, .lastCause] [.regs .dxs, .ports .dxs,
        .inbox .dxs, .sheets .dxs, .dma .dxs, .eyes .dxs, .raised .dxs, .instances, .dones, .folds, .jobs, .path, .sess,
        .binder, .gaAudit, .gaOver, .host]) s fun n =>
      (n.port sd p).st = .up ∧ (n.port sd p).rx.epoch = epoch ∧ (n.port sd p).rx.rxDown = rxDown ∧
        (n.port sd p).sh.sent = [0, 0, 0, 0] ∧ (n.port sd p).sh.freed = credFields (b.reg sd Reg.SP_CRED_INIT p)) ∧
  (∀ second los, q.st = .up → 3 ≤ missedRun q.rx.missed (q.rx.told ||| if second then 2 else 1) ∨ los = true →
    Completes (.columnMissed dt sd p ⟨second, los⟩) dt [.clk sd, .regs sd, .ports sd, .sheets sd] s fun n =>
      (n.port sd p).st = .down ∧ (n.port sd p).downAt = n.now ∧ (n.port sd p).tx = q.tx ∧ (n.port sd p).sh = q.sh ∧
        Counted b n sd Reg.SP_LINK_DOWN_CNT p 1 ∧ OtherRegs b n sd [regKey p Reg.SP_LINK_DOWN_CNT] ∧ OtherPorts b n sd p) ∧
  (q.st = .down → q.downAt + b.dwell sd p ≤ b.now → sd = .dxt ∨ b.portRole p ≠ roleCross →
    Completes (.dwellExpire dt sd p) dt
      (Foot.sided sd [.regs .dxt, .ports .dxt, .sheets .dxt, .raised .dxt, .lastCause] [.regs .dxs, .ports .dxs, .inbox .dxs,
        .sheets .dxs, .dma .dxs, .raised .dxs, .instances, .dones, .folds, .jobs, .path, .sess, .gaAudit, .gaOver, .host]) s fun n =>
      (n.port sd p).st = .lost ∧ (n.port sd p).tx.q0 = [] ∧ (n.port sd p).tx.q1 = [] ∧ (n.port sd p).tx.q2 = [] ∧
        (n.port sd p).tx.q3 = [] ∧ (n.port sd p).tx.waiting = [] ∧ (n.port sd p).tx.history = [] ∧
        (n.port sd p).sh.replay = [] ∧ (n.port sd p).rejoin = b.rejoinGen sd p) ∧
  (q.st = .lost → b.rejoinGen sd p = q.rejoin →
    Completes (.lockRegained dt sd p) dt
      (Foot.sided sd [.regs .dxt, .ports .dxt, .sheets .dxt, .raised .dxt, .die, .lastCause] [.regs .dxs, .ports .dxs,
        .inbox .dxs, .sheets .dxs, .raised .dxs]) s fun n =>
      (n.port sd p).st = .timeOnly ∧ (n.port sd p).tx = q.tx ∧ (n.port sd p).sh = q.sh ∧ (n.port sd p).rejoin = q.rejoin ∧
        OtherPorts b n sd p)

/-- R52, R53, R57, R69: each pair of a port that is not OFF carries one mark: a GO before every other, IDLE with RX_DOWN = 1 in
TRAIN, HUNT, DOWN and LOST; and a mark that waits enters its class queue when it has room. It rests on the model's own: log entries
47 and 51 (DEDUCED). -/
def Obligations.MarkSending : Prop := ∀ (s : State) (dt : Nat) (sd : Side) (p : Nat),
  let b := s.hall.elapse dt
  let q := b.port sd p
  (q.st ≠ .off → Completes (.markPairSend dt sd p) dt [.regs sd, .ports sd] s fun n =>
    (n.port sd p).tx.pair = q.tx.pair + 1 ∧ OtherPorts b n sd p) ∧
  (q.st = .train ∨ q.st = .hunt ∨ q.st = .down ∨ q.st = .lost →
    Completes (.markPairSend dt sd p) dt [.regs sd, .ports sd] s fun n =>
      (n.port sd p).tx.lastSent = some (mkMark .idle (b.portEpoch sd p) (q.tx.pair % pairsPerFrame) (b.txBoundary sd p)
        (1 + 2 * b.reportedLock sd)).payload) ∧
  (∀ g rest, q.st = .up → q.tx.q0 = g :: rest → g.mark.kind = .go → q.tx.lastSent ≠ some g.mark.payload →
    Completes (.markPairSend dt sd p) dt [.regs sd, .ports sd] s fun n =>
      (n.port sd p).tx.q0 = rest ∧ (n.port sd p).tx.lastSent = some g.mark.payload ∧
        (n.port sd p).tx.out = markBits g.mark.payload) ∧
  (∀ m rest, q.tx.waiting = m :: rest → q.tx.hasRoom m = true →
    Completes (.markEnqueue dt sd p) dt [.ports sd] s fun n =>
      (n.port sd p).tx.queue m.mark.kind.cls = q.tx.queue m.mark.kind.cls ++ [m] ∧ (n.port sd p).tx.waiting = rest ∧
        (n.port sd p).st = q.st ∧ OtherPorts b n sd p)

/-- R50, R56, R59 to R61, R73: what a received pair does, the recovery of lost marks, and the window of undecodable pairs. It rests
on the model's own: log entries 44, 48, 151 and 152 (DEDUCED). -/
def Obligations.MarkReceiving : Prop := ∀ (s : State) (dt : Nat) (sd : Side) (p : Nat),
  let b := s.hall.elapse dt
  let q := b.port sd p
  let lim := b.rf sd Reg.SP_UNCORR_LIM 15 0 p
  (∀ w code v m, q.st = .up → decodePair w = some (v, false) → markOf v = some m → m.kind = .go ∨ m.kind = .fault →
    q.rx.prev ≠ some v → q.rx.badRange = none → b.epochMismatch sd p = false →
    Completes (.markPairReceive dt sd p w code) dt
      (Foot.sided sd [.clk .dxt, .regs .dxt, .ports .dxt, .inbox .dxt, .sheets .dxt, .convs .dxt, .raised .dxt, .lastCause,
        .free] [.clk .dxs, .regs .dxs, .ports .dxs, .inbox .dxs, .sheets .dxs, .convs .dxs, .raised .dxs, .binder, .free]) s fun n =>
      (n.node sd).inbox = (b.node sd).inbox ++ [⟨p, b.ht sd, m, false⟩] ∧ OtherPorts b n sd p) ∧
  (∀ w code, q.st = .up ∨ q.st = .timeOnly → decodePair w = none →
    Completes (.markPairReceive dt sd p w code) dt
      (Foot.sided sd [.clk .dxt, .regs .dxt, .ports .dxt, .inbox .dxt, .sheets .dxt, .convs .dxt, .raised .dxt, .lastCause,
        .free] [.clk .dxs, .regs .dxs, .ports .dxs, .inbox .dxs, .sheets .dxs, .convs .dxs, .raised .dxs, .binder, .free]) s fun n =>
      Counted b n sd Reg.SP_MARK_UNCORR_CNT p 1 ∧
        if lim ≠ 0 ∧ q.rx.uncorr + 1 = lim then (n.port sd p).rx.uncorrFault = true ∧ (n.port sd p).pathOut = true
        else (n.node sd).inbox = (b.node sd).inbox) ∧
  (∀ r, q.st = .up → (q.rx.resync.find? fun r => q.tx.pair ≥ r.sentAt + 32) = some r →
    Completes (.resyncRepeat dt sd p) dt [.regs sd, .ports sd] s fun n =>
      if 8 ≤ r.sends then (n.port sd p).st = .down ∧ Counted b n sd Reg.SP_LINK_DOWN_CNT p 1
      else (n.port sd p).st = .up ∧ (n.port sd p).rx.resync = q.rx.resync.map fun y =>
        if y.first == r.first && y.last == r.last then { y with sends := y.sends + 1, sentAt := q.tx.pair } else y) ∧
  (∀ tm m bad rest, (b.node sd).inbox = ⟨p, tm, m, bad⟩ :: rest → m.kind = .resync →
    q.tx.handled.contains (pairIdx m.obj, pairIdx m.tag) = true → q.tx.q1.length < queueDepth → q.tx.waiting = [] →
    Completes (.resyncReceive dt sd) dt [.regs sd, .ports sd, .inbox sd] s fun n =>
      (n.node sd).inbox = rest ∧ OtherPorts b n sd p ∧
        (n.port sd p).tx.q1 = q.tx.q1 ++ [⟨mkMark .resyncAck (pairIdx m.obj) (pairIdx m.tag) 0 0, 0⟩]) ∧
  (∀ tm m bad rest, (b.node sd).inbox = ⟨p, tm, m, bad⟩ :: rest → m.kind = .resyncAck →
    Completes (.resyncAckReceive dt sd) dt [.ports sd, .inbox sd] s fun n =>
      (n.node sd).inbox = rest ∧ OtherPorts b n sd p ∧ (n.port sd p).tx = q.tx ∧
        (n.port sd p).rx.resync = q.rx.resync.filter fun y => !(y.first == pairIdx m.obj && y.last == pairIdx m.tag)) ∧
  Completes (.markUncorrWindow dt sd p) dt [.ports sd] s fun n =>
    (n.port sd p).rx.uncorr = 0 ∧ ((n.port sd p).rx.uncorrFault = true ↔ lim ≠ 0 ∧ lim ≤ q.rx.uncorr) ∧
      (n.port sd p).st = q.st ∧ OtherPorts b n sd p

/-- R62 to R68: a sheet slot carries the first queued sheet with a credit and keeps it for replay; the receiver takes the sheet it
expects, and asks again for one that failed its CRC; the ninth RETRY is a LINK_DOWN. It rests on the model's own: log entry 45
(DEDUCED), log entry 49 (DESIGN CHOICE). -/
def Obligations.Sheets : Prop := ∀ (s : State) (dt : Nat) (sd : Side) (p : Nat),
  let b := s.hall.elapse dt
  let q := b.port sd p
  (∀ x rest, q.st = .up → q.sh.resend = none → bit (b.portCtrl sd p) 1 = true → q.sh.replay.length < replaySize →
    q.sh.queue = x :: rest → q.sh.hasCredit x.chan = true →
    Completes (.sheetSlotSend dt sd p) dt [.regs sd, .ports sd] s fun n =>
      (n.port sd p).sh.queue = rest ∧ (n.port sd p).sh.nextSeq = (q.sh.nextSeq + 1) % 65536 ∧
        (n.port sd p).sh.replay = q.sh.replay ++ [(q.sh.nextSeq, x)] ∧ (n.port sd p).sh.sent = bumpAt q.sh.sent x.chan 1 ∧
        OtherPorts b n sd p) ∧
  (∀ bs, q.st = .up → sheetIntact bs = true → leAt bs 0 1 % 64 = tFoldIn → b.epochMismatch sd p = false →
    leAt bs 10 2 = b.portEpoch sd p → leAt bs 2 2 = q.sh.expSeq →
    Completes (.sheetReceive dt sd p bs false) dt
      (Foot.sided sd [.regs .dxt, .ports .dxt, .sheets .dxt] [.regs .dxs, .ports .dxs, .sheets .dxs, .jobs, .binder]) s fun n =>
      (n.node sd).rxSheets = (b.node sd).rxSheets ++ [⟨p, sheetOf bs, true⟩] ∧
        (n.port sd p).sh.expSeq = (q.sh.expSeq + 1) % 65536 ∧ (n.port sd p).sh.retryOut = false ∧ OtherPorts b n sd p) ∧
  (∀ bs fecBad, q.st = .up → fecBad = true ∨ sheetIntact bs = false →
    Completes (.sheetReceive dt sd p bs fecBad) dt
      (Foot.sided sd [.regs .dxt, .ports .dxt, .sheets .dxt] [.regs .dxs, .ports .dxs, .sheets .dxs, .jobs, .binder]) s fun n =>
      Counted b n sd Reg.SP_SHEET_CRC_CNT p 1 ∧ (n.node sd).rxSheets = (b.node sd).rxSheets ∧
        (n.port sd p).sh.expSeq = q.sh.expSeq ∧
        if q.sh.retryOut = true ∨ q.sh.retrySends < 8 then (n.port sd p).sh.retryOut = true ∧ (n.port sd p).st = .up
        else (n.port sd p).st = .down ∧ Counted b n sd Reg.SP_LINK_DOWN_CNT p 1) ∧
  (q.st = .up → q.sh.retryOut = true → q.sh.retryAt + b.rf sd Reg.SP_RETRY_TO 7 0 p ≤ q.tx.pair →
    Completes (.retryRepeat dt sd p) dt [.regs sd, .ports sd] s fun n =>
      if 8 ≤ q.sh.retrySends then (n.port sd p).st = .down ∧ Counted b n sd Reg.SP_LINK_DOWN_CNT p 1
      else (n.port sd p).st = .up ∧ (n.port sd p).sh.retrySends = q.sh.retrySends + 1) ∧
  (∀ tm m bad rest, (b.node sd).inbox = ⟨p, tm, m, bad⟩ :: rest → m.kind = .retry →
    Completes (.retryReceive dt sd) dt [.ports sd, .inbox sd] s fun n =>
      (n.node sd).inbox = rest ∧ OtherPorts b n sd p ∧ (n.port sd p).sh.resend =
        if q.sh.replay.any fun x => x.1 == m.arg.toNat then some m.arg.toNat else q.sh.resend)

/-! ### Time transfer -/

/-- R79, R80, R84: echo exchanges. A DX-T discards a request; a DX-S48 queues the answer; an answer that comes 32,000 ns late or not
at all is lost and counted. It rests on the model's own: log entry 47 (DEDUCED). -/
def Obligations.EchoExchanges : Prop := ∀ (s : State) (dt : Nat) (sd : Side) (p : Nat),
  let b := s.hall.elapse dt
  let q := b.port sd p
  ((b.refPorts sd).contains p = true → b.mayAsk sd p = true → q.st = .up ∨ q.st = .timeOnly → q.echo.reqAt ≤ q.tx.pair →
    q.tx.q3.length < queueDepth → q.tx.waiting = [] →
    Completes (.echoReqSend dt sd p) dt [.regs sd, .ports sd] s fun n =>
      (n.port sd p).tx.q3 = q.tx.q3 ++ [⟨mkMark .echoReq q.echo.seq 0 0 0, 0⟩] ∧
        (n.port sd p).echo.seq = (q.echo.seq + 1) % 65536 ∧ (n.port sd p).echo.reqAt = q.tx.pair + 250 ∧
        OtherPorts b n sd p) ∧
  (∀ tm m bad rest, (b.node sd).inbox = ⟨p, tm, m, bad⟩ :: rest → m.kind = .echoReq → q.st = .up ∨ q.st = .timeOnly →
    q.tx.q3.length < queueDepth → q.tx.waiting = [] →
    Completes (.echoReqReceive dt sd) dt (Foot.sided sd [.inbox .dxt] [.regs .dxs, .ports .dxs, .inbox .dxs]) s fun n =>
      (n.node sd).inbox = rest ∧ (sd = .dxs →
        (n.port sd p).tx.q3 = if bad then q.tx.q3 else q.tx.q3 ++ [⟨mkMark .echoRsp m.obj.toNat 0 0 0, tm⟩]) ∧
        OtherPorts b n sd p) ∧
  (∀ tm m bad rest t1 out, (b.node sd).inbox = ⟨p, tm, m, bad⟩ :: rest → m.kind = .echoRsp →
    q.echo.out = (m.obj.toNat, t1) :: out →
    Completes (.echoRspReceive dt sd) dt [.regs sd, .ports sd, .inbox sd] s fun n =>
      (n.node sd).inbox = rest ∧ (n.port sd p).echo.out = out ∧ OtherPorts b n sd p ∧
        if t1 + echoLostAfter ≤ tm then (n.port sd p).echo.got = q.echo.got ∧ Counted b n sd Reg.TT_P_ECHO_LOST_CNT p 1
        else if bad = true then (n.port sd p).echo.got = q.echo.got ∧ Counted b n sd Reg.TT_P_ECHO_GATE_CNT p 1
        else (n.port sd p).echo.got = q.echo.got ++ [(if (b.clk sd).seeded || (b.clk sd).htValid then
          some (exchange (b.ht sd) t1 tm m q.echo.asym).1 else none, (exchange (b.ht sd) t1 tm m q.echo.asym).2)] ∧
          OtherRegs b n sd []) ∧
  Completes (.echoLost dt sd p) dt [.regs sd, .ports sd] s fun n =>
    (n.port sd p).echo.out = (q.echo.out.filter fun x => !(x.2 + echoLostAfter ≤ b.ht sd)) ∧
      Counted b n sd Reg.TT_P_ECHO_LOST_CNT p (q.echo.out.filter fun x => x.2 + echoLostAfter ≤ b.ht sd).length ∧
      OtherRegs b n sd [regKey p Reg.TT_P_ECHO_LOST_CNT] ∧ OtherPorts b n sd p

/-- R82, R85, R92: an interval is valid when it keeps eight exchanges; the latency measurement of a port in TRAIN or OFF; and a free
loop that finds a fit domain acquires it. It rests on the model's own: log entries 3, 160 and 161 (DESIGN CHOICE), log entries 130
and 156 (DEDUCED). -/
def Obligations.IntervalsAndDomains : Prop := ∀ (s : State) (dt : Nat) (sd : Side) (p : Nat),
  let b := s.hall.elapse dt
  let q := b.port sd p
  let kept := keptOf q.echo (fld (b.reg sd Reg.TT_SERVO_CFG) 31 16)
  let cv := portConv sd p
  let latFp : Foot := Foot.sided sd [.regs .dxt, .convs .dxt, .ports .dxt, .raised .dxt, .lastCause, .host]
    [.regs .dxs, .convs .dxs, .ports .dxs, .inbox .dxs, .raised .dxs, .root]
  ((b.refPorts sd).contains p = true → q.echo.closeAt ≤ b.now →
    Completes (.intervalClose dt sd p) dt
      (Foot.sided sd [.clk .dxt, .regs .dxt, .ports .dxt, .raised .dxt, .lastCause] [.clk .dxs, .regs .dxs, .ports .dxs]) s
      fun n => (n.port sd p).echo.got = [] ∧
        if 8 ≤ kept.length then (n.port sd p).echo.valid = true ∧ (n.port sd p).echo.invalidRun = 0 ∧
          (n.port sd p).echo.mpd = meanI (kept.map Prod.snd)
        else (n.port sd p).echo.valid = false ∧ (n.port sd p).echo.invalidRun = q.echo.invalidRun + 1) ∧
  (∀ (e : Nat × Nat) loop path, q.st = .train ∨ q.st = .off → p < nPorts sd → loop.length = latencyMarks →
    b.stampOk sd cv = true →
    Completes (.latencyMeasure dt sd p (some e.1) e.2 loop path) dt latFp s fun n =>
      (n.port sd p).latDone = true ∧ (n.port sd p).latFail = false ∧ (n.port sd p).st = q.st ∧
        (n.port sd p).echo.txlat = satU 16 (ps16 (b.delayOf sd cv e.1 e.2) 1).toNat ∧
        (n.port sd p).echo.rxlat = satU 16 (ps16 (sumI (loop.map fun x => b.delayOf sd cv x.1 x.2)) latencyMarks -
          ps16 (b.delayOf sd cv e.1 e.2) 1 - path).toNat ∧
        OtherPorts b n sd p ∧ Counted b n sd (tmBase sd + Reg.TM_CV_MEAS_CNT) cv (1 + latencyMarks) ∧
        OtherRegs b n sd [regKey cv (tmBase sd + Reg.TM_CV_MEAS_CNT)]) ∧
  (∀ pad code loop path, q.st = .train ∨ q.st = .off → p < nPorts sd →
    pad = none ∨ loop.length ≠ latencyMarks ∨ b.stampOk sd cv = false →
    Completes (.latencyMeasure dt sd p pad code loop path) dt latFp s fun n =>
      (n.port sd p).latDone = true ∧ (n.port sd p).latFail = true ∧ (n.port sd p).st = q.st ∧
        (n.port sd p).echo = q.echo) ∧
  (∀ phaseOk d, (b.clk sd).lock = .free →
    sd = .dxt ∨ (b.dxs.root.roleDue = none ∧ b.actingRoot = false ∧ b.dxs.role ≠ .memberC) →
    b.chooseFree sd (b.candidates sd false) = some d →
    Completes (.domainSelect dt sd phaseOk) dt
      (Foot.sided sd [.clk .dxt, .regs .dxt, .ports .dxt, .raised .dxt, .lastCause, .host] [.clk .dxs, .regs .dxs,
        .ports .dxs, .dma .dxs, .raised .dxs, .quality, .root, .jobs, .sess, .host]) s fun n =>
      (n.clk sd).lock = .acquire ∧ (n.clk sd).sel = d ∧ (n.clk sd).htValid = false)

/-- R93, R98, R345: a seed presets the counter while HT_VALID is 0 and expires after a second; a snapshot copies HT; a root or tier
node seeds every child that is due; and the last of the three guarded pairs loads a DX-T's HT in FREE with SERVO = 1. -/
def Obligations.SeedsAndSnapshots : Prop := ∀ (s : State) (dt : Nat) (sd : Side),
  let b := s.hall.elapse dt
  (∀ w, Completes (.seedWrite dt sd w) dt [.clk sd, .regs sd] s fun n =>
    n.reg sd (Reg.TT_SEED + 8) = w ∧ OtherRegs b n sd [regKey 0 (Reg.TT_SEED + 8)] ∧
      if (b.clk sd).htValid then n.clk sd = b.clk sd
      else (n.clk sd).seeded = true ∧ (n.clk sd).seedAt = n.now ∧
        (n.clk sd).ht = htWrap (htOfWords (b.reg sd Reg.TT_SEED) (b.reg sd (Reg.TT_SEED + 4)) w * 2 ^ 32)) ∧
  (Completes (.seedExpire dt sd) dt [.clk sd] s fun n =>
    n.clk sd = if (b.clk sd).seeded && b.now ≥ (b.clk sd).seedAt + 1000000000 then { b.clk sd with seeded := false }
      else b.clk sd) ∧
  (∀ w, Completes (.htSnapshot dt sd w) dt [.regs sd] s fun n =>
    n.regHT sd Reg.TT_HT_SNAP 0 = htOfWords (htWord (b.ht sd) 0) (htWord (b.ht sd) 1) (htWord (b.ht sd) 2) ∧
      Counted b n sd Reg.TT_SNAP_SEQ 0 1) ∧
  (b.dxs.hub.bn.boot = 1 →
    Completes (.seedRepeat dt) dt [.ports .dxs, .sheets .dxs, .binder] s fun n =>
      ∀ p, p < 48 → b.seedDue p = true →
        nget seedReset n.dxs.hub.bn.seedAt p = b.now ∧ ∃ t ∈ n.dxs.hub.bn.rem, t.addr = Reg.TT_SEED ∧ t.op = 2 ∧
          t.words = [htWord (b.ht .dxs) 0, htWord (b.ht .dxs) 1, htWord (b.ht .dxs) 2] ∧
          t.target = if (b.entryOf p).kind = 1 then (b.entryOf p).nbr else (b.topo.die (b.entryOf p).nbr).pos) ∧
  (∀ g w, b.guard .dxt 3 = some g → g.off = Reg.TT_HTLOAD_SH → g.idx = 0 → b.now ≤ g.openedAt + guardWindow .dxt →
    (g.w.toNat ^^^ w.toNat) &&& guardMask .dxt Reg.TT_HTLOAD_SH = guardMask .dxt Reg.TT_HTLOAD_SH →
    b.dxt.node.regs.guardDone.contains Reg.TT_HTLOAD_NS = true → b.dxt.node.regs.guardDone.contains Reg.TT_HTLOAD_S = true →
    (b.clk .dxt).lock = .free → b.servoMode .dxt = true →
    Completes (.htLoad dt (Reg.TT_HTLOAD_SH + 4) w) dt [.clk .dxt, .regs .dxt] s fun n =>
      (n.clk .dxt).htValid = true ∧ n.guard .dxt 3 = none ∧
        (n.clk .dxt).ht = htWrap (htOfWords (b.reg .dxt Reg.TT_HTLOAD_NS) (b.reg .dxt Reg.TT_HTLOAD_S)
          (w32 (g.w.toNat &&& guardMask .dxt Reg.TT_HTLOAD_SH)) * 2 ^ 32))

/-- R95 to R97: quality marks. The acting root sends its own on every DOWN and CROSS port, when a millisecond passes or its quality
changes; a node keeps what it receives; a DX-S48 that has heard none for 2 ms sends its own; a port that has heard none for 4 ms is
stale. -/
def Sys2Proof.QualityMarking : Prop := ∀ (s : State) (dt : Nat),
  let b := s.hall.elapse dt
  (b.actingRoot = true → b.msNow ≠ b.dxs.root.qlMs ∨ b.dxs.root.lastQl ≠ some b.rootQl →
    Completes (.qlSend dt) dt [.regs .dxs, .ports .dxs, .root] s fun n =>
      n.dxs.root.lastQl = some b.rootQl ∧ n.dxs.root.qlMs = b.msNow ∧
        ∀ p ∈ b.portsOf roleDown, (b.port .dxs p).st = .up → (b.port .dxs p).tx.q2.length < queueDepth →
          (b.port .dxs p).tx.waiting = [] → (n.port .dxs p).tx.q2 = (b.port .dxs p).tx.q2 ++
            [⟨qlMark b.rootQl.1 b.rootQl.2.1 b.rootQl.2.2 (b.ht .dxs), 0⟩]) ∧
  (∀ sd p tm m bad rest, (b.node sd).inbox = ⟨p, tm, m, bad⟩ :: rest → m.kind = .ql →
    Completes (.qlReceive dt sd) dt
      (Foot.sided sd [.ports .dxt, .inbox .dxt] [.regs .dxs, .ports .dxs, .inbox .dxs, .quality]) s fun n =>
      (n.node sd).inbox = rest ∧ (n.port sd p).echo.qlClass = bits m.obj.toNat 7 0 ∧
        (n.port sd p).echo.qlSsm = bits m.obj.toNat 11 8 ∧ (n.port sd p).echo.qlLock = bits m.arg.toNat 2 0 ∧
        (n.port sd p).echo.qlStale = false ∧ (sd = .dxs → n.dxs.qlClass = bits m.obj.toNat 7 0 ∧ n.dxs.qlRxAt = n.now)) ∧
  (b.actingRoot = false → b.dxs.qlRxAt + 2000000 ≤ b.now → b.dxs.qlTxAt + 1000000 ≤ b.now →
    Completes (.qlHoldoverSend dt) dt [.regs .dxs, .ports .dxs, .quality] s fun n =>
      n.dxs.qlTxAt = n.now ∧
        ∀ p ∈ b.portsOf roleDown, (b.port .dxs p).st = .up → (b.port .dxs p).tx.q2.length < queueDepth →
          (b.port .dxs p).tx.waiting = [] → (n.port .dxs p).tx.q2 = (b.port .dxs p).tx.q2 ++ [⟨b.ownQl, 0⟩]) ∧
  (∀ sd p, Completes (.qlStale dt sd p) dt [.ports sd] s fun n =>
    (n.port sd p).echo.qlStale = ((b.port sd p).echo.qlStale || (b.port sd p).echo.qlAt + 4000000 ≤ b.now) ∧
      (n.port sd p).tx = (b.port sd p).tx ∧ OtherPorts b n sd p)

/-- R110, R116, R117: what leaves a root's Ethernet ports: the SSM code sent once a second on each port that is up, and a PTP
message with its stamp. -/
def Sys2Proof.EthernetSending : Prop := ∀ (s : State) (dt eth ty : Nat),
  let b := s.hall.elapse dt
  isRoot b.dxs.role = true → eth < 2 → b.ethUp eth = true →
  let event := ty == Ptp.sync || ty == Ptp.delayReq
  (wbit (b.reg .dxs Reg.RF_CTRL) 18 = true →
    Completes (.esmcSend dt) dt [.root] s fun n =>
      n.dxs.root.esmcTx.getD eth 0 = (if b.actingRoot then b.rootQl.2.1 else b.dxs.qlSsm) ∧
        { n.dxs.root with esmcTx := b.dxs.root.esmcTx } = b.dxs.root) ∧
  (∀ slot code pos, slot < 4 → slot < b.dxs.root.ptpSlots.length → b.ptpEth slot = eth → b.ptpMaySend slot ty = true →
    event = false ∨ b.stampOk .dxs (ethConv eth) = true →
    Completes (.ptpSend dt slot ⟨ty, code, pos⟩) dt [.regs .dxs, .convs .dxs, .root, .free] s fun n =>
      let t := b.ptpStamp eth code pos (b.ethLatOf eth).1
      n.dxs.root.ptpTx.head? = some (eth * 256 + ty, if event then t else 0) ∧ (n.ptpSlot slot).frame = b.ptpFrame slot ty t ∧
        { n.dxs.root with ptpTx := b.dxs.root.ptpTx, ptpSlots := b.dxs.root.ptpSlots } = b.dxs.root)

/-- R95 to R97, R110, R116, R117: quality marks, and what leaves a root's Ethernet ports. It rests on the model's own: log entries
55 and 57 (DEDUCED), 160 (DESIGN CHOICE) and 162 (PRESUMED). -/
def Obligations.QualityMarks : Prop := QualityMarking ∧ EthernetSending

/-! ### Root references -/

/-- R102 to R105, R115: what the reference inputs of a timing root bring. A candidate that an event leaves short of its rule is
disqualified. It rests on the model's own: log entries 58 and 126 (DEDUCED), 160 (DESIGN CHOICE) and 162 (PRESUMED). -/
def Obligations.ReferenceInputs : Prop := ∀ (s : State) (dt i : Nat),
  let b := s.hall.elapse dt
  let c := b.cand i
  isRoot b.dxs.role = true → i < b.dxs.root.cands.length →
  (∀ code, i < 4 → b.usesPps i = true → b.stampOk .dxs i = true → c.ppsOk = false → c.ppsRun = 0 →
    Completes (.ppsEdge dt i code) dt [.regs .dxs, .convs .dxs, .root, .free] s fun n =>
      (n.cand i).ppsRun = 1 ∧ (n.cand i).ppsLast = some (b.stampNow .dxs i code) ∧
        Counted b n .dxs Reg.RF_P_EDGE_CNT i 1) ∧
  (i < 4 → b.usesTen i = true →
    Completes (.refinEdgeMissing dt i true) dt [.regs .dxs, .root] s fun n =>
      (n.cand i).tenMiss = c.tenMiss + 1 ∧
        (c.tenOk = false ∨ b.rf .dxs Reg.RF_P_QUAL 15 12 i ≤ c.tenMiss + 1 → (n.cand i).tenOk = false ∧ (n.cand i).qual = false)) ∧
  (∀ slot msg code pos, i = 4 + slot → slot < 2 → slot < b.dxs.root.ptpSlots.length → b.ptpTakes slot msg = true →
    ptpType msg = Ptp.announce →
    Completes (.ptpMessageReceive dt slot msg code pos) dt [.regs .dxs, .convs .dxs, .root, .free] s fun n =>
      (∃ f, (n.ptpSlot slot).foreign.head? = some f ∧ f.src = ptpSource msg ∧ f.data = ptpDataSet msg ∧ f.last = n.now) ∧
        Counted b n .dxs Reg.RF_P_EDGE_CNT i 1) ∧
  (∀ slot t, i = 4 + slot → slot < 2 → c.annAt = some t →
    t + b.rf .dxs Reg.RF_P_QUAL 11 8 i * ptpInterval (b.ptpRaw slot) 4 ≤ b.now →
    (b.ptpSlot slot).foreign.all (fun f => (b.ptpSlot slot).parent == some f.src) = true →
    Completes (.ptpTimeout dt slot false) dt [.regs .dxs, .root] s fun n =>
      (n.cand i).annLost = true ∧ (n.cand i).qual = false ∧ (n.ptpSlot slot).parent = none) ∧
  (∀ eth ssm ext, i = 6 + eth → eth < 2 → b.candUse i ≠ 0 → b.ethUp eth = true →
    Completes (.esmcReceive dt eth ssm ext) dt [.regs .dxs, .root] s fun n =>
      (n.cand i).esmcAt = some n.now ∧ (n.cand i).rxSsm = ssm % 16 ∧ (n.cand i).extQl = ext ∧
        Counted b n .dxs Reg.RF_P_EDGE_CNT i 1) ∧
  (∀ eth t, i = 6 + eth → eth < 2 → c.esmcAt = some t → t + b.rf .dxs Reg.RF_P_QUAL 23 16 i * secCyc ≤ b.now →
    Completes (.esmcTimeout dt eth) dt [.regs .dxs, .root] s fun n =>
      (n.cand i).esmcAt = none ∧ (n.cand i).qual = false) ∧
  (∀ eth, eth < 2 → 4 ≤ i → i < 8 → b.candEth i = eth → eth < b.dxs.root.ethUp.length →
    Completes (.ethLinkChange dt eth false) dt [.regs .dxs, .root] s fun n =>
      n.ethUp eth = false ∧ (n.cand i).qual = false)

/-- R106 to R109, R112: an acting root without a qualified reference enters OVERCAST; a forced reference that qualifies is selected;
the second gives a qualified 1PPS reference its phase; in OVERCAST with a valid fit the word is the average and the modelled drift; a
FREQ reference draws the word towards its own; and ACQUIRE ends in OVERCAST without a selection. It rests on the model's own: log
entries 3 and 4 (DESIGN CHOICE), log entries 127 and 165 (DEDUCED). -/
def Obligations.RootServo : Prop := ∀ (s : State) (dt : Nat),
  let b := s.hall.elapse dt
  (b.actingRoot = true → (∀ i < 8, b.meets i ((b.cand i).tick b.now) = false) → b.dxs.root.cands.length = 8 →
    (b.clk .dxs).lock = .coarse ∨ (b.clk .dxs).lock = .locked →
    Completes (.refSelect dt) dt [.clk .dxs, .regs .dxs, .root] s fun n =>
      n.dxs.root.sel = none ∧ (n.clk .dxs).lock = .overcast ∧ Counted b n .dxs Reg.TT_OVERCAST_CNT 0 1) ∧
  (∀ k, b.actingRoot = true → (b.clk .dxs).lock = .locked → b.dxs.root.cands.length = 8 →
    b.meets k ((b.cand k).tick b.now) = true → wbit (b.reg .dxs Reg.RF_FORCE) 3 = true →
    fld (b.reg .dxs Reg.RF_FORCE) 2 0 = k →
    Completes (.refSelect dt) dt [.clk .dxs, .regs .dxs, .root] s fun n =>
      n.dxs.root.sel = some k ∧ (n.clk .dxs).lock = .locked) ∧
  (∀ i t, isRoot b.dxs.role = true → i < 4 → b.dxs.root.cands.length = 8 → b.usesPps i = true → b.usesTen i = false →
    (b.cand i).ppsStamp = some t → (b.cand i).qual = true →
    Completes (.rootSecondClose dt) dt [.clk .dxs, .regs .dxs, .convs .dxs, .root, .free] s fun n =>
      (n.cand i).valid = true ∧ (n.cand i).theta = ppsTheta t (b.ppsComp i) ∧ (n.cand i).ppsStamp = none) ∧
  (b.actingRoot = true → (b.clk .dxs).lock = .overcast → b.dxs.root.ageValid = true →
    Completes (.rootSecondClose dt) dt [.clk .dxs, .regs .dxs, .convs .dxs, .root, .free] s fun n =>
      ∃ free, (n.clk .dxs).fw48 = clampI (b.fwLim48 .dxs) ((b.clk .dxs).fwAvg +
        holdoverDelta (sx 32 (b.reg .dxs Reg.RF_AGE_C1).toNat) (b.reg .dxs Reg.RF_AGE_TAU).toNat
          (b.reg .dxs Reg.RF_AGE_T0).toNat b.dxs.root.te (b.ht .dxs) free)) ∧
  (∀ r, b.actingRoot = true → (b.clk .dxs).lock = .coarse ∨ (b.clk .dxs).lock = .locked → b.dxs.root.sel = some r →
    b.isTime r = false → (b.cand r).valid = true → b.servoMode .dxs = false →
    Completes (.rootServoUpdate dt) dt [.clk .dxs, .root] s fun n =>
      (n.clk .dxs).fw48 = clampI (b.fwLim48 .dxs) ((b.clk .dxs).fw48 + (((b.cand r).fref - (b.clk .dxs).fw48) >>> b.rkf)) ∧
        n.dxs.root.i48 = presetI (n.clk .dxs).fw48 0 b.rkp b.rki ∧ n.dxs.root.cands = b.dxs.root.cands) ∧
  (b.actingRoot = true → (b.clk .dxs).lock = .acquire → b.dxs.root.acqAt + 1024000 ≤ b.now →
    Completes (.rootAcquireEnd dt) dt [.clk .dxs, .regs .dxs, .root] s fun n =>
      (n.clk .dxs).lock = if b.dxs.root.sel.isSome then .coarse else .overcast)

/-- R13, R106, R111, R124, R345: the completed guarded pairs of root A's time and of the force. While a job is loaded a set is refused
and HT stays. -/
def Obligations.RootTimeSet : Prop := ∀ (s : State) (dt : Nat) (g : GuardOpen) (w : Word),
  let b := s.hall.elapse dt
  b.guard .dxs 4 = some g → g.idx = 0 → b.now ≤ g.openedAt + guardWindow .dxs →
  (g.off = Reg.RF_HTSET_SH → (g.w.toNat ^^^ w.toNat) &&& guardMask .dxs Reg.RF_HTSET_SH = guardMask .dxs Reg.RF_HTSET_SH →
    b.dxs.node.regs.guardDone.contains Reg.RF_HTSET_NS = true → b.dxs.node.regs.guardDone.contains Reg.RF_HTSET_S = true →
    b.dxs.role = .rootA → b.actingRoot = true →
    Completes (.htSet dt (Reg.RF_HTSET_SH + 4) w) dt [.clk .dxs, .regs .dxs, .root] s fun n =>
      if b.jobsLoaded then (n.clk .dxs).ht = (b.clk .dxs).ht ∧ n.reg .dxs Reg.RF_HTSET_ST = w32 HtSt.jobsLoaded
      else (n.clk .dxs).lock = .acquire ∧ (n.clk .dxs).htValid = true ∧ n.reg .dxs Reg.RF_HTSET_ST = w32 HtSt.ok ∧
        (n.clk .dxs).ht = htWrap (htOfWords (b.reg .dxs Reg.RF_HTSET_NS) (b.reg .dxs Reg.RF_HTSET_S)
          (w32 (g.w.toNat &&& guardMask .dxs Reg.RF_HTSET_SH)) * 2 ^ 32)) ∧
  (g.off = Reg.RF_HTSTEP → (g.w.toNat ^^^ w.toNat) &&& guardMask .dxs Reg.RF_HTSTEP = guardMask .dxs Reg.RF_HTSTEP →
    b.dxs.role = .rootA → b.actingRoot = true → b.jobsLoaded = false →
    Completes (.htStep dt (Reg.RF_HTSTEP + 4) w) dt [.clk .dxs, .regs .dxs, .root] s fun n =>
      (n.clk .dxs).lock = .acquire ∧ n.reg .dxs Reg.RF_HTSET_ST = w32 HtSt.ok ∧
        (n.clk .dxs).ht = htWrap (((b.ht .dxs : Int) +
          sx 32 (w32 (g.w.toNat &&& guardMask .dxs Reg.RF_HTSTEP)).toNat * 65536) * 2 ^ 32)) ∧
  (g.off = Reg.RF_FORCE → (g.w.toNat ^^^ w.toNat) &&& guardMask .dxs Reg.RF_FORCE = guardMask .dxs Reg.RF_FORCE →
    isRoot b.dxs.role = true →
    Completes (.forceSet dt (Reg.RF_FORCE + 4) w) dt [.regs .dxs] s fun n =>
      n.reg .dxs Reg.RF_FORCE = w32 (g.w.toNat &&& guardMask .dxs Reg.RF_FORCE) ∧ n.guard .dxs 4 = none ∧
        OtherRegs b n .dxs [regKey 0 Reg.RF_FORCE])

/-- R86, R99, R112, R118: steering from software, its watchdog, the oscillator's offset at root B, and the ageing fit. It rests on
the model's own: log entries 3 and 163 (DESIGN CHOICE), log entry 132 (DEDUCED). -/
def Obligations.SteeringAndAgeing : Prop := ∀ (s : State) (dt : Nat),
  let b := s.hall.elapse dt
  (∀ w, isRoot b.dxs.role = false → b.servoMode .dxs = true →
    Completes (.fwSwWrite dt w) dt [.clk .dxs, .regs .dxs, .root] s fun n =>
      (n.clk .dxs).fw48 = clampI (b.fwLim48 .dxs) (sx 32 w.toNat * 65536) ∧ n.reg .dxs Reg.TT_FW_SW = w ∧
        OtherRegs b n .dxs [regKey 0 Reg.TT_FW_SW] ∧ n.dxs.root = b.dxs.root) ∧
  (∀ w, isRoot b.dxs.role = true → b.servoMode .dxs = true → b.now < b.dxs.root.swLast + 1000000 →
    Completes (.fwSwWrite dt w) dt [.clk .dxs, .regs .dxs, .root] s fun n =>
      n.dxs.root.swWait = some (sx 32 w.toNat * 65536 + b.rf .dxs Reg.RF_FW_SW_EXT 15 0) ∧ n.clk .dxs = b.clk .dxs ∧
        n.dxs.root.swAt = n.now) ∧
  (∀ v, b.dxs.root.swWait = some v → b.dxs.root.swLast + 1000000 ≤ b.now →
    Completes (.fwSwPairDue dt) dt [.clk .dxs, .root] s fun n =>
      (n.clk .dxs).fw48 = clampI (b.fwLim48 .dxs) v ∧ n.dxs.root.swWait = none ∧ n.dxs.root.swLast = n.now) ∧
  (b.actingRoot = true → b.servoMode .dxs = true → b.dxs.root.swExpired = false →
    b.dxs.root.swAt + b.rf .dxs Reg.RF_SW_WDOG 15 0 * 1000000 ≤ b.now → (b.clk .dxs).lock = .locked →
    Completes (.swWatchdogExpire dt) dt [.clk .dxs, .regs .dxs, .root] s fun n =>
      n.dxs.root.swExpired = true ∧ (n.clk .dxs).lock = .overcast ∧ Counted b n .dxs Reg.TT_OVERCAST_CNT 0 1) ∧
  (∀ p, b.dxs.role = .rootB → b.dxs.root.onCross = true → b.refPort .dxs 0 = some p →
    Completes (.ocxoOfsGate dt () ()) dt [.regs .dxs, .convs .dxs, .root] s fun n =>
      let fit := regress 1000 (b.conv .dxs (portConv .dxs p)).reg
      (n.conv .dxs (portConv .dxs p)).reg = [] ∧ OtherRegs b n .dxs [regKey 0 Reg.RF_OCXO_OFS] ∧
        if fit.2 then n.dxs.root.ocxoOfs = fit.1 ∧ n.reg .dxs Reg.RF_OCXO_OFS = i32 (sat32 fit.1)
        else n.dxs.root = b.dxs.root ∧ n.reg .dxs Reg.RF_OCXO_OFS = b.reg .dxs Reg.RF_OCXO_OFS) ∧
  (∀ c1 tau res, b.actingRoot = true → (b.clk .dxs).lock = .locked → bestAge b.dxs.root.ageHist = some (c1, tau, res) →
    Completes (.ageFit dt () () () () ()) dt [.regs .dxs, .root] s fun n =>
      tau ∈ ageTaus ∧ n.reg .dxs Reg.RF_AGE_C1 = i32 (sat32 c1) ∧ n.reg .dxs Reg.RF_AGE_TAU = w32 tau ∧
        n.reg .dxs Reg.RF_AGE_T0 = w32 (ageOrigin b.dxs.root.ageHist) ∧ n.dxs.root.ageSpent = 0 ∧
        n.dxs.root.ageValid = (b.dxs.root.ageValid ||
          (b.dxs.root.ageHist.length ≥ ageMinSamples && decide (res ≤ ageRmsLimit)))) ∧
  (b.actingRoot = true → (b.clk .dxs).lock ≠ .overcast → ageLimit < b.dxs.root.ageSpent →
    Completes (.ageExpire dt) dt [.root] s fun n => n.dxs.root = { b.dxs.root with ageValid := false }) ∧
  (b.actingRoot = true → (b.clk .dxs).lock = .locked → b.sm.rdy = true → b.dxs.root.ageHist.length < ageSamples →
    Completes (.ageSample dt) dt [.root] s fun n =>
      n.dxs.root = { b.dxs.root with ageHist := b.dxs.root.ageHist ++ [(b.ht .dxs, (b.clk .dxs).fw48)] })

/-! ### Time outputs and measurements -/

/-- R120, R121, R128 to R131, R133 to R135, R139, R140: pulses, calibrations, tables, and the software measurements. It rests on the
model's own: log entries 3, 18, 160 and 164 (DESIGN CHOICE), log entry 53 (DEDUCED). -/
def Obligations.Measurements : Prop := ∀ (s : State) (dt : Nat) (sd : Side) (cv : Nat),
  let b := s.hall.elapse dt
  (∀ e, cv < nOuts sd → b.clk10At sd cv = false → b.outMode sd cv = 2 → (b.outp sd cv).level = false →
    (b.outp sd cv).next = some e → e ≤ b.ht sd → (b.clk sd).htValid = true →
    Completes (.outputEdge dt sd cv) dt [.regs sd, .outs sd] s fun n =>
      (n.outp sd cv).level = true ∧ (n.outp sd cv).edge = e ∧ (n.outp sd cv).next =
        (if b.outPeriod sd cv = 0 then none else some (e + b.outPeriod sd cv)) ∧
        Counted b n sd (toReg sd Reg.TO_EDGE_CNT) cv 1) ∧
  (∀ d1 d2, cv < nConvs sd → b.convOpen sd cv = false → b.edgeWithin sd cv 8 = false →
    Completes (.tdcCalibrate dt sd cv d1 d2) dt
      (Foot.sided sd [.regs .dxt, .ports .dxt, .convs .dxt, .raised .dxt, .lastCause]
        [.regs .dxs, .ports .dxs, .inbox .dxs, .convs .dxs, .raised .dxs]) s fun n =>
      (n.conv sd cv).d1 = d1 ∧ (n.conv sd cv).d2 = d2 ∧ (n.conv sd cv).calGood = calIsGood d1 d2 ∧
        (n.conv sd cv).calAt = n.now ∧ (n.conv sd cv).badRun = if calIsGood d1 d2 then 0 else (b.conv sd cv).badRun + 1) ∧
  (∀ (taps : List Nat) residual, cv < nConvs sd → b.burstOn sd cv = true → b.convOpen sd cv = false →
    b.edgeWithin sd cv 64 = false → taps.length ≤ burstShots → (b.conv sd cv).shots + taps.length ≤ tableHits →
    let hits := taps.foldl (fun h t => nupd hitsReset h (min t lastTap) fun n => n + 1) (b.conv sd cv).hits
    Completes (.linearityBurst dt sd cv false taps residual) dt [.regs sd, .convs sd] s fun n =>
      OtherRegs b n sd [] ∧
        if (b.conv sd cv).shots + taps.length = tableHits then
          (n.conv sd cv).lin = linTable hits ∧ (n.conv sd cv).linValid = true ∧ (n.conv sd cv).shots = 0 ∧
            (n.conv sd cv).hits = [] ∧ (n.conv sd cv).linAt = n.now ∧ (n.conv sd cv).linStale = false
        else n.conv sd cv = { b.conv sd cv with shots := (b.conv sd cv).shots + taps.length, hits := hits }) ∧
  (∀ code, cv < 4 → fld b.dxs.sw.ctrl 1 0 = cv → b.dxs.sw.st = .armed → startSrc b.dxs.sw.ctrl = 0 →
    b.convFree .dxs cv = true →
    Completes (.tdcEdge dt .dxs cv code 0) dt [.regs .dxs, .convs .dxs, .root, .meas, .free] s fun n =>
      n.dxs.sw.st = .running ∧
        n.dxs.sw.openAt = b.stampNow .dxs cv code ∧
        n.dxs.sw.edges = [⟨b.stampNow .dxs cv code, false, !b.stampOk .dxs cv⟩]) ∧
  (b.dxs.sw.st = .running → fld b.dxs.sw.ctrl 1 0 = cv → b.dxs.sw.windowEnd ≤ b.ht .dxs →
    Completes (.tdcWindowExpire dt .dxs cv) dt [.regs .dxs, .convs .dxs, .meas] s fun n =>
      n.dxs.sw.st = .done ∧ n.dxs.sw.seq = (b.dxs.sw.seq + 1) % 65536 ∧ n.dxs.sw.edges = b.dxs.sw.edges ∧
        Counted b n .dxs (tmBase .dxs + Reg.TM_CV_MEAS_CNT) cv 1) ∧
  (b.dxs.sw.fq.busy = true → fld b.dxs.sw.fqCtrl 1 0 = cv →
    b.dxs.sw.fqFrom + fld b.dxs.sw.fqCtrl 31 8 * 1000000 ≤ b.now →
    Completes (.freqGateEnd dt cv) dt [.convs .dxs, .meas] s fun n =>
      n.dxs.sw.fq = .done ∧ n.dxs.sw.fqSeq = b.dxs.sw.fqSeq + 1 ∧ n.dxs.sw.fqN = (b.conv .dxs cv).reg.length ∧
        (n.conv .dxs cv).reg = []) ∧
  (∀ w, Completes (.swGo dt w) dt [.regs .dxs, .meas] s fun n =>
    if b.dxs.sw.st.busy then n.dxs.sw = b.dxs.sw ∧ Counted b n .dxs (tmBase .dxs + Reg.TM_SW_BUSY_CNT) 0 1
    else n.dxs.sw.ctrl = b.reg .dxs (tmBase .dxs + Reg.TM_SW_CTRL) ∧ n.dxs.sw.edges = [] ∧
      n.dxs.sw.st = if fld (b.reg .dxs (tmBase .dxs + Reg.TM_SW_CTRL)) 5 4 = 0 ∧
        b.regHT .dxs (tmBase .dxs + Reg.TM_SW_START) 0 ≤ b.ht .dxs then .refused else .armed) ∧
  (∀ w, b.dxs.sw.fq.busy = false →
    Completes (.fqGo dt w) dt [.regs .dxs, .convs .dxs, .meas] s fun n =>
      n.dxs.sw.fq = .armed ∧ n.dxs.sw.fqFrom = n.now ∧
        (n.conv .dxs (fld (b.reg .dxs (tmBase .dxs + Reg.TM_FQ_CTRL)) 1 0)).reg = [])

/-! ### Die clocking -/

/-- R145, R146, R153, R154, R164, R324: the calibrations of the bring-up. Each that passes brings the die one state on; one that
fails leaves it FAILED. -/
def Sys2Proof.BringUpSteps : Prop := ∀ (s : State) (dt : Nat),
  let b := s.hall.elapse dt
  let fp : Foot := [.regs .dxt, .ports .dxt, .raised .dxt, .die, .lastCause]
  let treeFp : Foot := [.regs .dxt, .ports .dxt, .convs .dxt, .raised .dxt, .die, .lastCause, .free]
  (∀ bs, b.dxt.die.bring = .colophon →
    Completes (.colophonSample dt bs) dt fp s fun n =>
      n.reg .dxt Reg.DC_COL_SERIAL_LO = w32 (leAt bs 0 4) ∧ n.reg .dxt Reg.DC_COL_SERIAL_HI = w32 (leAt bs 4 4) ∧
        n.dxt.die.disabled = leAt bs 8 8 ∧
        n.dxt.die.colBad = !(colophonCrcOk bs && bits (leAt bs 17 1) 1 0 ≤ 1 &&
          disabledFits (bits (leAt bs 17 1) 1 0) (leAt bs 8 8)) ∧
        n.dxt.die.bring = (if n.dxt.die.colBad then .failed else .waitLock)) ∧
  (∀ (ref : List TreeTry) tries (c : Int) (laps : List Int), b.treeDue = true → (b.treeSum ref).1 = some c → laps.length = 64 →
    (∀ r, r < 64 → (b.treeSum (tries.getD r [])).1 = some (laps.getD r 0)) → (∀ l ∈ laps, treeDelay c l ≤ treeLimit) →
    Completes (.launchTreeCal dt ref tries) dt treeFp s fun n =>
      n.dxt.die = { b.dxt.die with ltDone := true, ltFail := false, bring := .xcal } ∧
        ∀ r, r < 64 →
          n.reg .dxt (tmBase .dxt + Reg.TM_LT_RESULT) r = w32 (bits (i32 (treeDelay c (laps.getD r 0))).toNat 23 0) ∧
          n.reg .dxt Reg.DC_R_TRIM r =
            w32 (bits (i32 (roundOpen (treeLimit - treeDelay c (laps.getD r 0)) 4000)).toNat 9 0)) ∧
  (∀ (ref : List TreeTry) tries r, b.treeDue = true → r < 64 →
    ((b.treeSum ref).1 = none ∨ (b.treeSum (tries.getD r [])).1 = none ∨
      ∃ c l, (b.treeSum ref).1 = some c ∧ (b.treeSum (tries.getD r [])).1 = some l ∧ treeLimit < treeDelay c l) →
    Completes (.launchTreeCal dt ref tries) dt treeFp s fun n => n.dxt.die.ltFail = true ∧ n.dxt.die.bring = .failed) ∧
  (∀ lams, b.dxt.die.bring = .xcal →
    Completes (.crossingCal dt lams) dt fp s fun n =>
      n.dxt.die.xcalFail = !(b.dxt.die.usedXings.all fun x => b.xPasses lams x) ∧
        n.dxt.die.bring = (if n.dxt.die.xcalFail then .failed else .ready) ∧
        ∀ x ∈ b.dxt.die.usedXings, (n.dxt.die.xing x).lambda = satU 4 ((lambdaOf lams x).getD 15) ∧
          (n.dxt.die.xing x).fail = !b.xPasses lams x)

/-- R154, R158, R324, R345: the overrides of an unbound die. A bound die refuses them, and so does a latency under 4 or a seam
code over 4. -/
def Sys2Proof.OverridePairs : Prop := ∀ (s : State) (dt : Nat) (g : GuardOpen) (w : Word),
  let b := s.hall.elapse dt
  (PairReady b .dxt Reg.DC_L_OVR g w →
    let v := pairValue .dxt Reg.DC_L_OVR g
    Completes (.lOverride dt (Reg.DC_L_OVR + 4) w) dt [.regs .dxt, .die] s fun n =>
      n.guard .dxt 6 = none ∧
        if b.bound = false ∧ 4 ≤ fld v 3 0 ∧ 4 ≤ fld v 7 4 ∧ 4 ≤ fld v 11 8 then
          n.reg .dxt Reg.DC_L_OVR = v ∧ n.dxt.die = b.dxt.die.recalibrate
        else n.reg .dxt Reg.DC_L_OVR = b.reg .dxt Reg.DC_L_OVR ∧ n.dxt.die = b.dxt.die ∧
          Counted b n .dxt Reg.CM_GUARD_FAIL_CNT 0 1 ∧
          n.reg .dxt Reg.CM_GUARD_ST = w32 (Guard.condition * 2 ^ 24 + Reg.DC_L_OVR)) ∧
  (PairReady b .dxt Reg.DC_SEAM_OVR g w →
    let v := pairValue .dxt Reg.DC_SEAM_OVR g
    Completes (.seamOverride dt (Reg.DC_SEAM_OVR + 4) w) dt [.regs .dxt] s fun n =>
      n.guard .dxt 6 = none ∧
        if b.bound = false ∧ (wbit v 3 = true → fld v 2 0 ≤ 4) then n.reg .dxt Reg.DC_SEAM_OVR = v
        else n.reg .dxt Reg.DC_SEAM_OVR = b.reg .dxt Reg.DC_SEAM_OVR ∧ Counted b n .dxt Reg.CM_GUARD_FAIL_CNT 0 1 ∧
          n.reg .dxt Reg.CM_GUARD_ST = w32 (Guard.condition * 2 ^ 24 + Reg.DC_SEAM_OVR))

/-- R145, R146, R153, R154, R158, R164, R324, R345: the calibrations of the bring-up, and the overrides of an unbound die. It rests
on the model's own: log entry 61 (DESIGN CHOICE), log entry 64 (DEDUCED). -/
def Obligations.BringUp : Prop := BringUpSteps ∧ OverridePairs

/-- R22, R143, R150, R175: a region stalls in a cycle whose crossing slot is missing, holds while an outbound FIFO is full, and
otherwise runs the cycle; it ends at its half's end cycle, and with the last region the folio's compute ends. It rests on the
model's own: log entry 63 (DEDUCED). -/
def Obligations.RegionCycles : Prop := ∀ (s : State) (dt r : Nat),
  let b := s.hall.elapse dt
  let x := b.region r
  let fp : Foot := [.regs .dxt, .ports .dxt, .raised .dxt, .die, .sync, .lastCause]
  b.dxt.die.clocked r = true → x.started = true → x.ended = false →
  (∀ stretch drop sends, x.cyc < b.endCycle r → x.waits = [] → (∀ i ∈ b.dxt.die.inbound r, b.missing x.cyc i = false) →
    (∀ o ∈ b.dxt.die.outbound r, (b.dxt.die.xing o).fifo.length < 16) →
    Completes (.regionCycle dt r stretch drop sends) dt fp s fun n =>
      (n.region r).cyc = x.cyc + 1 ∧ (n.region r).held = 0 ∧ (n.region r).ended = false ∧ OtherRegions b n r ∧
        n.dxt.sync = b.dxt.sync) ∧
  (∀ stretch drop sends i, x.cyc < b.endCycle r → (b.dxt.die.inbound r).find? (b.missing x.cyc) = some i →
    Completes (.regionCycle dt r stretch drop sends) dt fp s fun n =>
      (n.region r).cyc = x.cyc ∧ (n.region r).held = x.held + 1 ∧ n.dxt.die.xings = b.dxt.die.xings ∧
        Counted b n .dxt Reg.DC_R_STALL_CNT r 1 ∧ Counted b n .dxt Reg.DC_X_STALL_CNT i 1 ∧ OtherRegions b n r) ∧
  (∀ stretch drop sends o, x.cyc < b.endCycle r → (∀ i ∈ b.dxt.die.inbound r, b.missing x.cyc i = false) →
    o ∈ b.dxt.die.outbound r → 16 ≤ (b.dxt.die.xing o).fifo.length →
    Completes (.regionCycle dt r stretch drop sends) dt fp s fun n =>
      (n.region r).cyc = x.cyc ∧ (n.region r).held = x.held + 1 ∧ n.dxt.die.xings = b.dxt.die.xings ∧
        Counted b n .dxt Reg.DC_R_HOLD_CNT r 1 ∧ OtherRegions b n r) ∧
  (b.dxt.step.st = .running → b.endCycle r ≤ x.cyc →
    Completes (.regionEnd dt r) dt [.regs .dxt, .step, .die] s fun n =>
      n.region r = { x with ended := true } ∧ OtherRegions b n r ∧ StepWatched { b.dxt.step with st :=
        if (b.dxt.die.runningRegions.all fun i => i == r || (b.region i).ended) = true then .ended else .running } n.dxt.step)

/-- R38, R161, R162, R165: margins against their levels, and the voltage before and after a change of the operating point. It rests
on the model's own: log entry 65 (DEDUCED). -/
def Obligations.VoltageAndMargins : Prop := ∀ (s : State) (dt : Nat),
  let b := s.hall.elapse dt
  (∀ r c0 c1 c2 c3, b.dxt.die.clocked r = true →
    Completes (.marginMeasure dt r c0 c1 c2 c3) dt [.regs .dxt, .ports .dxt, .raised .dxt, .die, .lastCause] s fun n =>
      (n.region r).margins = [min c0 63, min c1 63, min c2 63, min c3 63] ∧
        (n.region r).low = [min c0 63, min c1 63, min c2 63, min c3 63].foldl min (b.region r).low ∧
        ((n.region r).warn = true ↔ ∃ c ∈ (n.region r).margins, c < b.rf .dxt Reg.DC_MARGIN_CFG 5 0) ∧
        ((n.region r).crit = true → (b.region r).crit = false → n.dxt.lastCause = Cause.marginCrit) ∧
        Counted b n .dxt Reg.DC_MARGIN_WARN_CNT 0 (if (n.region r).warn && !(b.region r).warn then 1 else 0) ∧
        OtherRegions b n r) ∧
  (Completes (.voltageAck dt) dt [.regs .dxt, .step, .die] s fun n =>
    n.dxt.die.vreq = none ∧ n.dxt.die.opp = b.dxt.die.opp ∧ n.dxt.die.regions = b.dxt.die.regions ∧
      if b.dxt.die.retargetDue = true then
        n.dxt.die.target = b.dxt.die.opp ∧ n.dxt.die.relockFrom = some n.now ∧ n.dxt.die.retargetDue = false
      else n.dxt.die.target = b.dxt.die.target ∧ n.dxt.die.relockFrom = b.dxt.die.relockFrom) ∧
  (∀ t, b.dxt.die.relockFrom = some t → b.dxt.die.retargetDue = false →
    Completes (.relockComplete dt) dt [.regs .dxt, .die] s fun n =>
      n.dxt.die.relockFrom = none ∧ n.dxt.die.target = b.dxt.die.target ∧
        n.reg .dxt Reg.DC_RELOCK_MAX = w32 (max (b.reg .dxt Reg.DC_RELOCK_MAX).toNat (satU 16 (b.now - t))) ∧
        n.dxt.die.vreq = if b.oppVolt b.dxt.die.target < b.dxt.die.vcode then some (b.oppVolt b.dxt.die.target, b.now, false)
          else b.dxt.die.vreq) ∧
  (∀ code t, b.dxt.die.vreq = some (code, t, true) → t + 100000 ≤ b.now → b.dxt.die.vreqLate = false →
    Completes (.vreqTimeout dt) dt [.regs .dxt, .ports .dxt, .raised .dxt, .die, .lastCause] s fun n =>
      n.dxt.die = { b.dxt.die with vreqLate := true } ∧ n.dxt.lastCause = 0x1B ∧
        Counted b n .dxt Reg.DXT_FQ_FAULT_CNT 0 1)

/-! ### The life of a folio at a die -/

/-- R20, R21, R160: a GO of the bound job in its time arms the launch; a second copy is counted; one of another number or too late
leaves the launch withheld; and so does one whose step descriptor does not fit. It rests on the model's own: log entries 66 and 131
(DEDUCED). -/
def Obligations.GoAtDie : Prop := ∀ (s : State) (dt : Nat) (r : RxMark) (rest : List RxMark),
  let b := s.hall.elapse dt
  let k := b.dxt.step.next
  let sn := expandTag ((k : Int) - 1) r.mark.tag
  let go := expandStamp (b.ht .dxt) r.mark.stamp
  let fp : Foot := [.regs .dxt, .ports .dxt, .inbox .dxt, .raised .dxt, .step, .die, .lastCause]
  InboxHead b .dxt .go r rest → b.bound = true → bits r.mark.obj.toNat 7 0 = b.dxt.step.job →
  (sn = k → b.dxt.step.st ≠ .armed → b.dxt.step.refused = false → (b.clk .dxt).htValid = true →
    b.ht .dxt + b.armingMargin k * 65536 ≤ go → b.checkDesc k = .ok →
    Completes (.goReceive dt) dt fp s fun n =>
      n.dxt.step = { b.dxt.step with st := .armed, go := go, withheld := false } ∧ n.dxt.node.inbox = rest ∧
        n.reg .dxt Reg.STEP_GO = htWord go 0 ∧ n.reg .dxt (Reg.STEP_GO + 4) = htWord go 1 ∧
        n.reg .dxt (Reg.STEP_GO + 8) = htWord go 2) ∧
  (sn < k ∨ sn = k ∧ (b.dxt.step.st = .armed ∨ b.dxt.step.refused = true) →
    Completes (.goReceive dt) dt fp s fun n =>
      n.dxt.step = b.dxt.step ∧ n.dxt.node.inbox = rest ∧ n.dxt.die = b.dxt.die ∧
        Counted b n .dxt Reg.STEP_GO_DUP_CNT 0 1) ∧
  (k < sn → (b.clk .dxt).htValid = true →
    Completes (.goReceive dt) dt fp s fun n =>
      n.dxt.step = { b.dxt.step with withheld := true } ∧ n.dxt.lastCause = Cause.goSeq) ∧
  (sn = k → b.dxt.step.st ≠ .armed → b.dxt.step.refused = false → (b.clk .dxt).htValid = true →
    go < b.ht .dxt + b.armingMargin k * 65536 →
    Completes (.goReceive dt) dt fp s fun n =>
      n.dxt.step = { b.dxt.step with withheld := true, refused := true } ∧ n.dxt.lastCause = Cause.goLate ∧
        Counted b n .dxt Reg.STEP_GO_LATE_CNT 0 1) ∧
  (sn = k → b.dxt.step.st ≠ .armed → b.dxt.step.refused = false → (b.clk .dxt).htValid = true →
    b.ht .dxt + b.armingMargin k * 65536 ≤ go → b.checkDesc k ≠ .ok →
    Completes (.goReceive dt) dt fp s fun n =>
      n.dxt.step = { b.dxt.step with withheld := true, refused := true } ∧ n.dxt.lastCause = (b.checkDesc k).cause ∧
        n.reg .dxt Reg.DC_REFUSE = w32 (k % 65536 * 65536 + (b.checkDesc k).code) ∧
        Counted b n .dxt Reg.DC_WITHHOLD_CNT 0 1)

/-- R19, R151, R155, R160 to R162, R173: at the armed time the launch fires, every running region starts at cycle 0 with empty
crossings and the folio's slots cleared; a die that has not relocked, or whose seam state is another than at arming, does not
launch. It rests on the model's own: log entry 64
(DEDUCED). -/
def Obligations.Launch : Prop := ∀ (s : State) (dt : Nat),
  let b := s.hall.elapse dt
  let k := b.dxt.step.next
  let fp : Foot := [.regs .dxt, .ports .dxt, .dma .dxt, .raised .dxt, .step, .die, .sync, .binds, .syncAudit, .lastCause,
    .ckSeen]
  b.dxt.step.st = .armed → b.dxt.step.go ≤ b.ht .dxt →
  (b.dxt.die.relockFrom = none → b.dxt.die.atLaunch = [] → b.compiledSeam = b.oppSeamAt k (b.oppAt k) →
    Completes (.launch dt) dt fp s fun n =>
      n.dxt.step.st = .running ∧ n.dxt.step.next = k + 1 ∧ n.dxt.step.withheld = false ∧ n.dxt.step.reported = false ∧
        n.dxt.step.job = b.dxt.step.job ∧ n.dxt.step.list = b.dxt.step.list ∧
        n.dxt.step.recs = (b.dxt.step.recs.filter fun r => k < r.folio) ∧
        n.dxt.die.opp = b.oppAt k ∧ n.dxt.die.seam = b.oppSeam (b.oppAt k) ∧
        (∀ x, (n.dxt.die.xing x).fifo = []) ∧
        (∀ r, r < 64 → b.dxt.die.isDisabled r = false → parks (b.oppSeam (b.oppAt k)) (halfOf r) = false →
          (n.region r).cyc = 0 ∧ (n.region r).started = true ∧ (n.region r).ended = false ∧ (n.region r).waits = []) ∧
        ((∀ r ∈ b.dxt.step.recs, r.rtype ≠ 3) → ∀ o, objKind b o ≠ 4 → n.syncSlot o k = SyncSlot.reset) ∧
        n.reg .dxt Reg.STEP_SN_LO = w32 k ∧ n.reg .dxt Reg.STEP_SN_HI = w32 (k / 2 ^ 32) ∧
        Counted b n .dxt Reg.STEP_LAUNCH_CNT 0 1) ∧
  (b.dxt.die.relockFrom.isSome = true →
    Completes (.launch dt) dt fp s fun n =>
      n.dxt.step = { b.dxt.step with st := .idle, withheld := true, refused := true } ∧ n.dxt.die = b.dxt.die ∧
        n.reg .dxt Reg.DC_REFUSE = w32 (k % 65536 * 65536 + 7) ∧ Counted b n .dxt Reg.DC_WITHHOLD_CNT 0 1 ∧
        n.dxt.lastCause = 0x1A) ∧
  (b.dxt.die.relockFrom = none → b.compiledSeam ≠ b.oppSeamAt k (b.oppAt k) →
    Completes (.launch dt) dt fp s fun n =>
      n.dxt.step = { b.dxt.step with st := .idle, withheld := true, refused := true } ∧ n.dxt.die = b.dxt.die ∧
        n.reg .dxt Reg.DC_REFUSE = w32 (k % 65536 * 65536 + DescCheck.seam.code) ∧
        Counted b n .dxt Reg.DC_WITHHOLD_CNT 0 1 ∧ n.dxt.lastCause = DescCheck.seam.cause)

/-- R22, R34, R38, R162, R178: DONE goes out on both ports, with the time at which its last condition became true, once the compute
has ended, the list of the folio before is applied, its endpoints are done, no voltage is awaited and the report has been sent; a held
operating point retargets the die then. It rests on the model's own: log entry 68 (DEDUCED). -/
def Obligations.Done : Prop := ∀ (s : State) (dt : Nat),
  let b := s.hall.elapse dt
  let c := b.dxt.step
  let ends := c.next < 2 ∨ b.endpointsDone c.next = true
  let t := c.doneAt.getD (b.ht .dxt)
  let fp : Foot := [.regs .dxt, .ports .dxt, .step, .die]
  c.st = .ended →
  (c.next ≤ c.list → ends → b.voltPending = false → (b.usesSess = true → c.reported = true) →
    Completes (.doneSend dt) dt fp s fun n =>
      n.dxt.step = { c with st := .doneSent, ran := true, doneAt := some t } ∧
        (∀ p, p < 2 → MarkQueued b n .dxt p (mkMark .done c.job b.curTag t 1)) ∧
        n.reg .dxt Reg.STEP_DONE = htWord t 0 ∧ n.dxt.die = match b.nextOpp with
          | some e => { b.dxt.die with target := e, targetSeam := b.oppSeam e, relockFrom := some b.now }
          | none => b.dxt.die) ∧
  (c.list < c.next →
    Completes (.doneSend dt) dt fp s fun n =>
      n.dxt.step.st = .ended ∧ n.dxt.step.holdSeen = true ∧ n.dxt.die = b.dxt.die ∧
        n.dxt.node.ports = b.dxt.node.ports ∧ Counted b n .dxt Reg.STEP_HOLD_CNT 0 (if c.holdSeen then 0 else 1)) ∧
  (c.next ≤ c.list → ¬ ends →
    Completes (.doneSend dt) dt fp s fun n =>
      n.dxt.step.st = .ended ∧ n.dxt.step.endptSeen = true ∧ n.dxt.die = b.dxt.die ∧
        Counted b n .dxt Reg.SY_ENDPT_HOLD_CNT 0 (if c.endptSeen then 0 else 1))

/-- R33, R37, R38, R163, R229, R249, R256, R257, R260: what else reaches a die in a folio, and its report. The SRAM of the die
changes in a commit list's slot and in the kill-mask entries that it names, and nowhere else. It rests on the model's own: log
entries 67, 69 and 70 (DEDUCED), log entry 170 (DESIGN CHOICE). -/
def Obligations.ListsReportsKills : Prop := ∀ (s : State) (dt : Nat),
  let b := s.hall.elapse dt
  let c := b.dxt.step
  (∀ m b', b.takeMessage .dxt tCommit = some (m, b') → b.bound = true → m.obj = c.job →
    m.tag = (c.list + 65535) % 65536 → b.chanAble .dxt 0 = true →
    let size := b.rf .dxt Reg.DXT_SS_COMMIT_CFG 22 0
    let base := (b.reg .dxt Reg.DXT_SS_COMMIT_BASE).toNat + (c.list + 1) % 2 * size
    let entry := fun i => slice m.bytes (16 + 16 * i) 16
    Completes (.commitListReceive dt) dt
      [.regs .dxt, .ports .dxt, .sheets .dxt, .dma .dxt, .raised .dxt, .sram .dxt, .step, .sync, .binds, .lastCause] s fun n =>
      n.dxt.step.list = c.list + 1 ∧ n.dxt.step.st = c.st ∧ n.dxt.step.next = c.next ∧
        Counted b n .dxt Reg.DXT_SS_COMMIT_ENT_CNT 0 (leAt m.bytes 4 4) ∧
        Counted b n .dxt Reg.DXT_SS_COMMIT_LEN_CNT 0 (if size < m.bytes.length then 1 else 0) ∧
        ∀ a, (a < base ∨ base + min size m.bytes.length ≤ a) →
          (∀ i, i < leAt m.bytes 4 4 → leAt (entry i) 4 1 = 1 →
            a < killAddr b (leAt (entry i) 0 4 % 2 ^ 18) ∨ killAddr b (leAt (entry i) 0 4 % 2 ^ 18) + 4 ≤ a) →
          memRead n.dxt.sram a = memRead b.dxt.sram a) ∧
  (∀ r rest, InboxHead b .dxt .oppoint r rest → b.bound = true → bits r.mark.obj.toNat 7 0 = c.job →
    (c.next : Int) ≤ expandTag ((c.next : Int) - 1) r.mark.tag →
    Completes (.oppointReceive dt) dt [.regs .dxt, .ports .dxt, .inbox .dxt, .raised .dxt, .step, .die, .lastCause] s fun n =>
      StepWatched { c with
        opp := some ((expandTag ((c.next : Int) - 1) r.mark.tag).toNat, bits r.mark.arg.toNat 3 0) } n.dxt.step ∧
        n.dxt.node.inbox = rest ∧ n.dxt.die.opp = b.dxt.die.opp ∧ n.dxt.die.target = b.dxt.die.target) ∧
  (c.st = .ended → c.reported = false → b.usesSess = true → b.chanAble .dxt 0 = true →
    let a := (b.reg .dxt Reg.DXT_SS_REPORT_BASE).toNat + (c.next - 1) % 2 * 524288
    let cnt := min (ofLe (b.sramRead a 4)) (b.rf .dxt Reg.DXT_SS_REPORT_CFG 15 0)
    Completes (.reportSend dt) dt [.regs .dxt, .ports .dxt, .dma .dxt, .raised .dxt, .step, .lastCause] s fun n =>
      StepWatched { c with reported := true } n.dxt.step ∧ Counted b n .dxt Reg.DXT_SS_REPORT_ENT_CNT 0 cnt ∧
        ∀ p, p < 2 → SheetsQueued b n .dxt p (reportSheets c.job ((c.next - 1) % 65536)
          (reportEntries (b.sramRead (a + 4) (8 * cnt)) (b.rf .dxt Reg.FP_DIE 15 0) cnt))) ∧
  (∀ r rest, InboxHead b .dxt .kill r rest →
    let handle := r.mark.obj.toNat * 65536 + r.mark.arg.toNat
    let v := versionOf (handle / 2 ^ 18) r.mark.tag.toNat
    let e := b.killEntry (handle % 2 ^ 18)
    Completes (.killReceive dt) dt
      [.regs .dxt, .ports .dxt, .inbox .dxt, .raised .dxt, .sram .dxt, .sync, .binds, .lastCause, .kills] s fun n =>
      n.dxt.node.inbox = rest ∧
        if b.dxt.kills.any (fun k => k.1 != r.port && k.2 == (handle, r.mark.tag.toNat)) = true then
          n.dxt.sram = b.dxt.sram ∧ OtherRegs b n .dxt []
        else
        (e % 2 ^ 30 = v ∨ newerVersion v (e % 2 ^ 30) = true →
          n.killEntry (handle % 2 ^ 18) % 2 ^ 30 = v ∧ n.killEntry (handle % 2 ^ 18) / 2 ^ 31 = 1) ∧
        (¬(e % 2 ^ 30 = v ∨ newerVersion v (e % 2 ^ 30) = true) →
          n.dxt.sram = b.dxt.sram ∧ Counted b n .dxt Reg.DXT_SS_KILL_OLD_CNT 0 1) ∧
        ∀ a, a < killAddr b (handle % 2 ^ 18) ∨ killAddr b (handle % 2 ^ 18) + 4 ≤ a →
          memRead n.dxt.sram a = memRead b.dxt.sram a)

/-! ### Sync objects and fold bindings -/

/-- R173 to R177: arrivals count in the running folio's slot, an endpoint that reaches TARGET sends its mark once on both ports,
waits hold a region until their object is done, and the first COMPLETE of a slot gives it its outcome. -/
def Obligations.SyncObjects : Prop := ∀ (s : State) (dt : Nat),
  let b := s.hall.elapse dt
  (∀ obj inc, obj < 16384 →
    let k := if inc % 256 = 0 then 1 else inc % 256
    let v := b.syncSlot obj b.curSlot
    Completes (.syncArrive dt obj inc) dt [.regs .dxt, .ports .dxt, .raised .dxt, .sync, .binds, .lastCause] s fun n =>
      Counted b n .dxt Reg.SY_ARRIVE_CNT 0 1 ∧
        (objKind b obj = 1 → (n.syncSlot obj b.curSlot).count = min (v.count + k) 65535) ∧
        (objKind b obj = 2 ∨ objKind b obj = 3 →
          (n.syncSlot obj b.curSlot).count = min (v.count + k) (objTarget b obj) ∧ (n.syncSlot obj b.curSlot).used = true ∧
          (objTarget b obj < v.count + k → Counted b n .dxt Reg.SY_OVERRUN_CNT 0 1)) ∧
        (objKind b obj = 3 → v.sent = false → v.count + k = objTarget b obj →
          (n.syncSlot obj b.curSlot).sent = true ∧ Counted b n .dxt Reg.SY_SENT_CNT 0 1 ∧
          (∀ f, b.bindingOf obj = some f → (n.bindSlot f b.curSlot).reading = true) ∧
          ∀ p, p < 2 → MarkQueued b n .dxt p (mkMark (if wbit (b.reg .dxt Reg.SY_OBJ_CFG obj) 4 then .count else .arrive)
            (b.rf .dxt Reg.SY_OBJ_GID 15 0 obj) b.curTag (b.ht .dxt) 1)) ∧
        (objKind b obj = 4 → (n.syncSlot obj 0).count = min ((b.syncSlot obj 0).count + k) 65535) ∧
        (objKind b obj = 0 → n.dxt.sync = b.dxt.sync ∧ Counted b n .dxt Reg.SY_BAD_CNT 0 1)) ∧
  (∀ w r, b.dxt.die.physical (fld w 21 16) = some r → 1 ≤ objKind b (fld w 13 0) → objKind b (fld w 13 0) ≤ 4 →
    Completes (.syncWait dt w) dt [.regs .dxt, .ports .dxt, .raised .dxt, .die, .lastCause] s fun n =>
      n.region r = { b.region r with waits := (b.region r).waits ++
        [⟨fld w 13 0, if wbit w 22 then (b.curSlot + 1) % 2 else b.curSlot, (b.region r).cyc - 1, false⟩] } ∧
        OtherRegions b n r) ∧
  (∀ lr r w, b.dxt.die.physical lr = some r →
    ((b.region r).waits.find? fun w => w.held && b.objDone w.obj w.slot) = some w →
    Completes (.waitRelease dt lr) dt [.die, .sync] s fun n =>
      (n.region r).waits = (b.region r).waits.erase w ∧ (n.region r).cyc = (b.region r).cyc ∧ OtherRegions b n r ∧
        if objKind b w.obj = 4 then (n.syncSlot w.obj 0).count = (b.syncSlot w.obj 0).count - objTarget b w.obj
        else n.dxt.sync = b.dxt.sync) ∧
  (∀ r rest, InboxHead b .dxt .complete r rest →
    Completes (.completeReceive dt) dt [.regs .dxt, .inbox .dxt, .step, .sync, .binds] s fun n =>
      n.dxt.node.inbox = rest ∧
        (b.endpoints r.mark.obj.toNat = [] → n.dxt.sync = b.dxt.sync ∧ Counted b n .dxt Reg.SY_NOEP_CNT 0 1) ∧
        ∀ k, b.liveFolio r.mark.tag = some k → ∀ o ∈ b.endpoints r.mark.obj.toNat,
          (n.syncSlot o k).outcome = (if b.hasComplete o k then (b.syncSlot o k).outcome else bits r.mark.arg.toNat 3 0) ∧
          (b.hasComplete o k = false → b.bindingOf o = none → (n.syncSlot o k).done = true))

/-- R201, R207, R208: a contribution goes out on both ports in sheets of 228 bytes; a result sheet is written at its offset, once,
and nowhere else; and the slot is done when its COMPLETE and the whole acknowledged result are there. -/
def Obligations.FoldBindings : Prop := ∀ (s : State) (dt : Nat),
  let b := s.hall.elapse dt
  (∀ f sl, b.chanAble .dxt (b.rf .dxt Reg.DXT_FD_B_CFG 18 16 f) = true → b.readingSlot f = some sl →
    Completes (.foldLeafReadDone dt f) dt
      [.regs .dxt, .ports .dxt, .dma .dxt, .raised .dxt, .sync, .binds, .lastCause] s fun n =>
      Counted b n .dxt Reg.DXT_FD_SENT_CNT 0 1 ∧ (n.bindSlot f sl).sent = true ∧
        (wbit (b.reg .dxt Reg.DXT_FD_B_EVT f) 31 = false → (n.bindSlot f sl).reading = false ∧ n.dxt.sync = b.dxt.sync) ∧
        ∀ p, p < 2 → SheetsQueued b n .dxt p (foldSheets tFoldIn
          (b.rf .dxt Reg.SY_OBJ_GID 15 0 (b.rf .dxt Reg.DXT_FD_B_CFG 13 0 f)) (b.slotFolio sl % 65536) 0 0 formLeaf
          (b.sramRead ((b.reg .dxt Reg.DXT_FD_B_SRC f).toNat + sl * (b.reg .dxt Reg.DXT_FD_B_STRIDE f).toNat)
            (b.rf .dxt Reg.DXT_FD_B_LEN 18 0 f)))) ∧
  (∀ r b' f k, b.takeSheet .dxt tFoldOut = some (r, b') → b.bindingOfGid r.sheet.obj = some f →
    b.liveFolio (BitVec.ofNat 16 r.sheet.tag) = some k → b.chanAble .dxt (b.rf .dxt Reg.DXT_FD_B_CFG 18 16 f) = true →
    let p := foldPiece r.sheet
    let part := p.data.take (b.rf .dxt Reg.DXT_FD_B_RLEN 20 0 f - p.ofs)
    let a := (b.reg .dxt Reg.DXT_FD_B_DST f).toNat + k % 2 * (b.reg .dxt Reg.DXT_FD_B_STRIDE f).toNat + p.ofs
    Completes (.foldOutReceive dt) dt
      [.regs .dxt, .ports .dxt, .sheets .dxt, .dma .dxt, .raised .dxt, .sram .dxt, .binds, .lastCause] s fun n =>
      (∀ x, x < a ∨ a + part.length ≤ x → memRead n.dxt.sram x = memRead b.dxt.sram x) ∧
        if (b.bindSlot f k).got.contains p.ofs then n.dxt.sram = b.dxt.sram ∧ Counted b n .dxt Reg.DXT_FD_DUP_CNT 0 1
        else n.sramRead a part.length = part ∧ (n.bindSlot f k).got = (b.bindSlot f k).got ++ [p.ofs] ∧
          (n.bindSlot f k).bytes = (b.bindSlot f k).bytes + part.length) ∧
  (∀ f sl, 0 < b.rf .dxt Reg.DXT_FD_B_RLEN 20 0 f → b.rf .dxt Reg.DXT_FD_B_RLEN 20 0 f ≤ (b.bindSlot f sl).bytes →
    (b.bindSlot f sl).acked = false →
    Completes (.foldResultAck dt f sl) dt [.regs .dxt, .step, .sync, .binds] s fun n =>
      (n.bindSlot f sl).acked = true ∧ Counted b n .dxt Reg.DXT_FD_RES_CNT 0 1 ∧
        ((b.bindSlot f sl).complete = false → n.dxt.sync = b.dxt.sync) ∧
        ((b.bindSlot f sl).complete = true → b.bindingOf (b.rf .dxt Reg.DXT_FD_B_CFG 13 0 f) = some f →
          (n.syncSlot (b.rf .dxt Reg.DXT_FD_B_CFG 13 0 f) sl).done = true))

/-! ### Gatherings -/

/-- R22, R23, R171, R179, R180, R182, R187: arrivals at a tier node. They add into their instance; the node sends its aggregate up
once every arrival beneath it is there; and a COMPLETE takes what has not left with it. It rests on the model's own: log entries 86
and 88 (DEDUCED). -/
def Obligations.TierArrivals : Prop := ∀ (s : State) (dt : Nat) (r : RxMark) (rest : List RxMark),
  let b := s.hall.elapse dt
  let k := r.mark.arg.toNat
  let st := expandStamp (b.ht .dxs) r.mark.stamp
  let fp : Foot := [.regs .dxs, .ports .dxs, .inbox .dxs, .raised .dxs, .instances, .gaOver]
  isRoot b.dxs.role = false →
  (∀ j sn, InboxHead b .dxs .done r rest → j = bits r.mark.obj.toNat 7 0 →
    placeArrival (nget pairReset b.hub.dones j) (expandTag (b.job j).sn r.mark.tag) = .at_ sn →
    let o := (b.done j sn).openAt sn
    let go := !o.fwd && o.recv + k == b.jobUnder j && b.reportsSent j sn
    Completes (.doneAggregate dt) dt [.regs .dxs, .ports .dxs, .inbox .dxs, .dones, .jobs] s fun n =>
      n.dxs.node.inbox = rest ∧ (n.done j sn).recv = o.recv + k ∧ (n.done j sn).stamp = max o.stamp st ∧
        (n.done j sn).fwd = (o.fwd || go) ∧
        (go = true → ∀ p, b.upPortOf = some p →
          MarkQueued b n .dxs p (arrivalMark .done j sn (o.recv + k) (max o.stamp st)))) ∧
  (∀ g sn, InboxHead b .dxs .arrive r rest → g = r.mark.obj.toNat → b.gaValid g = true → b.wrongStream g r.port true = false →
    b.gaKind g = 0 → placeArrival (nget pairReset b.hub.ga g) (expandTag (b.job (b.gaJob g)).sn r.mark.tag) = .at_ sn →
    let o := (b.inst g sn).openAt sn
    let go := !o.fwd && o.recv + k == b.gaExpect g && o.recv + k != 0
    o.outcome = 0 →
    Completes (.arriveReceive dt) dt fp s fun n =>
      n.dxs.node.inbox = rest ∧ (n.inst g sn).recv = o.recv + k ∧ (n.inst g sn).stamp = max o.stamp st ∧
        (n.inst g sn).fwd = (o.fwd || go) ∧
        (go = true → ∀ p, b.upPortOf = some p →
          MarkQueued b n .dxs p (arrivalMark .arrive g sn (o.recv + k) (max o.stamp st)))) ∧
  (∀ g sn p, InboxHead b .dxs .count r rest → g = r.mark.obj.toNat → b.gaValid g = true → b.wrongStream g r.port false = false →
    b.gaKind g = 1 ∨ b.gaKind g = 2 →
    placeArrival (nget pairReset b.hub.ga g) (expandTag (b.job (b.gaJob g)).sn r.mark.tag) = .at_ sn →
    b.upPortOf = some p →
    let o := (b.inst g sn).openAt sn
    let m := arrivalMark .count g sn k st
    o.outcome = 0 →
    Completes (.countReceive dt) dt fp s fun n =>
      (n.inst g sn).recv = o.recv + k ∧ (n.inst g sn).sent = o.sent + k ∧
        match coalesce (b.ht .dxs) m (b.port .dxs p).tx.q1 with
        | some q => (n.port .dxs p).tx.q1 = q
        | none => MarkQueued b n .dxs p m) ∧
  (InboxHead b .dxs .complete r rest →
    let g := r.mark.obj.toNat
    let sn := (expandTag (b.job (b.gaJob g)).sn r.mark.tag).toNat
    let o := (b.inst g sn).openAt sn
    let h := o.held + sumN (o.waiting.map Prod.fst)
    Completes (.completeForward dt) dt [.regs .dxs, .ports .dxs, .inbox .dxs, .instances] s fun n =>
      n.dxs.node.inbox = rest ∧ (n.inst g sn).outcome = bits r.mark.arg.toNat 3 0 ∧ (n.inst g sn).held = 0 ∧
        (n.inst g sn).waiting = [] ∧ (n.inst g sn).sent = o.sent + h ∧ (n.inst g sn).recv = o.recv ∧
        (∀ p ∈ b.jobPorts (b.gaJob g), b.upPortOf ≠ some p → MarkQueued b n .dxs p r.mark) ∧
        ∀ p, b.upPortOf = some p → p ∉ b.jobPorts (b.gaJob g) → 0 < h →
          let m := arrivalMark (if b.arriveStream g then .arrive else .count) g sn h o.stamp
          match (if b.arriveStream g then none else coalesce (b.ht .dxs) m (b.port .dxs p).tx.q1) with
          | some q => (n.port .dxs p).tx.q1 = q
          | none => MarkQueued b n .dxs p m)

/-- R171, R176, R187: an arrival with no record, of a folio that is gone, of one too far ahead or in the wrong stream is counted and
makes no instance. It rests on the model's own: log entry 86 (DEDUCED). -/
def Obligations.StrayArrivals : Prop := ∀ (s : State) (dt : Nat) (r : RxMark) (rest : List RxMark),
  let b := s.hall.elapse dt
  let g := r.mark.obj.toNat
  let fp : Foot := [.regs .dxs, .ports .dxs, .inbox .dxs, .raised .dxs, .instances, .gaOver]
  let put := placeArrival (nget pairReset b.hub.ga g) (expandTag (b.job (b.gaJob g)).sn r.mark.tag)
  InboxHead b .dxs .arrive r rest →
  (b.gaValid g = false →
    Completes (.arriveReceive dt) dt fp s fun n =>
      n.dxs.hub.ga = b.dxs.hub.ga ∧ n.dxs.node.inbox = rest ∧ Counted b n .dxs Reg.GA_NOREC_CNT 0 1) ∧
  (b.gaValid g = true → b.wrongStream g r.port true = true →
    Completes (.arriveReceive dt) dt fp s fun n =>
      n.dxs.hub.ga = b.dxs.hub.ga ∧ Counted b n .dxs Reg.GA_KIND_CNT 0 1) ∧
  (b.gaValid g = true → b.wrongStream g r.port true = false → (b.job (b.gaJob g)).stopped = false → put = .stale →
    Completes (.arriveReceive dt) dt fp s fun n =>
      n.dxs.hub.ga = b.dxs.hub.ga ∧ n.dxs.node.inbox = rest ∧ Counted b n .dxs Reg.GA_STALE_CNT 0 1) ∧
  (b.gaValid g = true → b.wrongStream g r.port true = false → (b.job (b.gaJob g)).stopped = false → put = .ahead →
    Completes (.arriveReceive dt) dt fp s fun n =>
      n.dxs.hub.ga = b.dxs.hub.ga ∧ Counted b n .dxs Reg.GA_SEQ_CNT 0 1)

/-- R23, R183 to R186: arrivals at a root add into the total of the tree they come from; those after the decision are counted; the
acting root decides once, as soon as the totals meet the record, and expires a TIMED instance after its settle window. It rests on
the model's own: log entry 119 (DEDUCED). -/
def Obligations.RootDecides : Prop := ∀ (s : State) (dt : Nat),
  let b := s.hall.elapse dt
  isRoot b.dxs.role = true →
  (∀ r rest j sn, InboxHead b .dxs .done r rest → j = bits r.mark.obj.toNat 7 0 → (b.job j).stopped = false →
    placeArrival (nget pairReset b.hub.dones j) (expandTag (b.job j).sn r.mark.tag) = .at_ sn →
    let o := (b.done j sn).openAt sn
    let k := r.mark.arg.toNat
    Completes (.doneAggregate dt) dt [.regs .dxs, .ports .dxs, .inbox .dxs, .dones, .jobs] s fun n =>
      n.dxs.node.inbox = rest ∧ (n.done j sn).recv = (if b.fromA r.port then o.recv + k else o.recv) ∧
        (n.done j sn).recvB = (if b.fromA r.port then o.recvB else o.recvB + k)) ∧
  (∀ r rest g sn, InboxHead b .dxs .arrive r rest → g = r.mark.obj.toNat → b.gaValid g = true →
    b.wrongStream g r.port true = false → (b.job (b.gaJob g)).stopped = false → b.gaKind g = 0 →
    placeArrival (nget pairReset b.hub.ga g) (expandTag (b.job (b.gaJob g)).sn r.mark.tag) = .at_ sn →
    let o := (b.inst g sn).openAt sn
    let k := r.mark.arg.toNat
    let total := (if b.fromA r.port then o.recv else o.recvB) + k
    Completes (.arriveReceive dt) dt [.regs .dxs, .ports .dxs, .inbox .dxs, .raised .dxs, .instances, .gaOver] s fun n =>
      (n.inst g sn).recv + (n.inst g sn).recvB = o.recv + o.recvB + k ∧ (n.inst g sn).outcome = o.outcome ∧
        Counted b n .dxs Reg.GA_LATE_ARR_CNT 0 (if o.outcome = 0 then 0 else 1) ∧
        (n.inst g sn).due = if o.due = 0 ∧ o.outcome = 0 ∧ b.gaN g ≤ total then outComplete else o.due) ∧
  (∀ g slot, b.actingRoot = true → b.gaValid g = true → b.gaKind g = 0 → (b.job (b.gaJob g)).stopped = false →
    let i := b.inst g slot
    i.live = true → i.outcome = 0 → i.due ≠ 0 → i.sn % 2 = slot % 2 → b.gathReads g = false →
    Completes (.gatherDecide dt g slot) dt
      [.regs .dxs, .ports .dxs, .sheets .dxs, .dma .dxs, .instances, .jobs, .path, .sess, .quorum, .binder, .host] s fun n =>
      (n.inst g slot).outcome = i.due ∧ (n.inst g slot).dstamp = i.dstamp ∧ (n.inst g slot).recv = i.recv ∧
        Counted b n .dxs Reg.GA_DECIDED_CNT 0 (if i.due = outComplete then 1 else 0)) ∧
  (∀ g slot d, b.actingRoot = true → b.gaValid g = true → b.gaKind g = 3 → (b.job (b.gaJob g)).stopped = false →
    let i := b.inst g slot
    i.live = true → i.outcome = 0 → i.due = 0 → i.sn % 2 = slot % 2 → b.gathReads g = false →
    b.deadlineAt g i.sn = some d → d + (b.reg .dxs Reg.GA_SETTLE g).toNat * 65536 < b.ht .dxs →
    (∀ r ∈ b.dxs.node.inbox, r.mark.kind = .arrive ∨ r.mark.kind = .count → r.mark.obj.toNat = g →
      d + (b.reg .dxs Reg.GA_SETTLE g).toNat * 65536 < r.time) →
    Completes (.settleExpire dt g slot) dt [.regs .dxs, .ports .dxs, .inbox .dxs, .raised .dxs, .dma .dxs, .instances, .jobs,
        .path, .sess, .gaOver, .host] s fun n =>
      (n.inst g slot).outcome = outExpired ∧ (n.inst g slot).dstamp = d ∧ Counted b n .dxs Reg.GA_EXPIRED_CNT 0 1 ∧
        (b.soloNow = true → b.hub.path.gdecs = [] → (b.job (b.gaJob g)).record = false →
          n.dxs.hub.path.gdecs = [] ∧
          ∀ p ∈ b.jobPorts (b.gaJob g), MarkQueued b n .dxs p (completeMark g i.sn outExpired d)))

/-- R20, R65, R171: a GO that passes a tier node goes on to every port of its job, sets the node's folio and launch time, and frees
what belongs to the folio two before it. -/
def Obligations.GoPasses : Prop := ∀ (s : State) (dt : Nat) (r : RxMark) (rest : List RxMark),
  let b := s.hall.elapse dt
  let j := bits r.mark.obj.toNat 7 0
  let k := (expandTag (if (b.job j).gone then ((b.job j).sn : Int) else -1) r.mark.tag).toNat
  isTriad b.dxs.role = false → InboxHead b .dxs .go r rest →
  Completes (.goPass dt) dt
    [.regs .dxs, .ports .dxs, .inbox .dxs, .raised .dxs, .instances, .dones, .folds, .jobs, .gaAudit, .gaOver] s fun n =>
    n.dxs.node.inbox = rest ∧ n.job j = { b.job j with
      sn := k, gone := true, tgoPrev := (b.job j).tgo, tgo := expandStamp (b.ht .dxs) r.mark.stamp } ∧ (∀ i, i ≠ j → n.job i = b.job i) ∧
      (∀ p ∈ b.jobPorts j, p ∉ b.portsOf roleUp → MarkQueued b n .dxs p r.mark) ∧
      (∀ g sl, b.gaJob g = j → (b.inst g sl).live = true → (b.inst g sl).sn + 2 ≤ k → n.inst g sl = GInst.reset) ∧
      ∀ sl, (b.done j sl).live = true → (b.done j sl).sn + 2 ≤ k → n.done j sl = GInst.reset

/-! ### Folds at a DX-S48 -/

/-- R204, R205, R206, R212: fold messages held or refused, the wait for a leaf, the result, and lent blocks that come back. It rests
on the model's own: log entry 12 (DESIGN CHOICE), log entry 89 (DEDUCED). -/
def Obligations.FoldMessages : Prop := ∀ (s : State) (dt : Nat),
  let b := s.hall.elapse dt
  (∀ p ss rest s0 d o who span form data, findFold b.dxs.node.rxSheets = some (p, ss, rest) → ss.head? = some s0 →
    b.gdef s0.obj = some d → b.foldOp s0.obj = some o → foldMessage ss = some (who, span, form, data) →
    let g := s0.obj
    let sn := (expandTag (b.job (b.gaJob g)).sn (BitVec.ofNat 16 s0.tag)).toNat
    Completes (.foldMessageReceive dt) dt
      [.regs .dxs, .ports .dxs, .inbox .dxs, .sheets .dxs, .raised .dxs, .instances, .folds] s fun n =>
      n.dxs.node.rxSheets = rest ∧
        match (if b.portRole p = roleDown then b.foldNode d g sn p who span form else none) with
        | some x => if data.length = msgSize o x then
            (n.dxs.hub.fd.msgs.map fun m => (m.gid, m.sn, m.lo, m.hi, m.data)) =
              (b.dxs.hub.fd.msgs.map fun m => (m.gid, m.sn, m.lo, m.hi, m.data)) ++
                [(g, sn, x.1, x.2, if b.relayed d x then [] else data)]
          else n.dxs.hub.fd.msgs = b.dxs.hub.fd.msgs ∧ Counted b n .dxs Reg.DXS_FD_LEN_CNT 0 1
        | none => n.dxs.hub.fd.msgs = b.dxs.hub.fd.msgs ∧ Counted b n .dxs Reg.DXS_FD_LEN_CNT 0 1) ∧
  (∀ g sl p t, (b.inst g sl).live = true →
    ((b.inst g sl).leafDue.find? fun e => e.1 == p && !e.2.2) = some (p, t, false) →
    t + (b.reg .dxs Reg.DXS_FD_WAIT).toNat ≤ b.now → b.leafHere g (b.inst g sl).sn p = false →
    Completes (.foldWaitExpire dt g sl p) dt [.regs .dxs, .ports .dxs, .inbox .dxs, .raised .dxs, .instances] s fun n =>
      Counted b n .dxs Reg.DXS_FD_MISSING_CNT 0 1 ∧
        ((n.inst g sl).leafDue.find? fun e => e.1 == p && !e.2.2) = none ∧ (n.inst g sl).recv = (b.inst g sl).recv) ∧
  (∀ g sl d o v, isRoot b.dxs.role = true → b.gdef g = some d → b.foldOp g = some o →
    let sn := (b.inst g sl).sn
    (b.hub.fd.formed.any fun f => f.gid == g && f.sn == sn && f.complete && !f.ready) = true →
    b.nodeValue d o g sn 0 d.n = some v →
    Completes (.foldResultReady dt g sl) dt [.regs .dxs, .ports .dxs, .instances, .folds] s fun n =>
      n.resultReady g sn = true ∧ Counted b n .dxs Reg.DXS_FD_RESULT_CNT 0 1 ∧
        (∀ p ∈ b.destPorts g, SheetsQueued b n .dxs p (foldSheets tFoldOut g (sn % 65536) 0 (d.n - 1) 2 (foldFinish o v))) ∧
        (b.actingRoot = false → (n.inst g sl).waiting = [])) ∧
  (let fp := [Comp.regs .dxs, .ports .dxs, .sheets .dxs, .dma .dxs, .instances, .defs, .folds, .binder, .mbox]
    let back (k : Nat) (m : Block) : Prop :=
      m.blkLent = b.blkLent - min k b.blkLent ∧
        m.dxs.hub.fd = { b.dxs.hub.fd with recalled := b.dxs.hub.fd.recalled - min k b.blkLent } ∧
        m.dxs.node.dma = { b.dxs.node.dma with lent := m.blkLent };
    (∀ k, b.dxs.hub.fd.waiters = [] → Completes (.blockRecallDone dt k) dt fp s fun n => back k n ∧ n.dxs.hub.gdefs = b.dxs.hub.gdefs) ∧
    (∀ k mb, b.dxs.hub.fd.waiters = [mb] → Completes (.blockRecallDone dt k) dt fp s fun n =>
      ∃ m, back k m ∧ Untouched [.dma .dxs, .folds] b m ∧ n.dxs.hub.gdefs = (gatherDefine mb m).dxs.hub.gdefs ∧
        n.dxs.hub.fd = (gatherDefine mb m).dxs.hub.fd ∧ n.dxs.hub.mbox = (gatherDefine mb m).dxs.hub.mbox))

/-- R209, R210: the fold engines. A finished task leaves its engine to the oldest in its queue; an idle engine takes the oldest task
of the longest queue; and a known-answer test runs only while every engine is idle. It rests on the model's own: log entry 90
(DESIGN CHOICE). -/
def Obligations.FoldEngines : Prop := ∀ (s : State) (dt e : Nat),
  let b := s.hall.elapse dt
  (∀ t, (b.eng e).run = some t →
    Completes (.foldTaskComplete dt e) dt [.regs .dxs, .ports .dxs, .instances, .folds] s fun n =>
      Counted b n .dxs Reg.DXS_FD_E_TASK_CNT e 1 ∧
        ((b.eng e).queue = [] → (n.eng e).run = none) ∧
        (∀ u q, oldestTask (b.eng e).queue = some (u, q) → b.engOn e = true → (n.eng e).run = some u ∧ (n.eng e).queue = q) ∧
        (∀ f o, b.hub.fd.formed.find? t.isOf = some f → b.foldOp t.gid = some o →
          ∃ f' ∈ n.dxs.hub.fd.formed, t.isOf f' = true ∧ t.k ∈ f'.done)) ∧
  (wbit (b.reg .dxs Reg.DXS_FD_CTRL) 0 = true → e < 32 → b.engOn e = true → (b.eng e).queue = [] → (b.eng e).run = none →
    (∃ i, i < 32 ∧ (b.eng i).queue ≠ []) →
    Completes (.foldTaskSteal dt e) dt [.regs .dxs, .folds] s fun n =>
      Counted b n .dxs Reg.DXS_FD_E_STOLEN_CNT e 1 ∧ ∃ i t, i < 32 ∧ i ≠ e ∧ t ∈ (b.eng i).queue ∧
        (∀ u ∈ (b.eng i).queue, t.sn ≤ u.sn) ∧ (∀ k, k < 32 → (b.eng k).queue.length ≤ (b.eng i).queue.length) ∧
        (n.eng e).run = some t ∧ (n.eng i).queue.length + 1 = (b.eng i).queue.length ∧
        ∀ k, k ≠ e → k ≠ i → n.eng k = b.eng k) ∧
  (∀ pass, e < 32 → wbit (b.reg .dxs Reg.DXS_FD_CTRL) 1 = true → (b.eng e).katFail = false →
    (∀ i, i < 32 → (b.eng i).queue = [] ∧ (b.eng i).run = none) →
    Completes (.foldKat dt e pass) dt [.regs .dxs, .ports .dxs, .inbox .dxs, .raised .dxs, .folds] s fun n =>
      (n.eng e).katFail = !pass ∧ (n.eng e).katAt = n.now ∧ (n.eng e).stale = false ∧
        Counted b n .dxs Reg.DXS_FD_KAT_CNT 0 1 ∧ Counted b n .dxs Reg.DXS_FD_KAT_FAIL_CNT 0 (if pass then 0 else 1)) ∧
  (∀ pass, e < 32 → wbit (b.reg .dxs Reg.DXS_FD_CTRL) 1 = true → (b.eng e).katFail = false →
    (∃ i, i < 32 ∧ ((b.eng i).queue ≠ [] ∨ (b.eng i).run ≠ none)) →
    Completes (.foldKat dt e pass) dt [.regs .dxs, .ports .dxs, .inbox .dxs, .raised .dxs, .folds] s fun n =>
      (n.eng e).katFail = false ∧ (n.eng e).run = (b.eng e).run ∧ (n.eng e).queue = (b.eng e).queue ∧
        Counted b n .dxs (isBase .dxs + Reg.IS_ABANDON_CNT) 0 1 ∧ OtherRegs b n .dxs [regKey 0 (isBase .dxs + Reg.IS_ABANDON_CNT)])

/-! ### Folio programs -/

/-- R221, R222: the instructions on words, flow and notes. Each is issued once, moves its context on by one word, and changes
nothing else of it than stated; no other job changes. It rests on the model's own: log entry 17 (DESIGN CHOICE), log entries 98 and
99 (DEDUCED). -/
def Obligations.FolioWords : Prop := ∀ (s : State) (dt j w : Nat),
  let b := s.hall.elapse dt
  let x := b.job j
  let y := issuedJob x
  let fp : Foot := [.regs .dxs, .dma .dxs, .jobs, .path, .sess, .host]
  (Issues b j Op.nop w → Completes (.nop dt j) dt fp s fun n => IssuedAs b n j y) ∧
  (Issues b j Op.branch w → Completes (.branch dt j) dt fp s fun n =>
    IssuedAs b n j { y with pc := if x.holds (subOf w) (waOf w) then bits (immOf w) 13 0 else x.pc + 1 }) ∧
  (Issues b j Op.movi w → Completes (.movi dt j) dt fp s fun n =>
    IssuedAs b n j { y with
      words := x.words.set (wdOf w)
        (if bit (subOf w) 0 then immOf w * 2 ^ 32 + x.word (wdOf w) % 2 ^ 32 else word64 (sx 32 (immOf w))) }) ∧
  (∀ v f, Issues b j Op.calc w → calcOp (subOf w) (x.word (waOf w)) (x.word (wbOf w)) = (v, f) →
    Completes (.calc dt j) dt fp s fun n =>
      IssuedAs b n j { y with words := x.words.set (wdOf w) (v % 2 ^ 64), f := f.getD x.f }) ∧
  (Issues b j Op.get w → Completes (.get dt j) dt fp s fun n =>
    IssuedAs b n j { y with words := x.words.set (wdOf w) (b.getValue j (subOf w) % 2 ^ 64) }) ∧
  (Issues b j Op.note w → Completes (.note dt j) dt fp s fun n =>
    IssuedAs b n j { y with notes := x.notes ++ [(x.word (waOf w), bits (immOf w) 15 0)] }) ∧
  (Issues b j Op.assert w → Completes (.assert dt j) dt fp s fun n =>
    IssuedAs b n j { y with
      deferred := if x.holds (subOf w) (waOf w) || x.deferred != 0 then x.deferred else Pstat.assert }) ∧
  (Issues b j Op.waitt w → Completes (.waitt dt j) dt fp s fun n =>
    IssuedAs b n j { y with
      wait := if x.word (waOf w) ≤ count64 (b.ht .dxs) then .none else .time (x.word (waOf w)) }) ∧
  (∀ t, x.wait = .time t → t ≤ count64 (b.ht .dxs) → Completes (.waittRelease dt j) dt [.jobs] s fun n =>
    JobOnly b n j { x with wait := .none }) ∧
  (Issues b j Op.waitg w → b.hasGath j (bits (immOf w) 15 0) = true → Completes (.waitg dt j) dt fp s fun n =>
    let g := bits (immOf w) 15 0
    IssuedAs b n j { y with wait := if b.gathDecided g (x.gathFolio (subOf w)) then .none else .gath g (x.gathFolio (subOf w)) }) ∧
  (∀ g sn, x.wait = .gath g sn → b.gathDecided g sn = true → Completes (.waitgRelease dt j) dt [.jobs] s fun n =>
    JobOnly b n j { x with wait := .none })

/-- R217, R223, R227: a program fault halts its job: the program counter past the program, the budget spent, the order broken, or a
gathering that the job has not defined. It rests on the model's own: log entries 97 and 143 (DEDUCED). -/
def Obligations.ProgramFaults : Prop := ∀ (s : State) (dt j w : Nat),
  let b := s.hall.elapse dt
  let x := b.job j
  let fp : Foot := [.regs .dxs, .dma .dxs, .jobs, .path, .sess, .host]
  b.canIssue j = true →
  (x.len ≤ x.pc → Completes (.nop dt j) dt fp s fun n =>
    (n.job j).st = .halted ∧ (n.job j).pstat = Pstat.pcRange ∧ (n.job j).dec = none ∧ (n.job j).pc = x.pc ∧
      Counted b n .dxs Reg.FS_HALT_CNT 0 1) ∧
  (x.pc < x.len → opOf (b.progWord j) = Op.calc → x.prologue = false → x.ipf ≤ x.seg → Completes (.calc dt j) dt fp s fun n =>
    (n.job j).st = .halted ∧ (n.job j).pstat = Pstat.ipf ∧ (n.job j).words = x.words ∧
      Counted b n .dxs Reg.FS_HALT_CNT 0 1) ∧
  (Issues b j Op.waitg w → b.hasGath j (bits (immOf w) 15 0) = false → Completes (.waitg dt j) dt fp s fun n =>
    (n.job j).st = .halted ∧ (n.job j).pstat = Pstat.gathUndef ∧ Counted b n .dxs Reg.FS_HALT_CNT 0 1) ∧
  (Issues b j Op.cutoff w → x.orderOk Op.cutoff = false → Completes (.cutoff dt j) dt fp s fun n =>
    (n.job j).st = .halted ∧ (n.job j).pstat = Pstat.order ∧ Counted b n .dxs Reg.FS_HALT_CNT 0 1) ∧
  (Issues b j Op.form w → x.sess = false → Completes (.form dt j) dt fp s fun n =>
    (n.job j).st = .halted ∧ (n.job j).pstat = Pstat.noSess ∧ Counted b n .dxs Reg.FS_HALT_CNT 0 1)

/-- R222, R235, R236: the instructions whose results vary. Live, each sets its word and F and, in record mode, logs them; a job that
reads its log takes both from the entry that matches. It rests on the model's own: log entry 122 (DEDUCED). -/
def Obligations.FolioVaries : Prop := ∀ (s : State) (dt j w : Nat),
  let b := s.hall.elapse dt
  let x := b.job j
  let y := issuedJob x
  let fp : Foot := [.regs .dxs, .ports .dxs, .dma .dxs, .instances, .jobs, .path, .sess, .host]
  let log := fun op v f => if x.logging then x.logs ++ [logEntry op j x.pc x.sn v f []] else x.logs
  (Issues b j Op.stamp w → x.reads = false → Completes (.stamp dt j) dt fp s fun n =>
    let v := b.stampValue j (subOf w)
    IssuedAs b n j { y with words := x.words.set (wdOf w) (v % 2 ^ 64), logs := log Op.stamp v x.f }) ∧
  (Issues b j Op.live w → x.reads = false → Completes (.live dt j) dt fp s fun n =>
    let v := b.liveValue j (subOf w)
    IssuedAs b n j { y with words := x.words.set (wdOf w) (v % 2 ^ 64), logs := log Op.live v x.f }) ∧
  (Issues b j Op.testg w → x.reads = false → b.hasGath j (bits (immOf w) 15 0) = true →
    Completes (.testg dt j) dt fp s fun n =>
      let v := b.outcomeAt (bits (immOf w) 15 0) (x.gathFolio (subOf w))
      IssuedAs b n j { y with words := x.words.set (wdOf w) (v % 2 ^ 64), f := v == 1, logs := log Op.testg v (v == 1) }) ∧
  (∀ e, Issues b j Op.stamp w → x.reads = true → b.nextEntry j = some e → entryGood e = true → isGathEntry e = false →
    entryMatches e Op.stamp x.pc x.sn = true → Completes (.stamp dt j) dt fp s fun n =>
      (n.job j).word (wdOf w) = (if wdOf w < x.words.length then leAt e 12 8 else 0) ∧ (n.job j).f = bit (leAt e 20 1) 0 ∧
        (n.job j).pc = x.pc + 1 ∧ Counted b n .dxs Reg.FS_C_VARIES_CNT j 1)

/-- R228, R297: the changes named for a folio at least two ahead are held; one named for an earlier folio defers a pause; and a
seventeenth record halts the job. It rests on the model's own: log entry 13 (DEDUCED). -/
def Obligations.FolioChanges : Prop := ∀ (s : State) (dt j w : Nat),
  let b := s.hall.elapse dt
  let x := b.job j
  let y := issuedJob x
  let fp : Foot := [.regs .dxs, .dma .dxs, .jobs, .path, .sess, .host]
  let late := fun code => if x.deferred = 0 then code else x.deferred
  (Issues b j Op.oppoint w → Completes (.oppoint dt j) dt fp s fun n => IssuedAs b n j
    (if aheadOf w < 2 then { y with deferred := late Pstat.oppLate }
     else { y with opp := some (x.sn + aheadOf w, bits (immOf w) 3 0) })) ∧
  (Issues b j Op.applyat w → (x.unsent x.sn).length < 16 → Completes (.applyat dt j) dt fp s fun n => IssuedAs b n j
    (if aheadOf w < 2 then { y with deferred := late Pstat.applyLate }
     else { y with recs := x.recs ++ [⟨1, 0, x.sn + aheadOf w, immOf w, 0⟩] })) ∧
  (Issues b j Op.seed w → (x.unsent x.sn).length < 16 → Completes (.seed dt j) dt fp s fun n => IssuedAs b n j
    (if aheadOf w < 2 then { y with deferred := late Pstat.seedLate }
     else { y with recs := x.recs ++ [⟨2, bits (subOf w) 2 0, x.sn + aheadOf w, immOf w, 0⟩] })) ∧
  (Issues b j Op.ckpt w → (x.unsent x.sn).length < 16 → Completes (.ckpt dt j) dt fp s fun n =>
    IssuedAs b n j { y with recs := x.recs ++ [⟨3, 0, x.sn + 2, bits (immOf w) 15 0, x.epoch + 1⟩],
                            epoch := x.epoch + 1,
                            words := x.words.set (wdOf w) ((x.epoch + 1) % 2 ^ 64) }) ∧
  (Issues b j Op.seed w → 2 ≤ aheadOf w → 16 ≤ (x.unsent x.sn).length → Completes (.seed dt j) dt fp s fun n =>
    (n.job j).st = .halted ∧ (n.job j).pstat = Pstat.recFull ∧ (n.job j).recs = x.recs)

/-- R23, R24, R223, R251 to R255: the sequence of a decision up to the list. CUTOFF waits for the DONE set and then takes the cut
and the seal; RETIRE ends or keeps a turn; CHARGE settles, refills and renews; ADMIT starts a turn that has waited; FORM puts the
entries in order. It rests on the model's own: log entry 91 (DEDUCED). -/
def Obligations.SegmentSequence : Prop := ∀ (s : State) (dt j w : Nat),
  let b := s.hall.elapse dt
  let x := b.job j
  let fp : Foot := [.regs .dxs, .dma .dxs, .jobs, .path, .sess, .host]
  let fv : Foot := [.regs .dxs, .ports .dxs, .dma .dxs, .instances, .jobs, .path, .sess, .host]
  (Issues b j Op.cutoff w → InSequence b j Op.cutoff → Completes (.cutoff dt j) dt fp s fun n =>
    IssuedAs b n j { sequencedJob x Op.cutoff with wait := .cutoff }) ∧
  (b.runsJob j = true → x.active = true → x.stopped = false → x.wait = .cutoff → b.doneSet j = true → b.reportHere j = true →
    x.ftStaged = [] →
    Completes (.cutoffComplete dt j) dt [.regs .dxs, .jobs] s fun n =>
      JobOnly b n j ({ x with
        wait := .none, st := .deciding, cut := b.ht .dxs, sealAt := b.sealStamp j, period := b.ftPeriod j,
        lead := b.ftLead j }.noteSpan (b.ht .dxs + b.ftLead j - x.tgo)) ∧
        n.reg .dxs Reg.FT_CUT j = htWord (b.ht .dxs) 0 ∧ n.reg .dxs Reg.FT_SEAL j = htWord (b.sealStamp j) 0 ∧
        n.reg .dxs Reg.FT_TAG j = w32 (x.sn % 65536)) ∧
  (∀ i, Issues b j Op.retire w → InSequence b j Op.retire → x.reads = false → x.pend = [] → b.jobSlots j = [i] →
    (b.sess i).job = j → (b.sess i).st = Sess.running → (b.takeReport j).1 = [] → wdOf w < x.words.length →
    Completes (.retire dt j) dt (fv ++ [.free]) s fun n =>
      (n.job j).pc = x.pc + 1 ∧ (n.job j).ran = x.ran ++ [Op.retire] ∧ match turnOutcome x (b.sess i) 0 false with
        | some (code, kept) => (n.sess i).st = Sess.open_ ∧ (n.sess i).turnOut = (b.sess i).turnOut + kept ∧
            (n.job j).word (wdOf w) = 1 ∧ (n.job j).entries = x.entries ++
              [⟨handleOf i (b.sess i), endAct code, kept, (b.sess i).pgroup, (b.sess i).turn⟩]
        | none => n.sess i = b.sess i ∧ (n.job j).word (wdOf w) = 0 ∧ (n.job j).entries = x.entries) ∧
  (∀ i t c, Issues b j Op.charge w → InSequence b j Op.charge → b.jobSlots j = [i] → b.jobTenants j = [t] →
    let u := b.sess i
    let T := b.tenant t
    u.job = j → u.st = Sess.running → u.rsv ≠ 0 → u.tenant = t → T.valid = true → T.job = j →
    c = ((x.kept.find? fun e => e.1 == i).map Prod.snd).getD 0 → wdOf w < x.words.length → c < 2 ^ 64 →
    Completes (.charge dt j) dt fp s fun n =>
      let bal := min (T.bal - min c T.bal + T.refill) T.cap
      (n.job j).word (wdOf w) = c ∧ (n.tenant t).bal = bal ∧ (n.sess i).charged = (u.charged + c) % 2 ^ 64 ∧
        if T.frozen = false ∧ T.rsv - u.rsv + u.maxtok ≤ bal then
          (n.sess i).st = Sess.running ∧ (n.sess i).rsv = u.maxtok ∧ (n.tenant t).rsv = T.rsv - u.rsv + u.maxtok
        else (n.sess i).st = Sess.throttled ∧ (n.sess i).rsv = 0 ∧ (n.tenant t).rsv = T.rsv - u.rsv) ∧
  (∀ i t, Issues b j Op.admitOp w → InSequence b j Op.admitOp → x.reads = false → x.queue = [(i, t)] → t ≤ b.admitUpTo j →
    b.mayAdmit i = true → wdOf w < x.words.length →
    Completes (.admitSeq dt j) dt fv s fun n =>
      (n.sess i).st = Sess.running ∧ (n.sess i).rsv = (b.sess i).maxtok ∧ (n.job j).queue = [] ∧
        (n.tenant (b.sess i).tenant).rsv = (b.tenant (b.sess i).tenant).rsv + (b.sess i).maxtok ∧
        (n.job j).word (wdOf w) = 1 ∧ Counted b n .dxs Reg.DXS_SS_ADMIT_CNT 0 1 ∧ (n.job j).entries = x.entries ++
          [⟨handleOf i (b.sess i), Act.run, (b.sess i).maxtok, (b.sess i).pgroup, (b.sess i).turn⟩]) ∧
  (Issues b j Op.form w → InSequence b j Op.form → x.replays = false → Completes (.form dt j) dt fp s fun n =>
    (n.job j).formed = true ∧ (n.job j).evicts = [] ∧ (n.job j).pc = x.pc + 1 ∧
      (n.job j).entries.Pairwise (fun a c => entryKey a ≤ entryKey c) ∧
      (n.job j).entries.Perm (x.entries ++ x.evicts.map evictEntry))

/-- R25, R26, R31, R39, R225 to R227, R394: what ends a segment. COMMIT makes a decision that is held until 400,000 ns before its
launch time; a deferred pause turns it into PAUSE; a PAUSE or HALT that needs no acknowledgement takes effect at once; and a HALT
before CUTOFF decides nothing. It rests on the model's own: log entries 97 and 101 (DEDUCED). -/
def Obligations.SegmentEnd : Prop := ∀ (s : State) (dt j w : Nat),
  let b := s.hall.elapse dt
  let x := b.job j
  let fp : Foot := [.regs .dxs, .ports .dxs, .inbox .dxs, .dma .dxs, .raised .dxs, .instances, .dones, .folds, .jobs, .path,
        .sess, .gaAudit, .gaOver, .host]
  (Issues b j Op.commit w → InSequence b j Op.commit → x.sess = false → x.deferred = 0 → x.prologue = false →
    b.ht .dxs + decisionHold < x.nextLaunch.2.1 →
    Completes (.commit dt j) dt fp s fun n =>
      (n.job j).wait = .ending ∧ (n.job j).pc = x.pc + 1 ∧ (n.job j).sn = x.sn ∧ ∃ d, (n.job j).dec = some d ∧
        d.ending = .commit ∧ d.tgo = x.nextLaunch.2.1 ∧ d.sched = x.sched ∧ d.late = decide (x.sched < x.ready_) ∧
        d.folio = x.folio ∧ d.dseq = none ∧ d.list = x.commitList j) ∧
  (∀ op, op = Op.commit ∧ x.deferred ≠ 0 ∨ op = Op.pause → Issues b j op w → InSequence b j op → x.sess = false →
    x.record = false → x.events = [] → b.soloNow = true → x.endTimes.2.1 ≤ b.ht .dxs + decisionHold →
    Completes (if op = Op.commit then .commit dt j else .pause dt j) dt fp s fun n =>
      (n.job j).st = .paused ∧ (n.job j).pstat = x.deferred ∧ (n.job j).deferred = 0 ∧ (n.job j).dec = none ∧
        (n.job j).sn = x.sn ∧ n.dxs.hub.path.solo = true ∧ Counted b n .dxs Reg.FS_SOLO_CNT 0 1) ∧
  (Issues b j Op.halt w → Op.cutoff ∈ x.ran → x.sess = false → x.record = false → x.events = [] → b.soloNow = true →
    b.evFits (32 * b.abortEvents j) = true → x.endTimes.2.1 ≤ b.ht .dxs + decisionHold →
    Completes (.halt dt j) dt fp s fun n =>
      (n.job j).st = .halted ∧ (n.job j).pstat = Pstat.halted ∧ (n.job j).haltCode = bits (immOf w) 15 0 ∧
        (n.job j).dec = none ∧ n.dxs.hub.path.solo = true) ∧
  (Issues b j Op.halt w → Op.cutoff ∉ x.ran → Completes (.halt dt j) dt fp s fun n =>
    (n.job j).st = .halted ∧ (n.job j).pstat = Pstat.halted ∧ (n.job j).haltCode = bits (immOf w) 15 0 ∧
      (n.job j).dec = none ∧ n.dxs.hub.path.dseq = b.dxs.hub.path.dseq ∧ n.dxs.hub.path.gdecs = b.dxs.hub.path.gdecs ∧
      n.dxs.node.ports = b.dxs.node.ports)

/-! ### The decision path -/

/-- The decision `d` of a job has been handed to the other root: it has its number, its launch time moved at most later, and leaves
over CROSS. -/
def Sys2Proof.HandedOver (b n : Block) (j p : Nat) (d : Decision) : Prop :=
  n.dxs.hub.path.dseq = (b.hub.path.dseq + 1) % 65536 ∧ (n.job j).st = (b.job j).st ∧ (n.job j).sn = (b.job j).sn ∧
    (∃ d', (n.job j).dec = some d' ∧ d'.dseq = some b.hub.path.dseq ∧ d'.sentAt = n.now ∧ d'.ending = d.ending ∧
      d.tgo ≤ d'.tgo ∧ d'.list = d.list) ∧
    ∃ ss, ss ≠ [] ∧ (n.port .dxs p).sh.queue = (b.port .dxs p).sh.queue ++ ss ∧ ∀ q ∈ ss, q.typ = tDecision

/-- The decision `d` of a job stays for want of room for its log entries, and the wait has been counted once. -/
def Sys2Proof.KeptForLog (b n : Block) (j : Nat) (d : Decision) : Prop :=
  (∃ d', (n.job j).dec = some d' ∧ d'.dseq = none ∧ d'.logWait = true ∧ d'.tgo = d.tgo) ∧
    n.dxs.hub.path = b.dxs.hub.path ∧ n.dxs.node.ports = b.dxs.node.ports ∧
    Counted b n .dxs Reg.FS_C_LOGWAIT_CNT j (if d.logWait then 0 else 1)

/-- R31 to R33, R232, R233, R235, R264: a decision whose hold has ended, and whose entries and events fit, takes the next number and
goes to the other root; while its log entries do not fit it stays, and the wait is counted once. The end of the hold, room in the log
ring and room in the event ring each try it. -/
def Sys2Proof.DecisionHanding : Prop := ∀ (s : State) (dt j p : Nat) (d : Decision),
  let b := s.hall.elapse dt
  let x := b.job j
  let fp : Foot := [.regs .dxs, .ports .dxs, .inbox .dxs, .dma .dxs, .raised .dxs, .instances, .dones, .folds, .jobs, .path,
    .sess, .gaAudit, .gaOver, .host]
  x.dec = some d → d.dseq = none → b.runsJob j = true → x.stopped = false → d.tgo ≤ b.ht .dxs + decisionHold →
  (b.logFits j (bytesOf d.logs) = true → b.evFits (b.evNeed j d) = true → b.soloNow = false → b.crossPort = some p →
    (b.port .dxs p).st.discards = false →
    Completes (.decisionHoldExpire dt j) dt fp s (fun n => HandedOver b n j p d) ∧
    (b.hub.path.gdecs = [] → Completes (.logSpaceAvailable dt j) dt fp s (fun n => HandedOver b n j p d)) ∧
    (b.hub.ss.evq = [] → Completes (.eventSpaceAvailable dt j) dt fp s (fun n => HandedOver b n j p d))) ∧
  (b.logFits j (bytesOf d.logs) = false →
    Completes (.decisionHoldExpire dt j) dt fp s (fun n => KeptForLog b n j d) ∧
    (b.hub.path.gdecs = [] → Completes (.logSpaceAvailable dt j) dt fp s (fun n => KeptForLog b n j d)) ∧
    (b.hub.ss.evq = [] → Completes (.eventSpaceAvailable dt j) dt fp s (fun n => KeptForLog b n j d)))

/-- R235, R264: room in a ring lets what waited for it go: a gathering decision without log entries, handed over, and an event that
belongs to no decision, into the ring. It rests on the model's own: log entry 172 (DESIGN CHOICE). -/
def Sys2Proof.RingSpace : Prop := ∀ (s : State) (dt j : Nat),
  let b := s.hall.elapse dt
  let fp : Foot := [.regs .dxs, .ports .dxs, .inbox .dxs, .dma .dxs, .raised .dxs, .instances, .dones, .folds, .jobs, .path,
    .sess, .gaAudit, .gaOver, .host]
  (b.job j).dec = none →
  (∀ g, b.hub.path.gdecs = [g] → g.dseq = none → b.gathLog g = [] → b.actingRoot = true → b.soloNow = false →
    (b.job (b.gaJob g.gid)).stopped = false →
    Completes (.logSpaceAvailable dt j) dt fp s fun n =>
      n.dxs.hub.path.gdecs = [{ g with dseq := some b.hub.path.dseq, sentAt := n.now }] ∧
        n.dxs.hub.path.dseq = (b.hub.path.dseq + 1) % 65536 ∧ n.dxs.hub.ga = b.dxs.hub.ga) ∧
  (∀ e, b.hub.ss.evq = [e] → b.evReserved + 32 ≤ b.evRing.room 32 → b.chanAble .dxs chanEvent = true →
    Completes (.eventSpaceAvailable dt j) dt fp s fun n =>
      n.dxs.hub.ss = { b.dxs.hub.ss with evq := [] } ∧ n.dxs.hub.path = b.dxs.hub.path ∧ n.dxs.hub.jobs = b.dxs.hub.jobs)

/-- R71, R233: a timing root that loses its last CROSS port goes on alone: what it had handed over is emitted. -/
def Sys2Proof.LastCrossPortLost : Prop := ∀ (s : State) (dt p : Nat),
  let b := s.hall.elapse dt
  let q := b.port .dxs p
  b.portRole p = roleCross → p < 48 → b.actingRoot = true → q.st = .down → q.downAt + b.dwell .dxs p ≤ b.now →
  (∀ i ∈ b.portsOf roleCross, i ≠ p → (b.port .dxs i).st = .lost) →
  Completes (.dwellExpire dt .dxs p) dt
    [.regs .dxs, .ports .dxs, .inbox .dxs, .sheets .dxs, .dma .dxs, .raised .dxs, .instances, .dones, .folds, .jobs, .path, .sess,
      .gaAudit, .gaOver, .host] s fun n =>
    (n.port .dxs p).st = .lost ∧ (n.port .dxs p).tx.q0 = [] ∧ (n.port .dxs p).tx.q1 = [] ∧ (n.port .dxs p).tx.q2 = [] ∧
      (n.port .dxs p).sh.replay = [] ∧ n.dxs.hub.path.solo = true ∧ ∀ g ∈ n.dxs.hub.path.gdecs, g.dseq = none

/-- R31 to R33, R71, R232, R233, R235, R264: a decision handed to the other root, room in the rings, and a root that loses its last
CROSS port. It rests on the model's own: log entries 16 and 172 (DESIGN CHOICE). -/
def Obligations.HandingOver : Prop := DecisionHanding ∧ RingSpace ∧ LastCrossPortLost

/-- R33, R40, R184, R232: an acknowledged decision is emitted: the GO goes down the tree and its folio is the job's; a pause stops
the job. The root that does not act takes a decision as its own, sends COMPLETE or the folio down its tree, and answers it. It rests
on the model's own: log entry 16 (DESIGN CHOICE), log entry 121 (DEDUCED). -/
def Obligations.DecisionExchange : Prop := ∀ (s : State) (dt : Nat) (bs : List Byte) (b' : Block),
  let b := s.hall.elapse dt
  (∀ j x d, b.takeDecision true = some (bs, b') →
    (b.hub.jobs.find? fun e => match e.2.dec with
      | some d => d.dseq == some (leAt bs 2 2)
      | none => false) = some (j, x) →
    (b.job j).dec = some d → x.dec = some d → b.actingRoot = true → (b.job j).stopped = false →
    Completes (.decisionAckReceive dt) dt
      [.regs .dxs, .ports .dxs, .inbox .dxs, .sheets .dxs, .dma .dxs, .raised .dxs, .instances, .dones, .folds, .jobs, .path,
        .sess, .gaAudit, .gaOver, .host] s fun n =>
      (n.job j).dec = none ∧
        (d.ending = .pause → (n.job j).st = .paused ∧ (n.job j).sn = (b.job j).sn) ∧
        (d.ending = .commit → (n.job j).st = .running ∧ (n.job j).sn = (b.job j).nextSn ∧ (n.job j).gone = true ∧
          (n.job j).tgo = d.tgo ∧ (n.job j).tgoPrev = (b.job j).tgo ∧ n.reg .dxs Reg.FT_GO j = htWord d.tgo 0 ∧
          ∀ p ∈ b.jobPorts j, p ∉ b.faultPorts → MarkQueued b n .dxs p (mkMark .go j ((b.job j).nextSn % 65536) d.tgo
            (if d.list.isEmpty then 0 else (bodies d.list).length)))) ∧
  (b.takeDecision false = some (bs, b') → isRoot b.dxs.role = true → b.actingRoot = false →
    let j := leAt bs 1 1
    (b.job j).ftStaged = [] → (b.job j).hold = false →
    let sn := sx 64 (leAt bs 4 8)
    let body := bs.drop 16
    let tail := (takeSized ((takeSized (takeSized (body.drop 168)).2).2.drop 9)).2
    Completes (.decisionReceive dt) dt
      [.regs .dxs, .ports .dxs, .inbox .dxs, .sheets .dxs, .dma .dxs, .raised .dxs, .instances, .dones, .folds, .jobs, .sess,
        .gaAudit, .gaOver, .host] s fun n =>
      (∀ p, b.crossPort = some p → (b.port .dxs p).st.discards = false →
        ∃ ss, ss ≠ [] ∧ (n.port .dxs p).sh.queue = (b.port .dxs p).sh.queue ++ ss) ∧
        (leAt bs 0 1 ≠ 0 →
          (n.inst (leAt body 0 2) sn.toNat).outcome = leAt body 2 1 ∧
          (n.inst (leAt body 0 2) sn.toNat).dstamp = htOfBytes body 4 ∧
          ∀ p ∈ b.jobPorts (b.gaJob (leAt body 0 2)),
            MarkQueued b n .dxs p (completeMark (leAt body 0 2) sn.toNat (leAt body 2 1) (htOfBytes body 4))) ∧
        (leAt bs 0 1 = 0 → leAt tail 4 1 = 1 →
          (n.job j).st = .paused ∧ (n.job j).pc = leAt body 36 2 ∧ (n.job j).pstat = leAt body 167 1 ∧
            (n.job j).sn = sn.toNat) ∧
        (leAt bs 0 1 = 0 → leAt tail 4 1 = 0 →
          (n.job j).st = .running ∧ (n.job j).pc = leAt body 36 2 ∧ (n.job j).tgo = htOfBytes body 0 ∧
            (n.job j).gone = true ∧ (n.job j).sn = if leAt tail 6 1 = 1 then sn.toNat + 1 else 0))

/-- R40, R229, R342, R343: what comes due at a launch. A root commits the configuration it has checked 192 ns before the launch and
notes the launch when HT reaches it; a DX-T begins the apply steps of its records in their order. It rests on the model's own: log
entry 100 (DEDUCED). -/
def Obligations.DueAtLaunch : Prop := ∀ (s : State) (dt j : Nat),
  let b := s.hall.elapse dt
  let x := b.job j
  (∀ mask k w, x.applyAt = some (mask, [(k, w)]) → mask ≠ 0 → x.tgo ≤ b.ht .dxs + 192 * 65536 →
    Completes (.rootApplyatCommit dt j) dt
      [.clk .dxs, .regs .dxs, .ports .dxs, .inbox .dxs, .sheets .dxs, .outs .dxs, .dma .dxs, .eyes .dxs, .raised .dxs,
        .sram .dxs, .root, .folds, .jobs, .host, .free] s fun n =>
      if isFolioTiming k then
        (n.job j).applyAt = some (0, [(k, w)]) ∧ n.dxs.node.regs.file = b.dxs.node.regs.file
      else (n.job j).applyAt = none ∧ (k % 2 ^ 21 / 4096 = 7 → n.reg .dxs (k % 2 ^ 21) (k / 2 ^ 21) = w)) ∧
  (isRoot b.dxs.role = true → x.gone = true → x.tgo ≤ b.ht .dxs → x.launched ≠ some x.sn → x.applyAt = none →
    x.reads = false →
    Completes (.rootLaunchTime dt j) dt
      [.clk .dxs, .regs .dxs, .ports .dxs, .inbox .dxs, .sheets .dxs, .outs .dxs, .dma .dxs, .eyes .dxs, .raised .dxs,
        .sram .dxs, .root, .instances, .folds, .jobs, .path, .sess, .host, .free] s fun n =>
      JobOnly b n j { x with launched := some x.sn } ∧ n.reg .dxs Reg.FT_SN_LO j = w32 x.sn ∧
        n.reg .dxs Reg.FT_SN_HI j = w32 (x.sn / 2 ^ 32) ∧
        OtherRegs b n .dxs [regKey j Reg.FT_SN_LO, regKey j Reg.FT_SN_HI]) ∧
  (∀ r rs, (b.dxt.step.recs.filter fun r => r.rtype == 1 && r.folio == b.dxt.step.next) = r :: rs →
    b.dxt.step.st = .armed → b.dxt.step.applyBegun = false → b.dxt.node.regs.run = none →
    b.dxt.step.go ≤ b.ht .dxt + 64 * (rs.length + 3) * 65536 →
    Completes (.applyRecordStep dt) dt [.regs .dxt, .step] s fun n =>
      n.dxt.step = { b.dxt.step with applyBegun := true } ∧
        (∃ a, n.dxt.node.regs.run = some a ∧ a.mask = r.a32 % 65536 ∧ a.src = 1 ∧ a.endAt = n.now + 64) ∧
        n.dxt.node.regs.due = b.dxt.node.regs.due ++ rs.map (fun r => r.a32 % 65536))

/-! ### Sessions -/

/-- R245, R246, R259, R262, R393: the immediate effects of the commands about sessions and parked records. It rests on the model's
own: log entry 91 (DEDUCED), log entry 92 (DESIGN CHOICE). -/
def Obligations.Sessions : Prop := ∀ (s : State) (dt mb : Nat) (r : List Byte),
  let b := s.hall.elapse dt
  let h := cmdHandle r
  let slot := slotOf h
  let x := b.sess slot
  let fp : Foot := [.regs .dxs, .jobs, .sess, .binder, .mbox]
  (∀ i, RecordReady b mb 1 r → b.tenantOk (cmdTenant r) (cmdJob r) = true → b.jobTakes (cmdJob r) = none →
    0 < cmdMaxtok r → 0 < cmdTurnMax r → 0 < cmdTtl r → b.freeSlot = some i →
    Completes (.openSess dt mb) dt fp s fun n =>
      RecordAccepted b n mb (cmdJob r) ∧ recordField b n mb 4 4 = handleOf i (b.sess i) % 2 ^ 32 ∧
        SessionOnly b n i { Session.reset with
          gen := (b.sess i).gen, st := Sess.open_, tenant := cmdTenant r, job := cmdJob r, pgroup := cmdPgroup r,
          maxtok := cmdMaxtok r, deadline := deadlineOf r 16, turnMax := cmdTurnMax r, ttl := cmdTtl r } ∧
        TenantOnly b n (cmdTenant r) { b.tenant (cmdTenant r) with live := (b.tenant (cmdTenant r)).live + 1 }) ∧
  (RecordReady b mb 2 r → b.handleOk h = true → b.jobTakes x.job = none → x.st = Sess.open_ → x.park = false →
    x.close = false → (b.tenant x.tenant).frozen = false → 0 < cmdMaxtok r → 0 < cmdTurnMax r →
    Completes (.admitCmd dt mb) dt fp s fun n =>
      RecordAccepted b n mb x.job ∧
        SessionOnly b n slot { x with
          maxtok := cmdMaxtok r, deadline := deadlineOf r 16, turnMax := cmdTurnMax r, turnOut := 0,
          turn := (x.turn + 1) % 65536, st := Sess.queued } ∧
        (n.job x.job).queue = (b.job x.job).queue ++ [(slot, b.ht .dxs)] ∧ ∀ t, n.tenant t = b.tenant t) ∧
  (RecordReady b mb 3 r → b.handleOk h = true → b.jobTakes x.job = none → x.st ≠ Sess.open_ → x.cancel = false →
    Completes (.cancel dt mb) dt [.regs .dxs, .ports .dxs, .jobs, .sess, .binder, .mbox] s fun n =>
      RecordAccepted b n mb x.job ∧ SessionOnly b n slot { x with cancel := true, cstamp := b.ht .dxs } ∧
        n.dxs.hub.ss.kills = b.dxs.hub.ss.kills ++ [⟨h, x.turn, b.ht .dxs⟩] ∧
        ∀ p ∈ b.portsOf roleCross,
          MarkQueued b n .dxs p (mkMark .kill (h / 65536) x.turn (b.ht .dxs) (h % 65536))) ∧
  (∀ i, RecordReady b mb 4 r → b.handleOk h = true → b.jobTakes x.job = none → x.st = Sess.open_ → noFlags x = true →
    b.freeTicket = some i →
    Completes (.park dt mb) dt fp s fun n =>
      RecordAccepted b n mb x.job ∧ recordField b n mb 4 4 = ticketOf i (b.ticket i) % 2 ^ 32 ∧
        SessionOnly b n slot { x with park := true, ttl := if cmdTtl r = 0 then x.ttl else cmdTtl r } ∧
        TicketOnly b n i { b.ticket i with st := 1, tenant := x.tenant, job := x.job } ∧
        (n.job x.job).pend = (b.job x.job).pend ++ [b.pendNow Pk.park h (ticketOf i (b.ticket i))]) ∧
  (∀ i, RecordReady b mb 5 r → b.ticketOk h = true → b.ht .dxs < (b.ticket (h % 2 ^ 22)).expiry →
    b.jobTakes (cmdJob r) = none → b.tenantOk (b.ticket (h % 2 ^ 22)).tenant (cmdJob r) = true → b.freeSlot = some i →
    let o := sessOf (b.hostRead (b.parkAddr (h % 2 ^ 22)) 64)
    Completes (.resume dt mb) dt [.regs .dxs, .dma .dxs, .jobs, .sess, .binder, .mbox, .host] s fun n =>
      RecordAccepted b n mb (cmdJob r) ∧ recordField b n mb 4 4 = handleOf i (b.sess i) % 2 ^ 32 ∧
        SessionOnly b n i { o with
          gen := (b.sess i).gen, st := Sess.open_, job := cmdJob r,
          pgroup := if cmdPgroup r = 0xFFFF then o.pgroup else cmdPgroup r, cancel := false, park := false, close := false,
          fetch := true, rsv := 0, cstamp := 0 } ∧
        TenantOnly b n o.tenant { b.tenant o.tenant with live := (b.tenant o.tenant).live + 1 } ∧
        TicketOnly b n (h % 2 ^ 22) { Ticket.reset with
          gen := ((b.ticket (h % 2 ^ 22)).gen + 1) % 1024, job := (b.ticket (h % 2 ^ 22)).job } ∧
        (n.job (cmdJob r)).pend = (b.job (cmdJob r)).pend ++ [b.pendNow Pk.fetch (handleOf i (b.sess i)) h]) ∧
  (RecordReady b mb 6 r → bit (leAt r 1 1) 1 = false → b.handleOk h = true → b.jobTakes x.job = none → x.st = Sess.open_ →
    noFlags x = true →
    Completes (.close dt mb) dt fp s fun n =>
      RecordAccepted b n mb x.job ∧ SessionOnly b n slot { x with close := true } ∧
        (n.job x.job).pend = (b.job x.job).pend ++ [b.pendNow Pk.close h 0] ∧ ∀ t, n.tenant t = b.tenant t) ∧
  (RecordReady b mb 6 r → bit (leAt r 1 1) 1 = true → b.ticketOk h = true →
    b.ht .dxs < (b.ticket (h % 2 ^ 22)).expiry → (b.job (b.ticket (h % 2 ^ 22)).job).stopped = false →
    (b.job (b.ticket (h % 2 ^ 22)).job).hold = false → (b.job (b.ticket (h % 2 ^ 22)).job).replays = false →
    Completes (.closeTicket dt mb) dt [.regs .dxs, .dma .dxs, .sess, .binder, .mbox, .host] s fun n =>
      RecordAccepted b n mb (b.ticket (h % 2 ^ 22)).job ∧
        TicketOnly b n (h % 2 ^ 22) { Ticket.reset with
          gen := ((b.ticket (h % 2 ^ 22)).gen + 1) % 1024, job := (b.ticket (h % 2 ^ 22)).job } ∧
        ∀ i, n.sess i = b.sess i)

/-- R244 to R247, R393: what a query returns, and how tenants are made, changed and removed. It rests on the model's own: log
entries 91 and 94 (DEDUCED). -/
def Obligations.TenantsAndQueries : Prop := ∀ (s : State) (dt mb : Nat) (r : List Byte),
  let b := s.hall.elapse dt
  let h := cmdHandle r
  let x := b.sess (slotOf h)
  let t := cmdTenant r
  let j := cmdJob r
  let y := b.tenant t
  let fp : Foot := [.regs .dxs, .jobs, .sess, .binder, .mbox]
  (RecordReady b mb 7 r → leAt r 1 1 = 0 → b.handleOk h = true → (b.job x.job).stopped = false →
    Completes (.query dt mb) dt [.regs .dxs, .dma .dxs, .binder, .mbox] s fun n =>
      RecordAccepted b n mb x.job ∧ recordField b n mb 1 1 = x.st % 256 ∧ recordField b n mb 8 2 = x.tenant % 65536 ∧
        recordField b n mb 10 1 = x.job % 256 ∧ recordField b n mb 11 1 = x.maxtok % 256 ∧
        recordField b n mb 12 2 = x.pgroup % 65536 ∧ recordField b n mb 16 12 = ofLe (deadlineBytes x.deadline) ∧
        recordField b n mb 28 4 = x.turnOut % 2 ^ 32 ∧ recordField b n mb 32 4 = x.ttl % 2 ^ 32) ∧
  (RecordReady b mb 7 r → leAt r 1 1 = 2 → b.ticketOk h = true → b.ht .dxs < (b.ticket (h % 2 ^ 22)).expiry →
    (b.job (b.ticket (h % 2 ^ 22)).job).stopped = false →
    let o := b.hostRead (b.parkAddr (h % 2 ^ 22)) 64
    Completes (.query dt mb) dt [.regs .dxs, .dma .dxs, .binder, .mbox] s fun n =>
      RecordAccepted b n mb (b.ticket (h % 2 ^ 22)).job ∧ recordField b n mb 1 1 = leAt o 7 1 ∧
        recordField b n mb 8 2 = leAt o 4 2 ∧ recordField b n mb 28 4 = leAt o 28 4 ∧ recordField b n mb 32 4 = leAt o 44 4) ∧
  (RecordReady b mb 7 r → bit (leAt r 1 1) 0 = true → y.valid = true → (b.job y.job).stopped = false →
    Completes (.queryTenant dt mb) dt [.regs .dxs, .binder, .mbox] s fun n =>
      RecordAccepted b n mb y.job ∧ recordField b n mb 4 4 = y.rsv % 2 ^ 32 ∧ recordField b n mb 16 8 = y.bal % 2 ^ 64 ∧
        recordField b n mb 24 4 = y.refill % 2 ^ 32 ∧ recordField b n mb 28 8 = y.cap % 2 ^ 64) ∧
  (RecordReady b mb 8 r → bit (leAt r 1 1) 1 = false → b.jobTakes j = none →
    let frozen := bit (leAt r 1 1) 0
    let add := sx 64 (leAt r 16 8)
    let refill := leAt r 24 4
    let cap := leAt r 28 8
    (y.valid = false → Completes (.tenantSet dt mb) dt fp s fun n =>
      RecordAccepted b n mb j ∧ TenantOnly b n t { Tenant.reset with
        valid := true, frozen := frozen, bal := (max 0 (min (cap : Int) add)).toNat, cap := cap, refill := refill, job := j }) ∧
    (b.tenantOk t j = true → (b.job j).st = .loaded ∨ (b.job j).st = .paused →
      Completes (.tenantSet dt mb) dt fp s fun n =>
        RecordAccepted b n mb j ∧ TenantOnly b n t { y with
          refill := refill, cap := cap, frozen := frozen, bal := (max 0 (min (cap : Int) (y.bal + add))).toNat }) ∧
    (b.tenantOk t j = true → (b.job j).st ≠ .loaded → (b.job j).st ≠ .paused →
      Completes (.tenantSet dt mb) dt fp s fun n =>
        RecordAccepted b n mb j ∧ (∀ i, n.tenant i = b.tenant i) ∧
          (n.job j).pend = (b.job j).pend ++ [b.tenantPend r])) ∧
  (RecordReady b mb 8 r → bit (leAt r 1 1) 1 = true → b.jobTakes j = none → b.tenantOk t j = true → y.live = 0 →
    ((b.job j).st = .loaded ∨ (b.job j).st = .paused →
      Completes (.tenantRemove dt mb) dt fp s fun n => RecordAccepted b n mb j ∧ TenantOnly b n t Tenant.reset) ∧
    ((b.job j).st ≠ .loaded → (b.job j).st ≠ .paused →
      Completes (.tenantRemove dt mb) dt fp s fun n =>
        RecordAccepted b n mb j ∧ TenantOnly b n t { y with removing := true } ∧
          (n.job j).pend = (b.job j).pend ++ [b.tenantPend r]))

/-- R246, R393: a refused session command has no effect but its answer, a job in replay refuses what would change it, and FLAGS
tells of which kind the identifier of a CLOSE or QUERY is. -/
def Obligations.SessionRefusals : Prop := ∀ (s : State) (dt mb : Nat) (r : List Byte),
  let b := s.hall.elapse dt
  let h := cmdHandle r
  let x := b.sess (slotOf h)
  let fp : Foot := [.regs .dxs, .ports .dxs, .dma .dxs, .jobs, .sess, .binder, .mbox, .host]
  let refused (c : Instr) (e : Nat) : Prop := Completes c dt fp s fun n =>
    recordField b n mb 2 2 = e ∧ n.dxs.hub.ss = b.dxs.hub.ss ∧ n.dxs.hub.jobs = b.dxs.hub.jobs ∧
      n.dxs.node.ports = b.dxs.node.ports ∧ n.dxs.node.dma = b.dxs.node.dma ∧
      n.reg .dxs Reg.DXS_SS_CMD_CNT = b.reg .dxs Reg.DXS_SS_CMD_CNT
  (RecordReady b mb 1 r → b.tenantOk (cmdTenant r) (cmdJob r) = false → refused (.openSess dt mb) Ss.noTenant) ∧
  (∀ c k, (c, k) ∈ [(Instr.admitCmd dt mb, 2), (Instr.cancel dt mb, 3), (Instr.park dt mb, 4), (Instr.close dt mb, 6)] →
    RecordReady b mb k r → bit (leAt r 1 1) 1 = false →
    (b.handleOk h = false → refused c Ss.badHandle) ∧
    (b.handleOk h = true → (b.job x.job).st = .halted → refused c Ss.jobState) ∧
    (b.handleOk h = true → (b.job x.job).loaded = true → (b.job x.job).sess = true → (b.job x.job).st ≠ .halted →
      (b.job x.job).stopped = false → (b.job x.job).hold = false → (b.job x.job).replays = true → refused c Ss.replay)) ∧
  (RecordReady b mb 3 r → b.handleOk h = true → b.jobTakes x.job = none → x.st = Sess.open_ →
    refused (.cancel dt mb) Ss.alreadyDone) ∧
  (RecordReady b mb 3 r → b.handleOk h = true → b.jobTakes x.job = none → x.st ≠ Sess.open_ → x.cancel = true →
    refused (.cancel dt mb) Ss.cancelDup) ∧
  (RecordReady b mb 5 r → b.ticketOk h = true → (b.ticket (h % 2 ^ 22)).expiry ≤ b.ht .dxs →
    refused (.resume dt mb) Ss.expired) ∧
  (mb < 16 → b.hub.bn.boot = 1 → b.own mb = Own.posted → (∀ m, m < 16 → m ≠ mb → b.own m ≠ Own.posted) →
    b.pageAt mb 8 1 = 1 → b.pageAt mb 16 4 = 0 → 1 ≤ b.nrec mb → b.nrec mb ≤ 64 → b.actingRoot = true → r = b.page mb 64 48 →
    1 ≤ leAt r 0 1 → leAt r 0 1 ≤ 5 → leAt r 1 1 ≠ 0 →
    Completes (.mailboxPoll dt) dt [.regs .dxs, .binder, .mbox] s fun n => n.pageAt mb 66 2 = Ss.badCmd) ∧
  (RecordReady b mb 6 r → bit (leAt r 1 1) 1 = true →
    let current := b.ticketOk h && decide (b.ht .dxs < (b.ticket (h % 2 ^ 22)).expiry)
    (current = false → refused (.closeTicket dt mb) Ss.badHandle) ∧
    (current = true → Completes (.closeTicket dt mb) dt fp s fun n => recordField b n mb 2 2 ≠ Ss.badHandle)) ∧
  (RecordReady b mb 6 r → bit (leAt r 1 1) 1 = false → b.handleOk h = true →
    Completes (.close dt mb) dt fp s fun n => recordField b n mb 2 2 ≠ Ss.badHandle) ∧
  (RecordReady b mb 7 r → bit (leAt r 1 1) 0 = false →
    let known := if bit (leAt r 1 1) 1 then b.ticketOk h && decide (b.ht .dxs < (b.ticket (h % 2 ^ 22)).expiry)
      else b.handleOk h
    (known = false → refused (.query dt mb) Ss.badHandle) ∧
    (known = true → Completes (.query dt mb) dt fp s fun n => recordField b n mb 2 2 ≠ Ss.badHandle)) ∧
  (RecordReady b mb 7 r → bit (leAt r 1 1) 0 = true →
    Completes (.queryTenant dt mb) dt fp s fun n => recordField b n mb 2 2 ≠ Ss.badHandle)

/-- R248 to R250, R259, R263: KILLs leave by the DOWN ports a gap apart and come down by either root, a node merges the reports from
beneath it, and expired parked records are evicted at a millisecond. It rests on the model's own: log entry 173 (DESIGN CHOICE), log
entry 106 (DEDUCED). -/
def Obligations.KillsReportsEvictions : Prop := ∀ (s : State) (dt : Nat),
  let b := s.hall.elapse dt
  let u := b.dxs.hub.ss
  (∀ k rest, u.kills = k :: rest → b.killHeld k = false → u.killAt = 0 ∨ u.killAt + b.killGap ≤ b.now →
    Completes (.killSend dt) dt [.regs .dxs, .ports .dxs, .sess] s fun n =>
      n.dxs.hub.ss = { u with kills := rest, killAt := n.now } ∧ Counted b n .dxs Reg.DXS_SS_KILL_CNT 0 1 ∧
        ∀ p ∈ b.portsOf roleDown,
          MarkQueued b n .dxs p (mkMark .kill (k.handle / 65536) k.turn k.stamp (k.handle % 65536))) ∧
  (∀ r rest, InboxHead b .dxs .kill r rest →
    let k : QKill := ⟨r.mark.obj.toNat * 65536 + r.mark.arg.toNat, r.mark.tag.toNat, expandStamp (b.ht .dxs) r.mark.stamp⟩
    (isRoot b.dxs.role = true → b.actingRoot = false → b.portRole r.port = roleCross →
      Completes (.killRelay dt) dt [.regs .dxs, .ports .dxs, .inbox .dxs, .sess] s fun n =>
        n.dxs.node.inbox = rest ∧ n.dxs.node.ports = b.dxs.node.ports ∧
          n.dxs.hub.ss = { u with kills := u.kills ++ [k], relayed := u.relayed ++ [k] }) ∧
    (isRoot b.dxs.role = false →
      Completes (.killRelay dt) dt [.regs .dxs, .ports .dxs, .inbox .dxs, .sess] s fun n =>
        n.dxs.node.inbox = rest ∧ n.dxs.hub.ss = u ∧ ∀ p ∈ b.portsOf roleDown, MarkQueued b n .dxs p r.mark)) ∧
  (∀ job tag, b.jobPorts job ≠ [] → (∀ p ∈ b.jobPorts job, (b.reportSheets p job tag).isSome = true) →
    let es := (b.jobPorts job).flatMap fun p => ((b.reportSheets p job tag).getD []).flatMap sheetEntries
    let fp : Foot := [.regs .dxs, .ports .dxs, .sheets .dxs, .dones, .jobs]
    (∀ p, isRoot b.dxs.role = false → b.upPortOf = some p →
      Completes (.reportMerge dt job tag) dt fp s fun n =>
        SheetsQueued b n .dxs p (reportMessage job tag es) ∧ JobOnly b n job { b.job job with repA := some (tag, es) }) ∧
    (b.actingRoot = true → Completes (.reportMerge dt job tag) dt fp s fun n =>
      (if b.isA then (n.job job).repA else (n.job job).repB) = some (tag, es) ∧ ∀ i, i ≠ job → n.job i = b.job i) ∧
    (∀ p, isRoot b.dxs.role = true → b.actingRoot = false → b.crossPort = some p →
      Completes (.reportMerge dt job tag) dt fp s fun n =>
        SheetsQueued b n .dxs p (reportMessage job tag es) ∧
          JobOnly b n job (if b.isA then { b.job job with repA := some (tag, es) }
            else { b.job job with repB := some (tag, es) }))) ∧
  (b.actingRoot = true → b.ht .dxs / (1000000 * 65536) ≠ u.evictMs →
    let es := u.tickets.filter fun e => b.evictable e.2
    es.length ≤ maxEvict →
    Completes (.evictTick dt) dt [.regs .dxs, .dma .dxs, .jobs, .sess, .host] s fun n =>
      n.dxs.hub.ss.evictMs = b.ht .dxs / (1000000 * 65536) ∧ (∀ e ∈ es, (n.ticket e.1).st = 0) ∧
        (∀ i, i ∉ es.map Prod.fst → n.ticket i = { b.ticket i with rounds := (n.ticket i).rounds }) ∧ Counted b n .dxs Reg.DXS_SS_EVICT_CNT 0 es.length ∧
        (∀ i, n.sess i = b.sess i) ∧
        ∀ e, es = [e] → b.ticket e.1 = e.2 → (b.job e.2.job).loaded = true →
          (n.job e.2.job).evicts = (b.job e.2.job).evicts ++
            [ticketOf e.1 e.2 * 65536 + leAt (b.hostRead (b.parkAddr e.1) 64) 8 2])

/-! ### Faults, votes and verdicts -/

/-- R286 to R289: what originating, receiving and reporting a fault does. It rests on the model's own: log entries 103 and 104
(DEDUCED), log entry 179 (DESIGN CHOICE). -/
def Obligations.FaultReports : Prop := ∀ (s : State) (dt : Nat),
  let b := s.hall.elapse dt
  (∀ r rest, InboxHead b .dxt .fault r rest →
    Completes (.faultReceive dt .dxt) dt [.inbox .dxt] s fun n => n.dxt.node.inbox = rest) ∧
  (∀ r rest, InboxHead b .dxs .fault r rest → r.port ≠ ownPort →
    let ofNode := bit r.mark.arg.toNat 15
    let origin := if ofNode then Part.dxs r.mark.obj.toNat else b.dieNamed r.mark.obj.toNat
    let cause := bits r.mark.arg.toNat 7 0
    let port := bits r.mark.arg.toNat 14 8
    let at_ := expandStamp (b.ht .dxs) r.mark.stamp
    let key := (b2n ofNode * 65536 + r.mark.obj.toNat, cause, r.mark.stamp.toNat)
    let fp : Foot := [.regs .dxs, .ports .dxs, .inbox .dxs, .sheets .dxs, .dma .dxs, .forwarded .dxs, .jobs, .sess, .quorum,
      .binder, .host]
    (b.dxs.node.forwarded.contains key = true → Completes (.faultReceive dt .dxs) dt fp s fun n =>
      n.dxs.node.inbox = rest ∧ n.dxs.node.ports = b.dxs.node.ports ∧ n.dxs.hub.fq = b.dxs.hub.fq ∧
        Counted b n .dxs Reg.DXS_FQ_FAULT_RX_CNT 0 1) ∧
    (b.dxs.node.forwarded.contains key = false → isTriad b.dxs.role = false →
      Completes (.faultReceive dt .dxs) dt fp s fun n =>
        n.dxs.node.inbox = rest ∧ n.dxs.node.forwarded = key :: b.dxs.node.forwarded ∧ n.dxs.hub.fq = b.dxs.hub.fq ∧
          Counted b n .dxs Reg.DXS_FQ_FAULT_RX_CNT 0 1 ∧ ∀ p ∈ b.forwardPorts r.port, MarkOffered b n .dxs p r.mark) ∧
    (b.dxs.node.forwarded.contains key = false → isRoot b.dxs.role = true → scopeOf cause origin.isNode = .info →
      Completes (.faultReceive dt .dxs) dt fp s fun n => n.dxs.node.forwarded = key :: b.dxs.node.forwarded ∧
        ∀ p, p ∈ b.portsOf roleCross ∨ b.dxs.quorum = some p → MarkOffered b n .dxs p r.mark) ∧
    (b.dxs.node.forwarded.contains key = false → isTriad b.dxs.role = true → scopeOf cause origin.isNode = .self →
      (∀ e ∈ b.dxs.hub.fq.evidence, e.cause ≠ cause ∨ e.about ≠ some origin ∨ e.end1 ≠ origin ∨ e.port ≠ port) →
      Completes (.faultReceive dt .dxs) dt fp s fun n =>
        n.dxs.hub.fq.evidence = b.dxs.hub.fq.evidence ++ [⟨cause, some origin, origin, port, at_⟩] ∧
          (origin ≠ Part.dxs b.dxs.nodeNo → b.faulty (Part.dxs b.dxs.role.voter) = false →
            ∃ v ∈ n.dxs.hub.fq.votes, v.voter = b.dxs.role.voter ∧ v.subject = origin)) ∧
    (b.dxs.node.forwarded.contains key = false → isTriad b.dxs.role = true → cause = Cause.pathUp →
      Completes (.faultReceive dt .dxs) dt fp s fun n =>
        n.dxs.hub.fq.evidence = b.dxs.hub.fq.evidence.filter fun e => !b.onLink e origin port)) ∧
  (∀ w, b.faultHeld .dxs Cause.selfReport noPort = false →
    Completes (.selfReport dt .dxs w) dt (faultFoot .dxs) s fun n =>
      n.reg .dxs Reg.DXS_FQ_RAISE = w ∧ Counted b n .dxs Reg.DXS_FQ_FAULT_TX_CNT 0 1 ∧
        ∀ p ∈ b.faultPorts, MarkOffered b n .dxs p
          (mkMark .fault b.dxs.nodeNo 0 (b.ht .dxs) (0x8000 + noPort * 256 + Cause.selfReport))) ∧
  (∀ w, b.faultHeld .dxt Cause.selfReport noPort = false →
    Completes (.selfReport dt .dxt w) dt (faultFoot .dxt) s fun n =>
      n.reg .dxt Reg.DXT_FQ_RAISE = w ∧ Counted b n .dxt Reg.DXT_FQ_FAULT_CNT 0 1 ∧ n.dxt.lastCause = Cause.selfReport ∧
        ∀ p, p < 2 → b.upPort .dxt p = true → MarkOffered b n .dxt p
          (mkMark .fault (b.reg .dxt Reg.FP_DIE).toNat (if b.dxt.step.st = .unbound then 0 else b.dxt.step.next - 1) (b.ht .dxt)
            (noPort * 256 + Cause.selfReport))) ∧
  (∀ w, b.faultHeld .dxs Cause.selfReport noPort = true →
    Completes (.selfReport dt .dxs w) dt (faultFoot .dxs) s fun n =>
      n.dxs.node.ports = b.dxs.node.ports ∧ Counted b n .dxs Reg.DXS_FQ_SUPPRESS_CNT 0 1) ∧
  (∀ sd p, (b.port sd p).st = .up → (b.port sd p).rx.hbMiss = false → b.hbPairs sd ≤ (b.port sd p).rx.sinceIdle →
    Completes (.hbMiss dt sd p) dt (faultFoot sd) s fun n =>
      (n.port sd p).rx.hbMiss = true ∧ (n.port sd p).pathOut = true ∧ (n.port sd p).st = .up ∧
        (sd = .dxs → Counted b n .dxs Reg.DXS_FQ_HB_MISS_CNT 0 1))

/-- R290 to R293, R299: votes, what the recorder decides and records on them, a fence on its way, and the stored epoch. It rests on
the model's own: log entries 14 and 179 (DESIGN CHOICE), log entries 102 and 124 (DEDUCED). -/
def Obligations.VotesAndVerdicts : Prop := ∀ (s : State) (dt : Nat),
  let b := s.hall.elapse dt
  let q := b.dxs.hub.fq
  let noted (v : Vote) (l : List Vote) : List Vote :=
    if l.any (fun x => x.voter == v.voter && x.subject == v.subject) then l else l ++ [v]
  (∀ r rest, InboxHead b .dxs .vote r rest → isTriad b.dxs.role = true →
    let x := b.dieNamed r.mark.obj.toNat
    let voter := r.mark.arg.toNat % 4
    Completes (.voteReceive dt) dt [.inbox .dxs, .quorum] s fun n =>
      n.dxs.node.inbox = rest ∧ n.dxs.hub.fq.evidence = q.evidence ∧
        n.dxs.hub.fq.votes = if bit r.mark.arg.toNat 2 then noted ⟨voter, x, 0, expandStamp (b.ht .dxs) r.mark.stamp, n.now⟩ q.votes
          else q.votes.filter fun v => !(v.voter == voter && v.subject == x)) ∧
  (∀ w, isTriad b.dxs.role = true →
    let x := Part.dxs (fld w 15 0)
    let voter := fld w 17 16
    Completes (.nvoteWrite dt w) dt [.regs .dxs, .quorum] s fun n =>
      n.reg .dxs Reg.DXS_FQ_NVOTE = w &&& 0x8003FFFF ∧ OtherRegs b n .dxs [regKey 0 Reg.DXS_FQ_NVOTE] ∧
        n.dxs.hub.fq.votes = if wbit w 31 then noted ⟨voter, x, 0, b.ht .dxs, n.now⟩ q.votes
          else q.votes.filter fun v => !(v.voter == voter && v.subject == x)) ∧
  (∀ isNode subj v, let x : Part := ⟨isNode, subj⟩
    b.votesOn x = [v] → b.recorder (some x) = true → b.faulty x = false → v.since + b.loneTo ≤ b.now →
    (∀ d ∈ q.due, d.1 ≠ x) →
    (b.presentVoters.length = 2 → Completes (.loneVoteExpire dt isNode subj) dt [.quorum] s fun n =>
      n.dxs.hub.fq = { q with due := q.due ++ [(x, Vk.faulty)] }) ∧
    (b.presentVoters.length = 3 → x ∉ q.disputed → Completes (.loneVoteExpire dt isNode subj) dt [.quorum] s fun n =>
      n.dxs.hub.fq = { q with due := q.due ++ [(x, Vk.disputed)], disputed := x :: q.disputed })) ∧
  (∀ isNode subj kind, let x : Part := ⟨isNode, subj⟩
    (q.due.find? fun d => d.1 == x) = some (x, kind) →
    let fp : Foot := [.clk .dxs, .regs .dxs, .ports .dxs, .inbox .dxs, .sheets .dxs, .dma .dxs, .eyes .dxs, .raised .dxs,
        .root, .instances, .dones, .folds, .jobs, .path, .sess, .quorum, .binder, .gaAudit, .gaOver, .host, .free]
    (kind = Vk.disputed → Completes (.verdictRecord dt isNode subj) dt fp s fun n =>
      ∃ v, n.dxs.hub.fq.log = (v :: q.log).take 1024 ∧ v.seq = (q.seq + 1) % 2 ^ 32 ∧ v.kind = Vk.disputed ∧ v.part = some x ∧
        v.stamp = b.ht .dxs % 2 ^ 64 ∧ n.dxs.hub.fq.seq = v.seq ∧ Counted b n .dxs Reg.DXS_FQ_LONE_CNT 0 1 ∧
        Counted b n .dxs Reg.DXS_FQ_VERDICT_CNT 0 1 ∧ n.dxs.hub.jobs = b.dxs.hub.jobs) ∧
    let noOther := ∀ v, v < 3 → v ≠ b.dxs.role.voter → bit (b.reg .dxs Reg.DXS_FQ_QUORUM).toNat v = false ∨ x = Part.dxs v
    (∀ v, kind = Vk.faulty → v < 3 → v ≠ b.dxs.role.voter → b.voterPresent v = true → x ≠ Part.dxs v →
      Completes (.verdictRecord dt isNode subj) dt fp s fun n =>
        (∃ c, n.dxs.hub.fq.acts = q.acts ++ [((q.seq + 1) % 2 ^ 32, .fault x c)]) ∧ n.dxs.hub.fq.fences = q.fences ∧
          n.dxs.hub.jobs = b.dxs.hub.jobs ∧ n.dxs.root = b.dxs.root) ∧
    (∀ r, kind = Vk.faulty → noOther → q.acts = [] → b.recOfPart x = some r → Completes (.verdictRecord dt isNode subj) dt fp s fun n =>
      (∃ v ∈ n.dxs.hub.fq.log, v.seq = (q.seq + 1) % 2 ^ 32 ∧ v.kind = Vk.faulty ∧ v.part = some x ∧
        v.fence = (b.fenceOf r + 1) % 65536) ∧ n.fenceOf r = (b.fenceOf r + 1) % 65536 ∧
        let d := b.topo.die r
        (d.bound = true → (b.job d.job).loaded = true → (b.job d.job).st ≠ .halted → (b.job d.job).rst.st = .none →
          b.reg .dxs Reg.DXS_FQ_J_SEALED d.job ≠ 0 →
          (n.job d.job).rst.st = .stopped ∧ n.reg .dxs Reg.DXS_FQ_J_TARGET d.job = b.reg .dxs Reg.DXS_FQ_J_SEALED d.job)) ∧
    (kind = Vk.faulty → noOther → q.acts = [] → x = Part.dxs b.otherRoot → isRoot b.dxs.role = true →
      Completes (.verdictRecord dt isNode subj) dt fp s fun n =>
        if b.actingRoot then n.actingRoot = true ∧ n.dxs.hub.path.solo = true else n.dxs.root.roleDue = some true)) ∧
  (∀ r rest, InboxHead b .dxs .fence r rest →
    let rec_ := r.mark.obj.toNat
    Completes (.fenceReceive dt) dt [.regs .dxs, .ports .dxs, .inbox .dxs, .quorum] s fun n =>
      n.dxs.node.inbox = rest ∧ n.fenceOf rec_ = r.mark.arg.toNat ∧
        (b.dxs.role = .memberC → n.dxs.node.ports = b.dxs.node.ports) ∧
        ∀ p, b.dxs.role ≠ .memberC → b.portToRec rec_ = some p →
          if (b.entryOf p).kind = 2 then n.reg .dxs Reg.SP_EPOCH p = w32 r.mark.arg.toNat
          else MarkOffered b n .dxs p r.mark) ∧
  (∀ w, isRoot b.dxs.role = true →
    let j := (b.reg .dxs Reg.DXS_FQ_JOBSEL).toNat
    (∃ c ∈ (b.job j).slots, c.epoch ≠ 0 ∧ c.fits = true ∧ c.epoch % 2 ^ 32 = w.toNat) →
    Completes (.jStoredWrite dt w) dt [.regs .dxs] s fun n =>
      n.reg .dxs Reg.DXS_FQ_J_STORED j = w ∧ OtherRegs b n .dxs [regKey j Reg.DXS_FQ_J_STORED])

/-! ### The commands of the mailboxes -/

/-- R36, R219, R226, R265, R275, R278, R279, R300 to R302, R313: the commands that load, start, pause, resume, save, restore,
restart and unload a job. A command that writes at other nodes waits for those writes, and one that binds dies for their relock. It
rests on the model's own: log entries 29, 74, 75, 79, 80, 81 and 183 (DEDUCED), log entry 178 (DESIGN CHOICE). -/
def Obligations.JobCommands : Prop := ∀ (s : State) (dt mb : Nat),
  let b := s.hall.elapse dt
  let j := b.cmdJob mb
  let x := b.job j
  let bs := b.buf mb
  let is cmd := Commanded b mb cmd
  (∀ base unready, is Cmd.jobLoad → b.chanAble .dxs chanMbox = true → b.checkLoad j bs = .ok base →
    b.diesUnready j unready = false →
    Completes (.jobLoad dt ⟨mb, unready⟩) dt [.regs .dxs, .ports .dxs, .sheets .dxs, .dma .dxs, .regs .dxt, .dma .dxt, .step, .die, .jobs,
      .prog, .binder, .mbox] s fun n =>
      AnsweredCopied n mb ∧ n.reg .dxs Reg.FT_PERIOD j = w32 (pPeriod bs) ∧ n.reg .dxs Reg.FT_LEAD j = w32 (pLead bs) ∧
        n.reg .dxs Reg.FT_DELIVERY j = w32 (pDelivery bs) ∧ n.reg .dxs Reg.DXS_FQ_J_SEALED j = 0 ∧
        (∀ i, i < pLen bs → nget progZero n.dxs.hub.prog (base + i) = leAt bs (64 + 8 * i) 8) ∧
        (∀ i, i < base ∨ base + pLen bs ≤ i → nget progZero n.dxs.hub.prog i = nget progZero b.dxs.hub.prog i) ∧
        JobIs b n j fun y => y.st = .loaded ∧ y.base = base ∧ y.len = pLen bs ∧ y.pc = leAt bs 6 2 ∧ y.ipf = pIpf bs ∧
          y.seed = leAt bs 24 8 ∧ y.sess = bit (leAt bs 3 1) 0 ∧ y.record = bit (leAt bs 3 1) 1 ∧
          y.replay = bit (leAt bs 3 1) 2) ∧
  (∀ base unready, is Cmd.jobLoad → b.chanAble .dxs chanMbox = true → b.checkLoad j bs = .ok base →
    b.diesUnready j unready = true →
    Completes (.jobLoad dt ⟨mb, unready⟩) dt [.dma .dxs, .regs .dxs, .mbox] s fun n => PageDone n mb Cs.notReady) ∧
  (is Cmd.jobStart → x.st = .loaded → Completes (.jobStart dt mb) dt [.jobs, .mbox] s fun n =>
    let start := ceilGrid (max (htOfBytes (b.page mb 32 12) 0) (b.ht .dxs + b.ftLead j))
    PageDone n mb Cs.ok ∧ n.page mb 48 12 = htBytes start ∧ JobOnly b n j { x with st := .deciding, start := start }) ∧
  (is Cmd.jobStart → x.st ≠ .loaded → Completes (.jobStart dt mb) dt [.jobs, .mbox] s fun n =>
    PageDone n mb Cs.jobState ∧ n.dxs.hub.jobs = b.dxs.hub.jobs) ∧
  (is Cmd.jobPause → b.isAccepted mb = false → x.active = true → x.stopped = false →
    Completes (.jobPause dt mb) dt [.jobs, .binder, .mbox] s fun n =>
      n.own mb = Own.taken ∧ n.isAccepted mb = true ∧
        JobOnly b n j { x with deferred := if x.deferred = 0 then Pstat.hostPause else x.deferred }) ∧
  (is Cmd.jobPause → b.isAccepted mb = true → x.stopped = false → x.st = .paused →
    Completes (.jobPause dt mb) dt [.jobs, .binder, .mbox] s fun n =>
      PageDone n mb Cs.ok ∧ n.isAccepted mb = false ∧ n.pageAt mb 32 8 = (x.folio % 2 ^ 64).toNat ∧
        n.dxs.hub.jobs = b.dxs.hub.jobs) ∧
  (is Cmd.jobPause → b.isAccepted mb = false → x.active = false ∨ x.stopped = true →
    Completes (.jobPause dt mb) dt [.jobs, .binder, .mbox] s fun n =>
      PageDone n mb Cs.jobState ∧ n.dxs.hub.jobs = b.dxs.hub.jobs) ∧
  (is Cmd.jobResume → x.st = .paused → x.stopped = false → b.binding j = false →
    let start := ceilGrid (b.ht .dxs + b.ftLead j)
    let logs := if x.resumed.logging then x.logs else []
    let fp : Foot := [.regs .dxs, .ports .dxs, .inbox .dxs, .dma .dxs, .raised .dxs, .instances, .dones, .folds, .jobs, .path,
        .sess, .gaAudit, .gaOver, .mbox, .host]
    (∀ p, b.runsJob j = true → b.soloNow = false → b.crossPort = some p →
      (b.port .dxs p).st.discards = false → b.logFits j (bytesOf logs) = true →
      b.evFits (32 * x.events.length) = true → Completes (.jobResume dt mb) dt fp s fun n =>
      PageDone n mb Cs.ok ∧ n.page mb 48 12 = htBytes start ∧
        (∃ ss, ss ≠ [] ∧ (n.port .dxs p).sh.queue = (b.port .dxs p).sh.queue ++ ss ∧ ∀ q ∈ ss, q.typ = tDecision) ∧
        ∃ d, d.ending = .commit ∧ start ≤ d.tgo ∧ d.list = x.resumeList j ∧ d.dseq = some b.dxs.hub.path.dseq ∧
          JobOnly b n j { x.resumed with dec := some d, wait := .ending, touched := [], touchedT := [] })) ∧
  (is Cmd.jobUnload → x.active = false ∨ x.stopped = true →
    Completes (.jobUnload dt mb) dt [.regs .dxs, .ports .dxs, .sheets .dxs, .dma .dxs, .step, .instances, .dones, .defs,
        .folds, .jobs, .path, .sess, .binder, .mbox, .host] s fun n =>
      PageDone n mb Cs.ok ∧ JobOnly b n j Job.reset ∧ ∀ i, (n.sess i).job = j → (n.sess i).st = Sess.free) ∧
  (∀ held lacking, is Cmd.jobSave → x.st = .paused → x.stopped = false → b.egressOpen j held = false → b.undecided j = false →
    b.undelivered j lacking = false → b.chanAble .dxs chanMbox = true →
    let img := b.jobImage j x.folio
    let a := b.pageAt mb 20 8
    img.length ≤ b.pageAt mb 28 4 →
    Completes (.jobSave dt ⟨mb, held, lacking⟩) dt [.regs .dxs, .dma .dxs, .mbox, .host] s fun n =>
      PageDone n mb Cs.ok ∧ n.pageAt mb 12 4 = img.length ∧ n.hostRead a img.length = img ∧
        ∀ i, i < a ∨ a + img.length ≤ i → memRead n.dxs.hub.host i = memRead b.dxs.hub.host i) ∧
  (∀ held lacking, is Cmd.jobSave → x.st = .paused → x.stopped = false →
    (b.egressOpen j held = true → Completes (.jobSave dt ⟨mb, held, lacking⟩) dt [.mbox] s fun n => PageDone n mb Cs.egressOpen) ∧
    (b.egressOpen j held = false → b.undecided j = true ∨ b.undelivered j lacking = true →
      Completes (.jobSave dt ⟨mb, held, lacking⟩) dt [.mbox] s fun n => PageDone n mb Cs.gathOpen)) ∧
  (∀ base ss geoms, is Cmd.jobRestore → b.isAccepted mb = false → b.chanAble .dxs chanMbox = true →
    let prog := bs.take (b.arg mb 0 4)
    let img := bs.drop (b.arg mb 0 4)
    b.checkLoad j prog = .ok base → imageSections img = some ss → b.imageRefused j prog img ss geoms = none →
    Completes (.jobRestore dt ⟨mb, geoms⟩) dt [.regs .dxs, .ports .dxs, .sheets .dxs, .dma .dxs, .regs .dxt, .dma .dxt, .step, .die,
        .instances, .defs, .folds, .jobs, .prog, .sess, .binder, .mbox, .host, .free] s fun n =>
      AnsweredBound n mb j ∧ n.reg .dxs Reg.GA_RANGE j = w32 (leAt (sectionOf ss 1) 172 4) ∧
        n.reg .dxs Reg.FT_PERIOD j = w32 (leAt img 48 4) ∧
        JobIs b n j fun y => y.st = .paused ∧ y.restored = true ∧ y.sn = (imgSn img).toNat ∧ y.base = base ∧
          y.pc = leAt (sectionOf ss 1) 0 2 ∧ y.epoch = leAt (sectionOf ss 1) 32 8 ∧
          ∀ i, i < 16 → y.word i = leAt (sectionOf ss 1) (40 + 8 * i) 8) ∧
  (∀ geoms unready, b.takenCmd mb = some Cmd.jobRestore ∨ b.takenCmd mb = some Cmd.jobRestart → b.isAccepted mb = true →
    Completes (if b.takenCmd mb = some Cmd.jobRestore then .jobRestore dt ⟨mb, geoms⟩ else .jobRestart dt ⟨mb, geoms, unready⟩) dt
      [.binder, .mbox] s fun n => AnsweredBound n mb j) ∧
  (∀ i pos r geoms unready, is Cmd.jobRestart → b.isAccepted mb = false → b.pairs mb = [(i, pos)] → b.recAtPos pos = some r →
    b.restartRefused j [(i, pos)] geoms unready = none →
    Completes (.jobRestart dt ⟨mb, geoms, unready⟩) dt [.regs .dxs, .ports .dxs, .sheets .dxs, .dma .dxs, .regs .dxt, .dma .dxt, .step, .die,
      .instances, .defs, .folds, .jobs, .sess, .quorum, .binder, .mbox, .host] s fun n =>
      AnsweredBound n mb j ∧ (n.topo.die r).bound = true ∧ (n.topo.die r).idx = i ∧ (n.topo.die r).job = j ∧
        JobIs b n j fun y => y.rst.st = .restoring ∧ i ∉ y.rst.expelled) ∧
  (is Cmd.restoreDone → x.rst.st = .restoring → (∀ i ∈ b.indices mb, i ∈ b.jobDies j) →
    let left := x.rst.left.filter fun i => !(b.indices mb).contains i
    let fp : Foot := [.regs .dxs, .ports .dxs, .sheets .dxs, .dma .dxs, .instances, .dones, .defs, .folds, .jobs, .path,
        .sess, .binder, .mbox, .host, .free]
    (left ≠ [] ∨ x.rst.expelled ≠ [] → Completes (.restoreDone dt mb) dt fp s fun n =>
      PageDone n mb Cs.ok ∧ n.pageAt mb 40 4 = left.length % 2 ^ 32 ∧ JobOnly b n j { x with
        rst := { x.rst with
          left := left, exposed := x.rst.exposed.filter fun i => !(b.indices mb).contains i } }) ∧
    (∀ c img ss, left = [] → x.rst.expelled = [] → b.target j = some (c, img) → imageSections img = some ss →
      Completes (.restoreDone dt mb) dt fp s fun n =>
        AnsweredCopied n mb ∧ n.pageAt mb 40 4 = 0 ∧
          n.reg .dxs Reg.FT_PERIOD j = w32 (b.restartPeriod j img) ∧ JobIs b n j fun y =>
            y.rst.st = .ready ∧ y.st = .paused ∧ y.sn = (imgSn img).toNat ∧ y.table = x.table)) ∧
  (∀ unready, b.copying mb = true → b.isAccepted mb = false →
    Completes (.jobLoad dt ⟨mb, unready⟩) dt [] s (fun _ => True) ∧ Completes (.restoreDone dt mb) dt [] s (fun _ => True))

/-- R304, R305, R310 to R314, R321: the binder takes what the host has posted; and the commands STATUS, TOPO_LOAD, REINSTATE,
HANDBACK, FUNC_REINIT, PTP_CONFIG and REMOTE; a change of role takes effect at the column boundary. It rests on the model's own: log
entries 22, 28 and 114 (DESIGN CHOICE), log entries 59, 85 and 137 (DEDUCED). -/
def Obligations.HallCommands : Prop := ∀ (s : State) (dt mb : Nat),
  let b := s.hall.elapse dt
  let is cmd := Commanded b mb cmd
  (mb < 16 → b.hub.bn.boot = 1 → b.own mb = Own.posted → (∀ m, m < 16 → m ≠ mb → b.own m ≠ Own.posted) →
    let cmd := b.pageAt mb 16 2
    let cls := b.pageAt mb 8 1
    let bare := b.pageAt mb 9 1 = 0 ∧ b.pageAt mb 19 1 = 0
    (cls = 0 → bare → cmd ≠ 0 → cmd ≤ Cmd.status → b.actingRoot = true → b.cmdBusy mb = false →
      Completes (.mailboxPoll dt) dt [.regs .dxs, .binder, .mbox] s fun n =>
        n.takenCmd mb = some cmd ∧ Counted b n .dxs Reg.BN_MB_CMD_CNT 0 1 ∧ OtherRegs b n .dxs [regKey 0 Reg.BN_MB_CMD_CNT]) ∧
    (cls = 0 → bare → cmd ≠ 0 → cmd < Cmd.status → cmd ≠ Cmd.remote → b.actingRoot = false →
      Completes (.mailboxPoll dt) dt [.regs .dxs, .binder, .mbox] s fun n => PageDone n mb Cs.notActing) ∧
    (cls = 1 → b.pageAt mb 16 4 = 0 → 1 ≤ b.nrec mb → b.nrec mb ≤ 64 → b.actingRoot = true → recBad (b.page mb 64 48) = false →
      Completes (.mailboxPoll dt) dt [.regs .dxs, .binder, .mbox] s fun n => n.nextRec mb = some (b.page mb 64 48))) ∧
  (∀ off w, mb < 16 → off < 4096 → b.sm.perst = true → b.sm.powered = true → b.sm.prst = true →
    (b.own mb = Own.host ∨ b.own mb = Own.done →
      Completes (.mailboxHostWrite dt mb off w) dt [.regs .dxs, .mbox] s fun n =>
        n.pageAt mb (off / 4 * 4) 4 = (if off / 4 = 0 then w.toNat % 4 else w.toNat) ∧
          ∀ a, a < mb * 4096 + off / 4 * 4 ∨ mb * 4096 + off / 4 * 4 + 4 ≤ a →
            memRead n.dxs.hub.mbox a = memRead b.dxs.hub.mbox a) ∧
    (b.own mb = Own.posted ∨ b.own mb = Own.taken →
      Completes (.mailboxHostWrite dt mb off w) dt [.regs .dxs, .mbox] s fun n =>
        n.dxs.hub.mbox = b.dxs.hub.mbox ∧ Counted b n .dxs Reg.BN_MB_WR_DROP_CNT 0 1)) ∧
  (is Cmd.status → Completes (.status dt mb) dt [.mbox] s fun n =>
    PageDone n mb Cs.ok ∧ n.pageAt mb 32 4 = (b.regRead .dxs Reg.BN_STATUS).toNat ∧
      n.pageAt mb 36 4 = (b.regRead .dxs Reg.BN_FW).toNat ∧ n.pageAt mb 40 4 = (b.regRead .dxs Reg.BN_TOPO).toNat) ∧
  (let bs := b.buf mb;
    is Cmd.topoLoad → b.loadedJobs = [] → b.chanAble .dxs chanMbox = true → topoIntact bs = true →
    (topoOf bs).consistent = true → b.recMatches (topoOf bs) = true →
    Completes (.topoLoad dt mb) dt [.regs .dxs, .ports .dxs, .inbox .dxs, .sheets .dxs, .dma .dxs, .eyes .dxs, .raised .dxs,
      .ident, .quorum, .binder, .mbox, .host] s fun n =>
      AnsweredCopied n mb ∧ n.dxs.hub.bn.topo = some (topoOf bs) ∧ n.dxs.hub.bn.slice = true ∧ n.dxs.hub.fq.fences = [] ∧
        n.pageAt mb 12 4 = bs.length % 2 ^ 32 ∧ n.pageAt mb 32 4 = (topoOf bs).crc % 2 ^ 32) ∧
  (∀ p, is Cmd.reinstate → b.reinstated mb = some p → b.answersAgain p = true →
    Completes (.reinstate dt mb) dt [.regs .dxs, .ports .dxs, .inbox .dxs, .sheets .dxs, .dma .dxs, .eyes .dxs, .raised .dxs,
      .path, .quorum, .binder, .mbox, .host] s fun n =>
      PageDone n mb Cs.ok ∧ n.pageAt mb 40 4 = (b.dxs.hub.fq.seq + 1) % 2 ^ 32 ∧
        (p = Part.dxs b.otherRoot → n.dxs.hub.path.solo = false) ∧
        ∃ v, n.dxs.hub.fq.log = (v :: b.dxs.hub.fq.log).take 1024 ∧ v.kind = Vk.reinstate ∧ v.part = some p ∧
          v.seq = (b.dxs.hub.fq.seq + 1) % 2 ^ 32) ∧
  (is Cmd.handback →
    (b.dxs.role = .rootB → b.actingRoot = true → b.partnerLocked = true → Completes (.handback dt ⟨mb, none⟩) dt [.root, .mbox] s fun n =>
      PageDone n mb Cs.ok ∧ n.dxs.root = { b.dxs.root with roleDue := some false }) ∧
    (b.dxs.role ≠ .rootB ∨ b.actingRoot = false ∨ b.partnerLocked = false → Completes (.handback dt ⟨mb, none⟩) dt [.mbox] s fun n =>
      PageDone n mb Cs.handbackRefused)) ∧
  (∀ ok role, isRoot b.dxs.role = true → b.dxs.root.roleDue = some role →
    Completes (.domainSelect dt .dxs ok) dt [.clk .dxs, .regs .dxs, .ports .dxs, .dma .dxs, .raised .dxs, .quality, .root, .jobs, .sess,
      .host] s fun n => n.actingRoot = role ∧ n.dxs.root.roleDue = none) ∧
  (∀ h : RootHand, b.dxs.role = .rootA → b.actingRoot = false →
    ((b.clk .dxs).lock = .locked → Completes (.handback dt ⟨mb, some h⟩) dt [.clk .dxs, .root, .jobs] s fun n =>
      n.actingRoot = true ∧ (n.clk .dxs).hold = false ∧ n.dxs.root.i48 = h.2.1 ∧ n.dxs.root.sel = h.2.2.1) ∧
    ((b.clk .dxs).lock ≠ .locked → Completes (.handback dt ⟨mb, some h⟩) dt [] s fun _ => True)) ∧
  (is Cmd.funcReinit →
    let f := b.pageAt mb 32 1
    let p := b.pageAt mb 33 1
    (f = 1 → p < 48 → Completes (.funcReinitPort dt mb) dt
      [.regs .dxs, .ports .dxs, .inbox .dxs, .sheets .dxs, .eyes .dxs, .raised .dxs, .mbox] s fun n =>
      PageDone n mb Cs.ok ∧ (n.port .dxs p).st = .train ∧ (n.port .dxs p).latFail = false ∧ bit (n.portCtrl .dxs p) 0 = true ∧
        ∀ i, i ≠ p → (n.port .dxs i).st = (b.port .dxs i).st) ∧
    (f = 2 → (∀ j ∈ b.loadedJobs, (b.job j).sess = false ∨ (b.job j).active = false) →
      Completes (.funcReinitSession dt mb) dt [.sess, .mbox] s fun n =>
        PageDone n mb Cs.ok ∧ n.dxs.hub.ss = { b.dxs.hub.ss with kills := [], relayed := [], audit := [] }) ∧
    (f = 3 → Completes (.funcReinitFold dt mb) dt [.folds, .mbox] s fun n =>
      PageDone n mb Cs.ok ∧ n.dxs.hub.fd.msgs = [] ∧ n.dxs.hub.fd.formed = [] ∧
        ∀ e, e < 32 → (n.eng e).run = none ∧ (n.eng e).queue = [] ∧ (n.eng e).kat = true ∧ (n.eng e).katFail = (b.eng e).katFail) ∧
    (f = 4 → Completes (.funcReinitDma dt mb) dt [.regs .dxs, .dma .dxs, .sram .dxs, .mbox, .host, .free] s fun n =>
      PageDone n mb Cs.ok ∧
        (∀ c, c < 16 → (b.chan .dxs c).st = .halted → wbit (b.cReg .dxs c 0) 31 = true →
          wbit (n.cReg .dxs c 0) 31 = false ∧ ((n.chan .dxs c).st = .idle ∨ (n.chan .dxs c).st = .draining)) ∧
        ∀ c, (b.chan .dxs c).st ≠ .halted → n.chan .dxs c = b.chan .dxs c)) ∧
  (is Cmd.ptpConfig → ptpArgsOk (b.page mb 32 32) = true → b.ptpClash (b.pageAt mb 32 1) = false →
    let slot := b.pageAt mb 32 1
    Completes (.ptpConfig dt mb) dt [.root, .mbox] s fun n =>
      PageDone n mb Cs.ok ∧ ∃ c, n.dxs.root = { b.dxs.root with ptp := b.dxs.root.ptp.set slot c } ∧ c.on = true ∧
        c.transport = b.pageAt mb 33 1 ∧ c.eth = (if slot < 2 then b.candEth (4 + slot) else slot - 2) ∧
        c.domain = if slot < 2 then b.rf .dxs Reg.RF_P_CFG 15 8 (4 + slot) else 0) ∧
  (is Cmd.remote → b.dxs.hub.bn.rem = [] →
    let op := b.pageAt mb 32 1 % 4
    let kind := b.pageAt mb 33 1
    let count := b.pageAt mb 34 2
    let target := if kind = 1 then b.pageAt mb 36 4 else b.pageAt mb 36 4 % 65536
    let addr := b.pageAt mb 40 4
    op ≠ 0 → kind ≤ 2 → 1 ≤ count → count ≤ 55 → (op = 3 → count = 2) → addr % 4 = 0 →
    Completes (.remote dt mb) dt [.ports .dxs, .sheets .dxs, .binder, .mbox] s fun n =>
      n.dxs.hub.mbox = b.dxs.hub.mbox ∧ n.dxs.hub.bn.remTag = (b.dxs.hub.bn.remTag + 1) % 65536 ∧
        ∃ t, n.dxs.hub.bn.rem = [t] ∧ t.tag = b.dxs.hub.bn.remTag ∧ t.op = op ∧ t.target = target ∧ t.addr = addr ∧
          t.count = count ∧ t.for_ = .mailbox mb ∧ t.sentAt = some n.now) ∧
  (is Cmd.gatherDefine →
    let d := b.page mb 64 32
    let l := listsOf d (b.page mb 96 4000)
    let g := leAt d 0 2
    let x : GDef := ⟨d, sortNat (b.membersOf d l), sortNat l.dests, 0, [], []⟩
    gdCount d ≤ inlineMax → b.gatherRefused d l = none → b.foldRefused g x = none →
    (b.blocksShort g x = 0 → Completes (.gatherDefine dt mb) dt [.regs .dxs, .ports .dxs, .sheets .dxs, .dma .dxs, .instances, .defs,
        .folds, .binder, .mbox] s fun n =>
      AnsweredCopied n mb ∧ (∃ y, n.gdef g = some y ∧ y.bytes = d ∧ y.members = x.members ∧ y.dests = x.dests ∧
        y.plan = b.topo.plan b.dxs.nodeNo (gdJob d) x.members ∧ n.reg .dxs Reg.GA_EXPECT g = w32 y.expect) ∧
        (∀ i, i ≠ g → n.gdef i = b.gdef i) ∧ n.reg .dxs Reg.GA_N g = w32 (gdN d) ∧ n.reg .dxs Reg.GA_K g = w32 (gdK d) ∧
        n.reg .dxs Reg.GA_DEADLINE g = w32 (gdDeadline d)) ∧
    (0 < b.blocksShort g x → Completes (.gatherDefine dt mb) dt [.folds] s fun n =>
      n.dxs.hub.fd = { b.dxs.hub.fd with
        recalled := b.blocksShort g x, waiters := (mb :: b.dxs.hub.fd.waiters).eraseDups })) ∧
  (is Cmd.foldDefine →
    let i := b.pageAt mb 32 2
    let d := b.page mb 64 32
    b.descRefused i d = none →
    Completes (.foldDefine dt mb) dt [.regs .dxs, .ports .dxs, .sheets .dxs, .defs, .binder, .mbox] s fun n =>
      AnsweredCopied n mb ∧ n.reg .dxs Reg.DXS_FD_D_D i = w32 (leAt d 6 2) ∧
        n.reg .dxs Reg.DXS_FD_D_ROWS i = w32 (leAt d 8 4) ∧ n.reg .dxs Reg.DXS_FD_D_COLS i = w32 (leAt d 12 4) ∧
        wbit (n.reg .dxs Reg.DXS_FD_D_OP i) 31 = true)

/-- R315 to R318, R325: a target runs the request received first and answers it with its data and a REMOTE mark; the origin ends the
transaction on the mark, or at its time limit; a copy of what a command has stored is kept; and LOG records are kept, or dropped
after 1 s. It rests on the model's own: log entries 15, 112, 124 and 182 (DEDUCED), log entries 113 and 120 (DESIGN CHOICE). -/
def Obligations.RemoteAccess : Prop := ∀ (s : State) (dt : Nat),
  let b := s.hall.elapse dt
  let reply (c : Block) (q : RemReq) (sd : Side) (status done : Nat) : Mark := mkMark .remote q.tag 0 (c.ht sd) (done * 256 + status)
  (∀ sd r rest, (b.node sd).rxSheets = r :: rest → r.sheet.typ = tRemoteReq → r.port ≠ ownPort →
    let q := remReq r
    let b0 := (b.updNode sd fun x => { x with rxSheets := rest }).freeCredits sd r.port r.sheet.chan (b2n r.booked)
    let rd := Foot.sided sd [.inbox .dxs, .sheets .dxs, .regs .dxt, .ports .dxt, .sheets .dxt]
      [.regs .dxs, .ports .dxs, .inbox .dxs, .sheets .dxs]
    let wr := Foot.sided sd [.regs .dxs, .inbox .dxs, .sheets .dxs, .clk .dxt, .regs .dxt, .ports .dxt, .sheets .dxt,
      .dma .dxt, .raised .dxt, .die, .sync, .binds, .lastCause] [.clk .dxs, .regs .dxs, .ports .dxs, .inbox .dxs,
      .sheets .dxs, .convs .dxs, .dma .dxs, .eyes .dxs, .raised .dxs, .ident, .root, .meas, .instances, .dones, .defs, .folds, .jobs,
      .prog, .sess, .quorum, .binder, .host, .free]
    let gd := Foot.sided sd [.regs .dxs, .inbox .dxs, .sheets .dxs, .clk .dxt, .regs .dxt, .ports .dxt, .sheets .dxt,
      .dma .dxt, .raised .dxt, .die, .sync, .binds, .lastCause] [.clk .dxs, .regs .dxs, .ports .dxs, .inbox .dxs,
      .sheets .dxs, .convs .dxs, .dma .dxs, .raised .dxs, .root, .meas, .jobs, .quorum, .binder]
    (q.op = 1 → b.reqInWindow sd q = true → Completes (.remoteRead dt sd) dt rd s fun n =>
      (n.node sd).rxSheets = rest ∧ OtherRegs b n sd [regKey q.port Reg.SP_QFULL_CNT] ∧
        MarkQueued b n sd q.port (reply b q sd 0 q.count) ∧
        SheetsQueued b n sd (b0.responsePort sd q) (sheetsOf tRemoteRsp q.tag q.origin false
          (q.head ++ ((List.range q.count).map fun i => b0.regRead sd (q.addr + 4 * i)).flatMap fun w => leBytes 4 w.toNat))) ∧
    (q.op = 1 → b.reqInWindow sd q = false → Completes (.remoteRead dt sd) dt rd s fun n =>
      (n.node sd).rxSheets = rest ∧ (n.port sd q.port).sh.queue = (b.port sd q.port).sh.queue ∧
        MarkQueued b n sd q.port (reply b q sd 1 0)) ∧
    (q.op = 2 → b.reqInWindow sd q = true →
      ¬(sd = .dxs ∧ (q.addr = copyAddr ∨ isTriad b.dxs.role = true ∧ q.addr = verdictAddr ∧ q.count = 8)) →
      let w := b0.writeWords sd q.addr (q.words.take q.count)
      Completes (.remoteWrite dt sd) dt wr s fun n =>
        OtherRegs w.2 n sd [regKey q.port Reg.SP_QFULL_CNT] ∧
          MarkQueued w.2 n sd q.port (reply w.2 q sd (if w.1 then 2 else 0) q.count)) ∧
    (q.op = 2 → b.reqInWindow sd q = true → sd = .dxs → isTriad b.dxs.role = true → q.addr = verdictAddr → q.count = 8 →
      let v := b.verdictOf ((q.words.take 8).flatMap fun w => leBytes 4 w.toNat)
      Completes (.remoteWrite dt sd) dt wr s fun n =>
        n.dxs.hub.fq.log = (v :: b.dxs.hub.fq.log).take 1024 ∧ n.reg .dxs Reg.DXS_FQ_VLOG_SEQ = w32 v.seq) ∧
    (q.op = 2 → b.reqInWindow sd q = true → sd = .dxs → q.addr = copyAddr →
      let ws := q.words.take q.count
      let i k := (ws.getD k 0).toNat
      let bs := ((ws.drop 4).flatMap fun w => leBytes 4 w.toNat).take (i 2)
      i 3 = 0 →
      (bs.length < i 2 → Completes (.remoteWrite dt sd) dt wr s fun n => n.dxs.hub.bn.copy = bs ∧ n.dxs.hub.gdefs = b.dxs.hub.gdefs) ∧
      (bs.length = i 2 → i 0 = Ck.gdef → Completes (.remoteWrite dt sd) dt wr s fun n =>
        n.dxs.hub.bn.copy = [] ∧ (∃ y, n.gdef (i 1 % 65536) = some y ∧ y.bytes = (gdefOf bs).bytes ∧
          y.members = (gdefOf bs).members ∧ y.dests = (gdefOf bs).dests ∧ y.plan = (gdefOf bs).plan ∧ y.ports = (gdefOf bs).ports) ∧
          ∀ g, g ≠ i 1 % 65536 → n.gdef g = b.gdef g)) ∧
    (q.op = 3 → b.reqInWindow sd q = true →
      let u := b0.writeWords sd q.addr (q.words.take 1)
      let w := u.2.writeWords sd (q.addr + 4) ((q.words.drop 1).take 1)
      Completes (.remoteGuarded dt sd) dt gd s fun n =>
        OtherRegs w.2 n sd [regKey q.port Reg.SP_QFULL_CNT] ∧
          (u.1 = false → w.1 = false → u.2.openedAt sd q.addr = true →
            w.2.reg sd Reg.CM_GUARD_FAIL_CNT = u.2.reg sd Reg.CM_GUARD_FAIL_CNT →
            MarkQueued w.2 n sd q.port (reply w.2 q sd 0 q.count)))) ∧
  (∀ r rest, InboxHead b .dxs .remote r rest → (∀ x ∈ b.dxs.node.rxSheets, x.sheet.typ ≠ tRemoteRsp) →
    let fp : Foot := remoteEndFoot
    let st := bits r.mark.arg.toNat 7 0
    (∀ t mb, b.dxs.hub.bn.rem = [t] → t.tag = r.mark.obj.toNat → t.sentAt ≠ none → t.for_ = .mailbox mb →
      (t.op ≠ 1 → st ≠ 3 → Completes (.remoteResponse dt) dt fp s fun n =>
        n.dxs.node.inbox = rest ∧ n.dxs.hub.bn.rem = [] ∧
          PageDone n mb (if st = 0 then Cs.ok else if st = 1 then Cs.badAddr else Cs.refused) ∧ n.pageAt mb 48 1 = st) ∧
      (∀ ws, t.op = 1 → st = 0 → t.got = some ws → ws.length = t.count → Completes (.remoteResponse dt) dt fp s fun n =>
        n.dxs.node.inbox = rest ∧ n.dxs.hub.bn.rem = [] ∧ PageDone n mb Cs.ok ∧
          n.page mb 64 (4 * ws.length) = ws.flatMap fun w => leBytes 4 w.toNat)) ∧
    (∀ t seq, b.dxs.hub.bn.rem = [t] → t.tag = r.mark.obj.toNat → t.sentAt ≠ none → t.for_ = .verdict seq → t.op = 2 → st = 0 →
      (∀ x c rec_, b.dxs.hub.fq.acts = [(seq, .fault x c)] → b.recOfPart x = some rec_ →
        Completes (.remoteResponse dt) dt fp s fun n =>
          n.dxs.node.inbox = rest ∧ (∀ a ∈ n.dxs.hub.fq.acts, a.2 ≠ .fault x c) ∧ n.fenceOf rec_ = (b.fenceOf rec_ + 1) % 65536) ∧
      (∀ j i c, b.dxs.hub.fq.acts = [(seq, .seal j i c.epoch)] → (b.job j).slots[i]? = some c → c.epoch ≠ 0 →
        Completes (.remoteResponse dt) dt fp s fun n =>
          n.dxs.node.inbox = rest ∧ n.dxs.hub.fq.acts = [] ∧ n.reg .dxs Reg.DXS_FQ_J_SEALED j = w32 c.epoch ∧
            (n.job j).slots[i]? = some { c with sealed := true }) ∧
      (∀ j, b.dxs.hub.fq.acts = [(seq, .jobLost j)] → Completes (.remoteResponse dt) dt fp s fun n =>
        n.dxs.node.inbox = rest ∧ n.dxs.hub.fq.acts = [] ∧ (n.job j).st = .halted ∧ (n.job j).rst.st = .lost) ∧
      (∀ j e, b.dxs.hub.fq.acts = [(seq, .fallback j e)] → Completes (.remoteResponse dt) dt fp s fun n =>
        n.dxs.node.inbox = rest ∧ n.dxs.hub.fq.acts = [] ∧ n.reg .dxs Reg.DXS_FQ_J_TARGET j = w32 e ∧
          (n.job j).rst = { (b.job j).rst with fallback := true, exposed := [], left := b.jobDies j })) ∧
    (∀ t mb, b.dxs.hub.bn.rem = [t] → t.tag = r.mark.obj.toNat → t.sentAt ≠ none → t.for_ = .copy mb → t.op = 2 →
      b.own mb = Own.taken → b.isAccepted mb = false → Completes (.remoteResponse dt) dt fp s fun n =>
        n.dxs.node.inbox = rest ∧ n.dxs.hub.bn.rem = [] ∧ PageDone n mb Cs.ok) ∧
    ((∀ t ∈ b.dxs.hub.bn.rem, t.tag ≠ r.mark.obj.toNat ∨ t.sentAt = none) → Completes (.remoteResponse dt) dt fp s fun n =>
      n.dxs.node.inbox = rest ∧ n.dxs.hub.bn = b.dxs.hub.bn ∧ Counted b n .dxs Reg.BN_REM_LATE_CNT 0 1)) ∧
  (∀ t a, b.dxs.hub.bn.rem = [t] → t.sentAt = some a → a + b.remoteTo ≤ b.now →
    Completes (.remoteTimeout dt t.tag) dt remoteEndFoot s fun n =>
      Counted b n .dxs Reg.BN_REM_TO_CNT 0 1 ∧
        ∀ mb, t.for_ = .mailbox mb → n.dxs.hub.bn.rem = [] ∧ PageDone n mb Cs.timeout) ∧
  (∀ m b', b.actingRoot = true → b.takeMessage .dxs tLog = some (m, b') →
    let q := b.trendRing
    let next := if q.size - (q.head + 96) < 96 then 0 else q.head + 96
    let fp : Foot := [.regs .dxs, .ports .dxs, .sheets .dxs, .dma .dxs, .binder, .host]
    (leAt m.bytes 0 1 = lkTrend → leAt m.bytes 4 2 = 1 → 96 ≤ q.size - q.head →
      next ≠ (if q.size - q.tail < 96 then 0 else q.tail) → b.chanAble .dxs chanTrend = true →
      Completes (.logReceive dt) dt fp s fun n =>
        n.dxs.node.rxSheets = b'.dxs.node.rxSheets ∧ n.hostRead (q.base + q.head) 96 = slice m.bytes 8 96 ∧
          n.reg .dxs Reg.BN_TREND_HEAD = w32 next ∧ n.dxs.hub.bn.samples.head? = some (slice m.bytes 8 96)) ∧
    (leAt m.bytes 0 1 ≠ lkTrend → Completes (.logReceive dt) dt fp s fun n =>
      n.dxs.node.rxSheets = b'.dxs.node.rxSheets ∧ n.dxs.hub.host = b.dxs.hub.host)) ∧
  (∀ x rest p, b.logWaiting = x :: rest → b.logPort = some p → x.since + 1000000000 ≤ b.now →
    Completes (.logRecordTimeout dt) dt [.regs .dxs, .ports .dxs, .binder] s fun n =>
      n.dxs.hub.bn.logq = rest ∧ Counted b n .dxs Reg.BN_LOG_DROP_CNT 0 1 ∧
        (n.port .dxs p).sh.queue.length + 1 = (b.port .dxs p).sh.queue.length ∧ OtherPorts b n .dxs p)

/-- R320 to R323, R326 to R331, R333: booting, the slice of the table, a port that stays down, the in-service tests, trend records,
and the proposals of the re-planning. It rests on the model's own: log entries 20, 23, 25, 30 and 176 (DESIGN CHOICE), log entries
117 and 140 (DEDUCED). -/
def Obligations.BootAndUpkeep : Prop := ∀ (s : State) (dt : Nat),
  let b := s.hall.elapse dt
  (b.dxs.hub.bn.boot = 0 → b.sm.powered = true → b.sm.prst = true →
    let fp : Foot := [.clk .dxs, .regs .dxs, .ports .dxs, .inbox .dxs, .sheets .dxs, .eyes .dxs, .raised .dxs, .ident, .root,
        .binder, .module, .free]
    (b.slotGood 0 = true ∨ b.slotGood 1 = true → Completes (.binderBoot dt) dt fp s fun n =>
      n.dxs.hub.bn.boot = 1 ∧ n.dxs.hub.bn.slot = (if b.slotGood 0 = true then 0 else 1) ∧ n.dxs.role = roleOf b.flashRec ∧
        n.dxs.nodeNo = b.flashRec.num ∧ (∀ c, c < 16 → wbit (n.cReg .dxs c 0) 31 = decide (c < 8)) ∧ ∀ p, p < 48 → n.reg .dxs Reg.SP_CTRL p =
          (if b.flashRec.roles.getD p 3 = 3 then 0x70 else w32 (0x43 + b.flashRec.roles.getD p 3 * 16))) ∧
    (b.slotGood 0 = false → b.slotGood 1 = false → Completes (.binderBoot dt) dt fp s fun n =>
      n.dxs.hub.bn = { b.dxs.hub.bn with boot := 2 } ∧ n.dxs.role = b.dxs.role ∧ n.dxs.node.regs = b.dxs.node.regs ∧
        n.dxs.node.ports = b.dxs.node.ports ∧ n.mgAlertN = false)) ∧
  (∀ slice, b.dxs.hub.bn.boot = 1 → topoIntact slice = true →
    let fp : Foot := [.regs .dxs, .ports .dxs, .inbox .dxs, .sheets .dxs, .dma .dxs, .eyes .dxs, .raised .dxs, .ident, .quorum,
      .binder, .host]
    (b.recMatches (topoOf slice) = true → Completes (.nodeSliceReceive dt slice) dt fp s fun n =>
      n.dxs.hub.bn.topo = some (topoOf slice) ∧ n.dxs.hub.bn.slice = true ∧ n.dxs.hub.fq.fences = []) ∧
    (b.recMatches (topoOf slice) = false → Completes (.nodeSliceReceive dt slice) dt fp s fun n =>
      n.dxs.hub.bn.topo = b.dxs.hub.bn.topo ∧ n.dxs.hub.bn.slice = false ∧ n.dxs.hub.fq = b.dxs.hub.fq)) ∧
  (∀ p, b.bring p = 1 → (b.port .dxs p).st = .train → (b.clk .dxs).lock = .locked →
    (b.clk .dxs).lockedAt + b.bringTo ≤ b.now →
    Completes (.bringTimeout dt p) dt [.regs .dxs, .ports .dxs, .dma .dxs, .binder, .host] s fun n =>
      n.bring p = 2 ∧ ∀ i, i ≠ p → n.bring i = b.bring i) ∧
  (∀ sd lane v h, lane < nLanes sd → b.isReg sd 1 1 Reg.IS_CTRL ≠ 0 → b.upPort sd (lane / 2) = true →
    let fp := Foot.sided sd [.regs .dxt, .eyes .dxt, .regs .dxs, .ports .dxs, .dma .dxs, .binder, .host]
      [.regs .dxs, .ports .dxs, .dma .dxs, .eyes .dxs, .binder, .host]
    (Completes (.eyeSweep dt sd lane v h false true) dt fp s fun n =>
      n.eye sd lane = ⟨v % 4096, h % 64, true, n.now, false⟩ ∧ (∀ i, i ≠ lane → n.eye sd i = b.eye sd i) ∧
        Counted b n sd (isBase sd + Reg.IS_EYE_CNT) 0 1) ∧
    ∀ done, Completes (.eyeSweep dt sd lane v h true done) dt fp s fun n =>
      n.eye sd lane = { b.eye sd lane with
        stale := (b.eye sd lane).stale || decide ((b.eye sd lane).at_ + 10 * b.eyeInt sd ≤ b.now) } ∧
        Counted b n sd (isBase sd + Reg.IS_ABANDON_CNT) 0 1 ∧
        OtherRegs b n sd [regKey 0 (isBase sd + Reg.IS_ABANDON_CNT)]) ∧
  (∀ r m drop, r < 64 → m < 4 → b.dxt.die.isDisabled r = false → b.isReg .dxt 2 2 Reg.IS_CTRL ≠ 0 → b.repIdle r = true →
    Completes (.replicaCheck dt r m drop false) dt [.regs .dxt, .reps, .regs .dxs, .ports .dxs, .dma .dxs, .binder, .host] s fun n =>
      nget repReset n.dxt.reps (4 * r + m) = (n.now, false, !dropOk drop) ∧
        Counted b n .dxt (isBase .dxt + Reg.IS_REP_CNT) 0 1 ∧
        Counted b n .dxt (isBase .dxt + Reg.IS_REP_FAIL_CNT) 0 (if 6 ≤ drop ∧ drop ≤ 10 then 0 else 1)) ∧
  (∀ p, b.dxs.hub.bn.boot = 1 → b.topo.dies ≠ [] → b.dxt.die.bring = .ready →
    (∃ i, i < 48 ∧ (b.entryOf i).kind = 2 ∧ (b.entryOf i).nbr = ownRec) → b.actingRoot = false → b.logPort = some p →
    Completes (.trendSample dt ownRec) dt [.regs .dxs, .ports .dxs, .dma .dxs, .binder, .host] s fun n =>
      nget trendReset n.dxs.hub.bn.trend ownRec = (b.squalls, b.stretches) ∧
        SheetsQueued b n .dxs p (sheetsOf tLog 0 0 false (logBody lkTrend b.dxs.nodeNo b.trendBytes))) ∧
  (∀ j warns, b.actingRoot = true → (b.job j).loaded = true →
    let x := b.job j
    let t := planTable x.table (b.projections j warns)
    let now := b.rf .dxs Reg.FT_PERIOD 23 0 j
    let r := b.propRing
    let fp : Foot := [.regs .dxs, .dma .dxs, .binder, .host, .free]
    (∀ q, quantile999 x.pointSpans = some q →
      let p := planPeriod q (tabMhz x.table x.oppNow) (tabMhz t x.oppNow)
      (padTo 128 x.table ≠ t ∨ now < 100 * ((p : Int) - now).natAbs → 256 ≤ r.room 256 → b.chanAble .dxs chanTrend = true →
        Completes (.replanEvaluate dt j warns ()) dt fp s fun n =>
          n.dxs.hub.bn.pseq = (b.dxs.hub.bn.pseq + 1) % 2 ^ 32 ∧ n.reg .dxs Reg.BN_PROP_HEAD = w32 ((r.head + 256) % r.size) ∧
            ∃ y rest, n.dxs.hub.bn.props = y :: rest ∧ y.seq = n.dxs.hub.bn.pseq ∧ y.job = j ∧ y.bytes.length = 256 ∧
              leAt y.bytes 8 4 = p ∧ slice y.bytes 16 128 = t ∧ ∀ z ∈ rest, z.job ≠ j) ∧
      (padTo 128 x.table = t → 100 * ((p : Int) - now).natAbs ≤ now →
        Completes (.replanEvaluate dt j warns ()) dt fp s fun n =>
          n.dxs.hub.bn = b.dxs.hub.bn ∧ n.dxs.hub.host = b.dxs.hub.host ∧ OtherRegs b n .dxs [])) ∧
    (quantile999 x.pointSpans = none → padTo 128 x.table ≠ t → 256 ≤ r.room 256 → b.chanAble .dxs chanTrend = true →
      Completes (.replanEvaluate dt j warns ()) dt fp s fun n =>
        ∃ y rest, n.dxs.hub.bn.props = y :: rest ∧ y.job = j ∧ y.bytes.length = 256 ∧ leAt y.bytes 8 4 = now ∧
          slice y.bytes 16 128 = t ∧ ∀ z ∈ rest, z.job ≠ j)) ∧
  (∀ g w, isRoot b.dxs.role = true → PairReady b .dxs Reg.BN_PCOMMIT g w →
    let v := pairValue .dxs Reg.BN_PCOMMIT g
    let j := fld v 7 0
    let fp : Foot := [.regs .dxs, .ports .dxs, .sheets .dxs, .jobs, .binder]
    (∀ y, (b.dxs.hub.bn.props.find? fun y => y.job == j && y.seq % 2 ^ 24 == fld v 31 8) = some y → (b.job j).loaded = true →
      b.dxs.node.regs.run = none →
      Completes (.proposalCommit dt (Reg.BN_PCOMMIT + 4) w) dt fp s fun n =>
        JobOnly b n j { b.job j with table := slice y.bytes 16 128 } ∧
          n.staged .dxs Reg.FT_PERIOD j = w32 (leAt y.bytes 8 4) ∧ n.reg .dxs Reg.FT_PERIOD j = b.reg .dxs Reg.FT_PERIOD j) ∧
    ((b.dxs.hub.bn.props.find? fun y => y.job == j && y.seq % 2 ^ 24 == fld v 31 8) = none →
      Completes (.proposalCommit dt (Reg.BN_PCOMMIT + 4) w) dt fp s fun n =>
        n.dxs.hub.jobs = b.dxs.hub.jobs ∧ fld (n.reg .dxs Reg.BN_PSTATUS) 15 0 = PSt.stale))

/-! ### Registers, DMA, power -/

/-- R124, R335 to R346, R350 to R352: writes of registers, apply steps, locks, guarded pairs and the configuration CRC. It rests on the
model's own: log entries 37, 111, 134 and 135 (DEDUCED). -/
def Obligations.Registers : Prop := ∀ (s : State) (dt : Nat) (sd : Side) (w : Word),
  let b := s.hall.elapse dt
  let c := (b.node sd).regs
  (∀ off be,
    let fp := Foot.sided sd [.regs .dxs, .clk .dxt, .regs .dxt, .ports .dxt, .dma .dxt, .raised .dxt, .die, .sync, .binds,
      .lastCause] [.clk .dxs, .regs .dxs, .ports .dxs, .inbox .dxs, .sheets .dxs, .convs .dxs, .dma .dxs, .raised .dxs, .root,
      .meas, .jobs, .quorum, .binder]
    let row := decodeReg b sd (off % windowSize sd / 4 * 4)
    (be ≠ 15 → Completes (.registerWrite dt sd off be w) dt fp s fun n =>
      Counted b n sd Reg.CM_BAD_ACC_CNT 0 1 ∧ OtherRegs b n sd [regKey 0 Reg.CM_BAD_ACC_CNT]) ∧
    (be = 15 → row = none → Completes (.registerWrite dt sd off be w) dt fp s fun n => (n.node sd).regs = c) ∧
    (∀ r, be = 15 → row = some r → b.instOk sd r = false ∨ r.acc = .ro ∨ r.acc = .roc →
      Completes (.registerWrite dt sd off be w) dt fp s fun n => (n.node sd).regs = c) ∧
    (∀ r, be = 15 → row = some r → b.instOk sd r = true → r.acc = .rws → c.run = none →
      Completes (.registerWrite dt sd off be w) dt fp s fun n =>
        n.staged sd r.off (b.selIdx sd r) = w &&& w32 r.mask ∧ OtherRegs b n sd []) ∧
    (∀ r, be = 15 → row = some r → b.instOk sd r = true → r.acc = .rws → c.run ≠ none →
      Completes (.registerWrite dt sd off be w) dt fp s fun n =>
        (∃ l, (n.node sd).regs.heldWrites = c.heldWrites ++ (regKey (b.selIdx sd r) r.off, w &&& w32 r.mask) :: l) ∧
          (n.node sd).regs.file = c.file) ∧
    (∀ r, be = 15 → row = some r → b.instOk sd r = true → r.acc = .rw → b.rwCommon sd r.off w = none →
      (sd = .dxt → b.rwDie r.off w = none) → (sd = .dxs → b.rwHub r.off (b.selIdx sd r) w = none) →
      Completes (.registerWrite dt sd off be w) dt fp s fun n =>
        n.reg sd r.off (b.selIdx sd r) = w &&& w32 r.mask ∧
          OtherRegs b n sd [regKey (b.selIdx sd r) r.off, regKey 0 Reg.CM_CRC_STALE])) ∧
  (let mask := fld w 15 0;
    (c.run = none → Completes (.apply dt sd w) dt [.regs sd] s fun n =>
      n.reg sd Reg.CM_APPLY = w32 mask ∧
        ∃ a, (n.node sd).regs.run = some a ∧ a.mask = mask ∧ a.src = 0 ∧ a.endAt = n.now + 64) ∧
    (c.run ≠ none → c.queued = none → Completes (.apply dt sd w) dt [.regs sd] s fun n =>
      (n.node sd).regs.run = c.run ∧ (n.node sd).regs.queued = some mask) ∧
    (c.run ≠ none → c.queued ≠ none → Completes (.apply dt sd w) dt [.regs sd] s fun n =>
      (n.node sd).regs.run = c.run ∧ (n.node sd).regs.queued = c.queued ∧ Counted b n sd Reg.CM_APPLY_DROP_CNT 0 1)) ∧
  (∀ a, c.run = some a → a.endAt ≤ b.now → c.due = [] → c.queued = none →
    let fp := Foot.sided sd [.clk .dxt, .regs .dxt, .ports .dxt, .sheets .dxt, .outs .dxt, .dma .dxt, .eyes .dxt, .raised .dxt,
      .sram .dxt, .die, .lastCause, .free] [.clk .dxs, .regs .dxs, .ports .dxs, .inbox .dxs, .sheets .dxs, .outs .dxs, .dma .dxs,
      .eyes .dxs, .raised .dxs, .sram .dxs, .root, .folds, .jobs, .host, .free]
    let die := sd = .dxt ∧ a.src = 1
    (∀ r, a.verdict = some r → Completes (.applyStepEnd dt sd) dt fp s fun n =>
      (n.node sd).regs.run = none ∧ n.reg sd Reg.CM_APPLY_ST = applySt (some r) (a.src == 1) ((c.seq + 1) % 256) ∧
        Counted b n sd Reg.CM_REFUSE_CNT 0 1 ∧ n.reg sd Reg.CM_APPLY_CNT = b.reg sd Reg.CM_APPLY_CNT ∧
        (die → n.dxt.lastCause = Cause.applyConflict)) ∧
    (∀ idx off x, a.verdict = none → a.commits = [(regKey idx off, x)] → off < 2 ^ 21 → off / 4096 ≠ 0 →
      off / 4096 ≠ toPage sd → off / 4096 ≠ dmPage sd →
      off ∉ [Reg.SP_CTRL, Reg.TT_CTRL, Reg.RF_P_CFG, Reg.DXS_FD_CTRL, isBase .dxs + Reg.IS_CTRL, Reg.DXS_FD_ENG_EN] →
      b.waitsLaunch sd (a.src == 1) (regKey idx off) = false → b.waitsCutoff sd (a.src == 1) (regKey idx off) = false →
      Completes (.applyStepEnd dt sd) dt fp s fun n =>
        (n.node sd).regs.run = none ∧ n.reg sd off idx = x ∧ Counted b n sd Reg.CM_APPLY_CNT 0 1 ∧
          n.reg sd Reg.CM_APPLY_ST = applySt none (a.src == 1) ((c.seq + 1) % 256) ∧
          (die → Counted b n .dxt Reg.FP_REC_CNT 0 1) ∧
          OtherRegs b n sd ([regKey idx off, regKey 0 Reg.CM_APPLY_CNT, regKey 0 Reg.CM_APPLY_ST, regKey 0 Reg.CM_APPLY_RES,
            regKey 0 Reg.CM_APPLY_IDX, regKey 0 Reg.CM_CRC_STALE] ++ (if die then [regKey 0 Reg.FP_REC_CNT] else []) ++
            if sd = .dxt ∧ off = Reg.DC_MARGIN_CFG then [regKey 0 Reg.DC_MARGIN_WARN_CNT] else []))) ∧
  (Completes (.lockSet dt w) dt [.regs .dxt] s fun n =>
    n.reg .dxt Reg.CM_LOCK = w32 ((b.reg .dxt Reg.CM_LOCK).toNat ||| fld w 15 0) ∧
      ∀ p, p < 2 → n.reg .dxt Reg.SP_EPOCH p =
        if wbit w (lockBit p) && !wbit (b.reg .dxt Reg.CM_LOCK) (lockBit p) then b.staged .dxt Reg.SP_EPOCH p
        else b.reg .dxt Reg.SP_EPOCH p) ∧
  (∀ page g v, b.guard sd page = some g → g.openedAt + guardWindow sd < b.now → pairOf sd g.off = some v →
    Completes (.guardTimeout dt sd page) dt [.regs sd] s fun n =>
      let ht := sd = .dxs ∧ (isHtSet v = true ∨ isHtStep v = true)
      n.guard sd page = none ∧ n.reg sd Reg.CM_GUARD_ST = w32 (2 * 2 ^ 24 + v) ∧ Counted b n sd Reg.CM_GUARD_FAIL_CNT 0 1 ∧
        (ht → n.reg .dxs Reg.RF_HTSET_ST = w32 HtSt.guardFail) ∧
        OtherRegs b n sd ([regKey 0 Reg.CM_GUARD_ST, regKey 0 Reg.CM_GUARD_FAIL_CNT] ++
          if ht then [regKey 0 Reg.RF_HTSET_ST] else [])) ∧
  (b.guard .dxs (Reg.SP_EPOCH / 4096) = none → Completes (.fenceEpochSet dt Reg.SP_EPOCH w) dt [.regs .dxs] s fun n =>
    n.guard .dxs (Reg.SP_EPOCH / 4096) = some ⟨Reg.SP_EPOCH, b.guardIdx .dxs Reg.SP_EPOCH, w, n.now⟩ ∧ OtherRegs b n .dxs []) ∧
  (∀ g, b.guard .dxs (Reg.SP_EPOCH / 4096) = some g → g.off = Reg.SP_EPOCH → g.idx = b.guardIdx .dxs Reg.SP_EPOCH →
    b.now ≤ g.openedAt + guardWindow .dxs →
    let m := guardMask .dxs Reg.SP_EPOCH
    ((g.w.toNat ^^^ w.toNat) &&& m = m → Completes (.fenceEpochSet dt (Reg.SP_EPOCH + 4) w) dt [.regs .dxs] s fun n =>
      n.guard .dxs (Reg.SP_EPOCH / 4096) = none ∧ n.reg .dxs Reg.SP_EPOCH g.idx = pairValue .dxs Reg.SP_EPOCH g ∧
        OtherRegs b n .dxs [regKey g.idx Reg.SP_EPOCH]) ∧
    ((g.w.toNat ^^^ w.toNat) &&& m ≠ m → Completes (.fenceEpochSet dt (Reg.SP_EPOCH + 4) w) dt [.regs .dxs] s fun n =>
      n.guard .dxs (Reg.SP_EPOCH / 4096) = none ∧ Counted b n .dxs Reg.CM_GUARD_FAIL_CNT 0 1 ∧
        n.reg .dxs Reg.CM_GUARD_ST = w32 (2 ^ 24 + Reg.SP_EPOCH) ∧
        OtherRegs b n .dxs [regKey 0 Reg.CM_GUARD_ST, regKey 0 Reg.CM_GUARD_FAIL_CNT])) ∧
  (∀ g, PairReady b .dxs Reg.DXS_FQ_QUORUM g w →
    Completes (.quorumSet dt (Reg.DXS_FQ_QUORUM + 4) w) dt [.regs .dxs, .ports .dxs, .sheets .dxs, .quorum, .binder] s fun n =>
      n.guard .dxs (Reg.DXS_FQ_QUORUM / 4096) = none ∧ n.reg .dxs Reg.DXS_FQ_QUORUM = pairValue .dxs Reg.DXS_FQ_QUORUM g) ∧
  (∀ page, page < 32 → bit (crcBlocks b sd) page = true →
    let crc := w32 (crc32c (b.crcInput sd page))
    let bad := nget crcBadZero c.crcBad page
    let compared := wbit (b.reg sd Reg.CM_CRC_STALE) page = false ∧ wbit (b.reg sd Reg.CM_CRC_EN) page = true
    (compared → crc = b.reg sd Reg.CM_CFG_CRC_REF page → Completes (.crcPass dt sd page) dt (faultFoot sd) s fun n =>
      n.reg sd Reg.CM_CFG_CRC_NOW page = crc ∧ wbit (n.reg sd Reg.CM_CRC_DRIFT) page = false ∧
        nget crcBadZero (n.node sd).regs.crcBad page = 0) ∧
    (compared → crc ≠ b.reg sd Reg.CM_CFG_CRC_REF page → bad = 0 →
      Completes (.crcPass dt sd page) dt (faultFoot sd) s fun n =>
        n.reg sd Reg.CM_CFG_CRC_NOW page = crc ∧ n.reg sd Reg.CM_CRC_DRIFT = b.reg sd Reg.CM_CRC_DRIFT ∧
          nget crcBadZero (n.node sd).regs.crcBad page = 1) ∧
    (compared → crc ≠ b.reg sd Reg.CM_CFG_CRC_REF page → bad = 1 →
      Completes (.crcPass dt sd page) dt (faultFoot sd) s fun n =>
        n.reg sd Reg.CM_CFG_CRC_NOW page = crc ∧ wbit (n.reg sd Reg.CM_CRC_DRIFT) page = true ∧
          Counted b n sd Reg.CM_DRIFT_CNT 0 1)) ∧
  (Completes (.crcRefWrite dt sd w) dt [.regs sd] s fun n =>
    let page := (b.reg sd Reg.CM_CRCSEL).toNat
    n.reg sd Reg.CM_CFG_CRC_REF page = w ∧ wbit (n.reg sd Reg.CM_CRC_STALE) page = false ∧
      OtherRegs b n sd [regKey page Reg.CM_CFG_CRC_REF, regKey 0 Reg.CM_CRC_STALE])

/-- R360 to R372: a channel's producer offset, the descriptor it takes, its bursts, their completion, and its halts. It rests on the
model's own: log entries 70 and 142 (DEDUCED), log entry 138 (DESIGN CHOICE). -/
def Obligations.DmaChannels : Prop := ∀ (s : State) (dt : Nat) (sd : Side) (ch : Nat),
  let b := s.hall.elapse dt
  let x := b.chan sd ch
  let others (n : Block) : Prop := ∀ i, i ≠ ch → n.chan sd i = b.chan sd i
  let tail := w32 (((b.cReg sd ch 0x18).toNat + 32) % max 32 (b.cReg sd ch 0x10).toNat)
  let halted (n : Block) (cause dir addr : Nat) : Prop :=
    (n.chan sd ch).st = .halted ∧ (n.chan sd ch).cause = cause ∧ (n.chan sd ch).dir = dir ∧ (n.chan sd ch).err = addr ∧
      (n.chan sd ch).cur = none ∧ others n ∧ Counted b n sd (chanReg sd ch 0x2C) 0 1
  let issue := Foot.sided sd [.regs .dxt, .ports .dxt, .dma .dxt, .raised .dxt, .sram .dxt, .sync, .binds, .lastCause, .free]
    [.regs .dxs, .dma .dxs, .sram .dxs, .host, .free]
  (∀ w, ch < nChans sd → Completes (.dmaRingHeadWrite dt sd ch w) dt [.regs sd, .dma sd] s fun n =>
    let head := w32 (w.toNat / 32 * 32)
    n.cReg sd ch 0x14 = head ∧ OtherRegs b n sd [regKey 0 (chanReg sd ch 0x14)] ∧ others n ∧
      n.chan sd ch = if b.chains sd ch = true ∧ head ≠ b.cReg sd ch 0x18 ∧ x.st = .idle then { x with st := .active } else x) ∧
  (b.nextChan sd false = some ch → x.cur = none →
    (∀ t sp a l rest, b.readDesc sd (b.tailAddr sd ch) = .run t → t.src = (sp, a, l) :: rest →
      beyond sd sp a (burstLen a l) = false → Completes (.dmaBurstIssue dt sd ch false) dt issue s fun n =>
        (n.node sd).dma.turn = ch ∧ others n ∧ (n.chan sd ch).st = .active ∧ (n.chan sd ch).cur = some { t with
          src := dropFront (burstLen a l) t.src, rdOpen := t.rdOpen ++ [(sp, a, burstLen a l)], rdTimes := t.rdTimes ++ [n.now],
          blocks := t.blocks ++ [(burstLen a l, false)] }) ∧
    (∀ e, b.readDesc sd (b.tailAddr sd ch) = .skip e → Completes (.dmaBurstIssue dt sd ch false) dt issue s fun n =>
      n.cReg sd ch 0x18 = tail ∧ Counted b n sd (chanReg sd ch 0x28) 0 1 ∧ (n.chan sd ch).cur = none ∧ others n) ∧
    (∀ k a, b.readDesc sd (b.tailAddr sd ch) = .bad k a → Completes (.dmaBurstIssue dt sd ch false) dt issue s fun n =>
      (k = 3 ∨ k = 4) ∧ halted n k 0 a)) ∧
  (∀ t sp a k, b.nextChan sd true = some ch → x.cur = some t → b.nextWrite sd ch = some (sp, a, k) →
    beyond sd sp a k = false → Completes (.dmaBurstIssue dt sd ch true) dt issue s fun n =>
      (n.node sd).dma.wrTurn = ch ∧ others n ∧ (n.chan sd ch).st = x.st ∧ (n.chan sd ch).cur = some { t with
        dst := dropFront k t.dst, wrOpen := t.wrOpen ++ [(sp, a, t.data.take k)], data := t.data.drop k }) ∧
  (let fp := Foot.sided sd [.dma .dxt, .sram .dxt] [.regs .dxs, .dma .dxs, .sram .dxs, .host];
    (∀ t sp a k rest, x.cur = some t → t.rdOpen = (sp, a, k) :: rest → t.flush < 2 →
      Completes (.dmaBurstComplete dt sd ch false) dt fp s fun n =>
        let d := swapBytes t.swap (t.part ++ b.spaceRead sd sp a k)
        others n ∧ (n.chan sd ch).cur = some { t with rdOpen := rest, rdTimes := t.rdTimes.drop 1, data := t.data ++ d.1, part := d.2 } ∧
          ∀ spc i, n.spaceRead sd spc i 1 = b.spaceRead sd spc i 1) ∧
    (∀ t sp a bs rest, x.cur = some t → t.wrOpen = (sp, a, bs) :: rest →
      Completes (.dmaBurstComplete dt sd ch true) dt fp s fun n =>
        others n ∧ (t.flush = 0 → (n.chan sd ch).cur = some { t with wrOpen := rest, blocks := drainBlocks bs.length t.blocks }) ∧
          (t.flush = 1 → sd = .dxs → sp = 0 → rest = [] → t.src = [] → t.dst = [] → t.rdOpen = [] →
            (n.chan sd ch).cur = some { t with
              wrOpen := [], blocks := drainBlocks bs.length t.blocks, rdOpen := [(0, (a + bs.length - 1) / 4 * 4, 4)],
              rdTimes := [n.now], flush := 2 }) ∧
          n.spaceRead sd sp a bs.length = bs ∧
          (∀ i, i < a ∨ a + bs.length ≤ i → n.spaceRead sd sp i 1 = b.spaceRead sd sp i 1) ∧
          (n.node sd).dma.wrBytes = ((b.node sd).dma.wrBytes + bs.length) % 2 ^ 64)) ∧
  (∀ t, x.cur = some t → t.finished = true →
    Completes (.dmaTransferComplete dt sd ch) dt (Foot.sided sd
      [.regs .dxt, .ports .dxt, .dma .dxt, .raised .dxt, .sync, .binds, .lastCause] [.regs .dxs, .dma .dxs]) s fun n =>
      n.cReg sd ch 0x18 = tail ∧ Counted b n sd (chanReg sd ch 0x28) 0 1 ∧ (n.chan sd ch).cur = none ∧
        (n.chan sd ch).st = (if b.cReg sd ch 0x14 = tail then .idle else .active) ∧ others n) ∧
  (∀ cause addr, ch < nChans sd → wbit (b.cReg sd ch 0) 31 = true → x.runs = true → cause = 1 ∨ cause = 2 ∨ cause = 4 →
    Completes (.dmaBusError dt sd ch cause addr) dt (Foot.sided sd [.regs .dxt, .dma .dxt, .sram .dxt, .free]
      [.regs .dxs, .dma .dxs, .sram .dxs, .host, .free]) s fun n =>
      halted n cause (if cause = 2 then 1 else 0) (addr % 2 ^ 64)) ∧
  (∀ t a k at_, sd = .dxs → x.cur = some t → ((t.rdOpen.zip t.rdTimes).find? fun r => r.1.1 == 0) = some ((0, a, k), at_) →
    at_ + 10000000 ≤ b.now →
    Completes (.dmaCompletionTimeout dt ch) dt [.regs .dxs, .dma .dxs, .sram .dxs, .host, .free] s fun n =>
      if t.flush = 2 then halted n 2 1 a else halted n 1 0 a)

/-- R305, R377, R381 to R384: the node's reset, the module's power and its oscillator. It rests on the model's own: log entries 26,
38 and 41 (DESIGN CHOICE), log entry 40 (DEDUCED). -/
def Obligations.PowerAndReset : Prop := ∀ (s : State) (dt : Nat),
  let b := s.hall.elapse dt
  let m := b.sm
  let cleared : Dxs := { Dxs.reset with
    peerActs := b.dxs.peerActs || (b.dxs.role == .rootA && b.dxs.hub.bn.boot == 1)
    hub := { Hub.reset with host := b.dxs.hub.host } }
  let down : Module := { m with prst := false, powered := false, therm := true, resetEnd := none, rdy := false, heater := 0 }
  let up : Module := { m with powered := true, rdy := false, heater := 80 }
  let fp := Foot.dxsAll ++ [.module]
  (Completes (.nodeReset dt) dt fp s fun n => n.dxs = cleared ∧ n.sm = { m with prst := false, therm := true }) ∧
  (∀ cals, m.prst = false → m.powered = true → m.hold = false → (∀ t, m.resetEnd = some t → t ≤ b.now) →
    Completes (.nodeResetRelease dt cals) dt [.outs .dxs, .module] s fun n =>
      n.sm = { m with prst := true, resetEnd := none } ∧ ∀ i, i < 9 → nget outReset n.dxs.node.outs i = { TimeOut.reset with
        cal := cals.getD i 0 }) ∧
  (∀ cals, m.prst = false → m.powered = false ∨ m.hold = true ∨ (∃ t, m.resetEnd = some t ∧ b.now < t) →
    Completes (.nodeResetRelease dt cals) dt [.outs .dxs, .module] s fun n => n = b) ∧
  (∀ rdy, m.powered = true → Completes (.ocxoRdyChange dt rdy) dt [.module] s fun n =>
    n.sm = { m with rdy := rdy, heater := if rdy then 30 else 80 }) ∧
  (∀ mv, m.mgmt = false → m.powered = false → 38500 < mv → mv ≤ 63000 → Completes (.modulePowerUp dt mv) dt [.module] s fun n =>
    n.sm = { up with vin := mv, mgmt := true, on := true }) ∧
  (∀ mv, mv < 36000 ∨ 63000 < mv → Completes (.inputShutdown dt mv) dt fp s fun n =>
    n.dxs = cleared ∧ n.sm = { down with vin := mv, mgmt := false, hold := false, status := m.status ||| 2, reply := none }) ∧
  (∀ mv, 36000 ≤ mv → mv ≤ 63000 → Completes (.inputShutdown dt mv) dt fp s fun n =>
    n.dxs = b.dxs ∧ n.sm = { m with vin := mv }) ∧
  (m.mgmt = true → Completes (.operationOn dt) dt [.module] s fun n =>
    n.sm = if m.powered then { m with on := true } else { up with on := true }) ∧
  (m.mgmt = true → m.powered = true → Completes (.operationOff dt) dt fp s fun n =>
    n.dxs = cleared ∧ n.sm = { down with on := false }) ∧
  (∀ level, Completes (.perstNChange dt level) dt [.module] s fun n => n.sm = { m with perst := level })

/-- R377, R378, R385: THERM_N falls as the junction reaches 110 °C and rises below 105 °C, and MG_ALERT_N is low with it; low for
100 ms it takes the chip's power, which then stays off until software turns it on. When the chip begins to drive THERM_N after a
reset is the model's reading (DEDUCED, log entry 125). -/
def Obligations.ThermalProtection : Prop := ∀ (s : State) (dt : Nat),
  let b := s.hall.elapse dt
  let m := b.sm
  let fp := Foot.dxsAll ++ [.module]
  (∀ c16, m.powered = true → Completes (.thermAssert dt c16) dt [.module] s fun n =>
    let driven := m.prst = true ∧ b.dxs.hub.bn.boot ≠ 0
    { n.sm with therm := m.therm, thermAt := m.thermAt } = { m with c16 := c16 } ∧
      (n.sm.therm = false ↔ if m.therm = true then driven ∧ 110 * 16 ≤ c16 else 105 * 16 ≤ c16) ∧
      n.sm.thermAt = (if m.therm = true ∧ n.sm.therm = false then n.now else m.thermAt) ∧
      (n.sm.therm = false → n.mgAlertN = false)) ∧
  (m.powered = true → m.therm = false → m.thermAt + 100000000 ≤ b.now → Completes (.thermalPowerDown dt) dt fp s fun n =>
    n.sm.powered = false ∧ n.sm.prst = false ∧ n.sm.on = false ∧ n.dxs.node = Node.reset) ∧
  (m.therm = true ∨ b.now < m.thermAt + 100000000 → Completes (.thermalPowerDown dt) dt fp s fun n =>
    n.sm = m ∧ n.dxs = b.dxs) ∧
  (m.powered = false → m.mgmt = true →
    (∀ cals, m.prst = false → Completes (.nodeResetRelease dt cals) dt [.outs .dxs, .module] s fun n => n.sm = m) ∧
    (∀ mv, Completes (.modulePowerUp dt mv) dt [.module] s fun n => n.sm = { m with vin := mv }) ∧
    Completes (.operationOn dt) dt [.module] s fun n => n.sm.powered = true ∧ n.sm.on = true)

/-- R325: a reset of the die leaves nothing of the DX-T: no binding, no time, no register value; after it the DX-T begins at RESET
again, and samples the colophon anew. It rests on the model's own: log entry 38 (DESIGN CHOICE). -/
def Obligations.DieReset : Prop := ∀ (s : State) (dt : Nat),
  let b := s.hall.elapse dt
  (Completes (.dxtReset dt) dt Foot.dxtAll s fun n =>
    n.dxt.die.bring = .reset ∧ n.dxt.step = StepCtx.reset ∧ n.dxt.binds = [] ∧ n.dxt.sync = [] ∧ n.clk .dxt = Clock.reset ∧
      (n.clk .dxt).lock = .free ∧ (n.clk .dxt).htValid = false ∧ (∀ p, (n.port .dxt p).st = .off) ∧
      ∀ off idx, n.reg .dxt off idx = regReset .dxt (regKey idx off)) ∧
  (b.dxt.die.bring = .reset → Completes (.dxtResetRelease dt) dt [.ports .dxt, .sheets .dxt, .eyes .dxt, .die] s fun n =>
    n.dxt.die = { b.dxt.die with bring := .colophon } ∧ (n.port .dxt 0).st = .train ∧ (n.port .dxt 1).st = .train) ∧
  (b.dxt.die.bring ≠ .reset → Completes (.dxtResetRelease dt) dt [.ports .dxt, .sheets .dxt, .eyes .dxt, .die] s fun n =>
    n.dxt = b.dxt) ∧
  (∀ bs, b.dxt.die.bring = .colophon →
    Completes (.colophonSample dt bs) dt [.regs .dxt, .ports .dxt, .raised .dxt, .die, .lastCause] s fun n =>
      n.dxt.die.bring = if n.dxt.die.colBad then .failed else .waitLock)

/-- R362, R363: SWAP reorders the bytes within its unit, counted from the first byte, and a descriptor whose LEN is no multiple of
the unit is bad. -/
def Obligations.SwapOrders : Prop :=
  (∀ bs, swapBytes 0 bs = (bs, [])) ∧
  (∀ k, k = 1 ∨ k = 2 ∨ k = 3 → swapBytes k [] = ([], [])) ∧
  (∀ x y r, swapBytes 1 (x :: y :: r) = (y :: x :: (swapBytes 1 r).1, (swapBytes 1 r).2)) ∧
  (∀ x y z u r, swapBytes 2 (x :: y :: z :: u :: r) = (u :: z :: y :: x :: (swapBytes 2 r).1, (swapBytes 2 r).2)) ∧
  (∀ x y z u r, swapBytes 3 (x :: y :: z :: u :: r) = (z :: u :: x :: y :: (swapBytes 3 r).1, (swapBytes 3 r).2)) ∧
  ∀ (b : Block) (sd : Side) (a : Nat),
    let d := b.spaceRead sd (ringSpace sd) a 32
    let swap := bits (leAt d 20 4) 5 4
    beyond sd (ringSpace sd) a 32 = false → (swap = 1 ∧ leAt d 16 4 % 2 ≠ 0 ∨ 2 ≤ swap ∧ leAt d 16 4 % 4 ≠ 0) → b.readDesc sd a = .bad 3 a

/-- R324, R385, R386: the commands of the management controller: what each replies or does, when it refuses, and that it answers
nothing without its supply. It rests on the model's own: log entry 31 (PRESUMED), log entry 42 (DESIGN CHOICE). -/
def Obligations.Management : Prop := ∀ (s : State) (dt : Nat),
  let b := s.hall.elapse dt
  let m := b.sm
  let replies (c : Instr) (fp : Foot) (code : Nat) (bs : List Byte) : Prop :=
    Completes c dt fp s fun n => n.sm = { m with reply := some (code, bs) }
  let refused (c : Instr) (fp : Foot) : Prop := Completes c dt fp s fun n =>
    n.sm = { m with status := m.status ||| 1, reply := none } ∧ n.dxs = b.dxs
  let fp := Foot.dxsAll ++ [.module]
  (m.mgmt = true →
    (Completes (.clearFaults dt) dt [.module] s fun n => n.sm = { m with status := 0 }) ∧
    replies (.statusWord dt) [.module] 0x79 (leBytes 2 m.word) ∧
    replies (.readVin dt) [.module] 0x88 (leBytes 2 (Config.pmbusWord 0x88 m.vin)) ∧
    replies (.readTemperature1 dt) [.module] 0x8D (leBytes 2 (Config.pmbusWord 0x8D m.c16)) ∧
    replies (.readIin dt) [.module, .free] 0x89 (leBytes 2 (Config.pmbusWord 0x89 (Config.freeValue b.free))) ∧
    replies (.readPin dt) [.module, .free] 0x97 (leBytes 2 (Config.pmbusWord 0x97 (Config.freeValue b.free))) ∧
    replies (.pmbusRevision dt) [.module] 0x98 (leBytes 1 (Config.pmbusWord 0x98 0)) ∧
    replies (.mfrId dt) [.module] 0x99 Config.mfrId ∧
    replies (.mfrDxOcxo dt) [.module] 0xD4 (leBytes 1 (if m.rdy then 1 else 0) ++ leBytes 1 m.heater) ∧
    replies (.mfrDxModrec dt) [.module] 0xD5 m.modrec ∧
    (∀ ms, 1 ≤ ms → ms ≤ 65535 → Completes (.mfrDxReset dt ms) dt fp s fun n =>
      n.dxs.hub.bn = Hub.reset.bn ∧ n.dxs.hub.host = b.dxs.hub.host ∧ n.dxs.node = Dxs.reset.node ∧
        n.sm = { m with prst := false, therm := true, resetEnd := some (n.now + ms * 1000000) }) ∧
    (∀ ms, ms = 0 ∨ 65535 < ms → refused (.mfrDxReset dt ms) fp) ∧
    (Completes (.mfrDxHold dt) dt fp s fun n =>
      n.dxs.node = Dxs.reset.node ∧ n.sm = { m with prst := false, therm := true, hold := true }) ∧
    (Completes (.mfrDxRelease dt) dt [.module] s fun n => n.sm = { m with hold := false }) ∧
    (∀ addr bs, m.hold = true → 1 ≤ bs.length → bs.length ≤ 128 → addr + bs.length ≤ 16777216 →
      Completes (.mfrDxFlashWr dt addr bs) dt [.module, .flash] s fun n =>
        { n.sm with flash := m.flash } = m ∧ memReadN n.sm.flash addr bs.length = bs ∧
          ∀ i, i < addr ∨ addr + bs.length ≤ i → memRead n.sm.flash i = memRead m.flash i) ∧
    (∀ addr len, m.hold = true → 1 ≤ len → len ≤ 128 → addr + len ≤ 16777216 →
      replies (.mfrDxFlashRd dt addr len) [.module] 0xD2 (memReadN m.flash addr len)) ∧
    (∀ addr bs, m.hold = false ∨ bs.length = 0 ∨ 128 < bs.length →
      refused (.mfrDxFlashWr dt addr bs) [.module, .flash] ∧ refused (.mfrDxFlashRd dt addr bs.length) [.module]) ∧
    (∀ addr bs, m.hold = true → 1 ≤ bs.length → bs.length ≤ 128 → 16777216 < addr + bs.length →
      exec (.mfrDxFlashWr dt addr bs) s = .fault .flashAddress ∧ exec (.mfrDxFlashRd dt addr bs.length) s = .fault .flashAddress)) ∧
  (m.mgmt = false → ∀ ms addr bs,
    ∀ c ∈ [Instr.operationOn dt, .operationOff dt, .clearFaults dt, .statusWord dt, .readVin dt, .readIin dt,
      .readTemperature1 dt, .readPin dt, .pmbusRevision dt, .mfrId dt, .mfrDxReset dt ms, .mfrDxFlashWr dt addr bs,
      .mfrDxFlashRd dt addr bs.length, .mfrDxHold dt, .mfrDxRelease dt, .mfrDxOcxo dt, .mfrDxModrec dt],
      Completes c dt (fp ++ [.flash, .free]) s fun n => n.sm = m ∧ n.dxs = b.dxs)

/-! ### The block as a whole -/

/-- A step takes the command at the front of the queue and is exec of it with the queue's rest; on an empty queue one time-clock
cycle passes and nothing else happens (DESIGN CHOICE, log entry 2). -/
def Obligations.StepRunsTheFront : Prop := ∀ s : State,
  (∀ c rest, s.pending = c :: rest → step s = exec c { s with pending := rest }) ∧
  (s.pending = [] → step s = .next { s with hall := s.hall.elapse 1 })

/-- R386 and the commands' rules: every command completes in every state, with the queue as it was, but a flash transfer that the
module would take and that reaches beyond the flash's 16 MiB: that one faults. It rests on the model's own: log entries 36 and 42
(DESIGN CHOICE). -/
def Obligations.EveryCommandCompletes : Prop := ∀ (c : Instr) (s : State),
  let beyond := match c with
    | .mfrDxFlashWr _ addr bytes => s.hall.flashBeyond addr bytes.length
    | .mfrDxFlashRd _ addr len => s.hall.flashBeyond addr len
    | _ => false
  (beyond = false → ∃ t, exec c s = .next t ∧ t.pending = s.pending ∧ s.hall.now ≤ t.hall.now) ∧
  (beyond = true → exec c s = .fault .flashAddress)

/-- R69, R75, R98, R123, R349, R355, R373: what reset leaves. The ports of the DX-S48 are OFF, those of the DX-T train; both parts
hold hall time 0 and are FREE; nothing is bound, queued, loaded or received; and registers hold the values of their maps. It rests
on the model's own: log entries 33 and 34 (DESIGN CHOICE). -/
def Obligations.ResetState : Prop :=
  let b := State.reset.hall
  State.reset.pending = [] ∧
  (∀ p, (b.port .dxs p).st = .off) ∧ (b.port .dxt 0).st = .train ∧ (b.port .dxt 1).st = .train ∧
  (∀ sd, (b.node sd).clk = Clock.reset ∧ (b.clk sd).lock = .free ∧ (b.node sd).inbox = [] ∧ (b.node sd).rxSheets = []) ∧
  (∀ p, b.reg .dxs Reg.SP_CTRL p = 0x40 ∧ b.reg .dxt Reg.SP_CTRL p = 0x43) ∧
  (∀ sd p, b.reg sd Reg.SP_DWELL p = 0xFA ∧ b.reg sd Reg.SP_CRED_INIT p = 0x20204080 ∧ b.reg sd Reg.SP_RETRY_TO p = 0x40 ∧
    b.staged sd Reg.SP_DWELL p = 0xFA) ∧
  b.reg .dxt Reg.TT_REFS = 0x100 ∧ b.reg .dxs Reg.TT_REFS = 0x3F3F ∧ b.reg .dxt Reg.CM_CRC_EN = 0x3F5C ∧
  (∀ c, c < 8 → b.cReg .dxt c 0 = 0x80001000) ∧ (∀ c, c < 16 → b.cReg .dxs c 0 = 0x1000) ∧
  b.dxt.step.st = .unbound ∧ b.dxt.binds = [] ∧ (∀ j, b.job j = Job.reset) ∧ b.dxs.hub.bn.boot = 0 ∧ b.dxs.hub.gdefs = [] ∧
  Inv State.reset

/-- An invariant that every step keeps: the SRAM of the die, the staging SRAM of the DX-S48 and the boot flash hold the one
canonical form of their contents (so that equal contents are equal data). It rests on the model's own: log entry 6 (DESIGN CHOICE).
-/
def Obligations.MemoriesStayCanonical : Prop := ∀ s t : State, MemoriesWf s → step s = .next t → MemoriesWf t

/-- R325, R377, R378, R382, R384, R386: an invariant that every step keeps. Without power PRST_N is low, the oscillator is not
ready, and its heater is off; with power the heater warms up until OCXO_RDY and then regulates; THERM_N is high while PRST_N is low,
which it is during MFR_DX_HOLD and during an MFR_DX_RESET pulse; without the management supply there is neither power nor hold; and
the module record has 128 bytes. It rests on the model's own: log entry 41 (DESIGN CHOICE), log entry 125 (DEDUCED). -/
def Obligations.ModuleInvariant : Prop := ∀ s t : State, ModuleWf s.hall.sm → step s = .next t → ModuleWf t.hall.sm

/-- R47 to R51: encoding and decoding of marks agree. Every kind has its code and class, every mark is found again in its
payload, every payload in its 112 bits, and also where one of the 56 symbols arrives wrong; then the pair counts as corrected. -/
def Obligations.MarkRoundTrip : Prop :=
  (∀ k : Kind, (k, k.code, k.cls) ∈ [(Kind.idle, 0x00, 3), (.echoReq, 0x01, 3), (.echoRsp, 0x02, 3), (.go, 0x04, 0),
    (.fault, 0x05, 0), (.kill, 0x06, 0), (.done, 0x08, 1), (.arrive, 0x09, 1), (.count, 0x0A, 1), (.complete, 0x0B, 1),
    (.oppoint, 0x0C, 1), (.fence, 0x0D, 1), (.vote, 0x0E, 1), (.resync, 0x0F, 1), (.resyncAck, 0x10, 1), (.retry, 0x14, 2),
    (.remote, 0x18, 2), (.ql, 0x19, 2)]) ∧
  (∀ m : Mark, markOf m.payload = some m) ∧
  (∀ m : Mark, let v := m.payload.toNat
    bits v 87 82 = m.kind.code ∧ bits v 81 80 = m.kind.cls ∧ bits v 79 64 = m.obj.toNat ∧ bits v 63 48 = m.tag.toNat ∧
      bits v 47 16 = m.stamp.toNat ∧ bits v 15 0 = m.arg.toNat) ∧
  (∀ t : Nat, bits (stampOf t).toNat 31 12 = t / 65536 % 2 ^ 20 ∧ bits (stampOf t).toNat 11 0 = t % 65536 / 16) ∧
  (∀ own t : Nat, t % 16 = 0 → t + 16 ≤ own + 2 ^ 35 → own < t + 2 ^ 35 → expandStamp own (stampOf t) = t) ∧
  (∀ p : Payload, decodePair (markBits p) = some (p, false)) ∧
  (∀ (p : Payload) (j v : Nat), j < 56 → 1 ≤ v → v ≤ 3 →
    decodePair (markBits p ^^^ BitVec.ofNat 112 (v * 4 ^ j)) = some (p, true))

end
end

