-- ==== Sys2Proof/Laws/Foot.lean ====
section
/-! SUPPORT. Footprints: what keeping to one gives, component by component, and the completion of a command. -/

namespace Sys2Proof.Machine

theorem Foot.pick_in {α : Type} (fp : Foot) (c : Comp) (o n : α) (h : c ∈ fp) : fp.pick c o n = n := by
  simp [Foot.pick, Foot.has, h]

theorem Foot.pick_out {α : Type} (fp : Foot) (c : Comp) (o n : α) (h : c ∉ fp) : fp.pick c o n = o := by
  simp [Foot.pick, Foot.has, h]

theorem Foot.pick_self {α : Type} (fp : Foot) (c : Comp) (o : α) : fp.pick c o o = o := by
  simp [Foot.pick]

@[simp] theorem Foot.keep_now (fp : Foot) (o n : Block) : (fp.keep o n).now = o.now := rfl
@[simp] theorem Foot.keep_free (fp : Foot) (o n : Block) : (fp.keep o n).free = fp.pick .free o.free n.free := rfl

@[simp] theorem Foot.keep_node (fp : Foot) (sd : Side) (o n : Block) :
    (fp.keep o n).node sd = fp.node sd (o.node sd) (n.node sd) := by cases sd <;> rfl

/-- Nothing outside the footprint changes. -/
theorem Foot.keep_untouched (fp : Foot) (o n : Block) : Untouched fp o (fp.keep o n) := by
  intro c hc
  cases c with
  | sram sd => cases sd <;> simp [Comp.Same, Foot.keep, Foot.dxt, Foot.dxs, Foot.pick_out, hc]
  | clk sd => simp [Comp.Same, Foot.node, Foot.pick_out, hc]
  | regs sd => simp [Comp.Same, Foot.node, Foot.pick_out, hc]
  | ports sd => simp [Comp.Same, Foot.node, Foot.pick_out, hc]
  | inbox sd => simp [Comp.Same, Foot.node, Foot.pick_out, hc]
  | sheets sd => simp [Comp.Same, Foot.node, Foot.pick_out, hc]
  | outs sd => simp [Comp.Same, Foot.node, Foot.pick_out, hc]
  | convs sd => simp [Comp.Same, Foot.node, Foot.pick_out, hc]
  | dma sd => simp [Comp.Same, Foot.node, Foot.pick_out, hc]
  | eyes sd => simp [Comp.Same, Foot.node, Foot.pick_out, hc]
  | raised sd => simp [Comp.Same, Foot.node, Foot.pick_out, hc]
  | forwarded sd => simp [Comp.Same, Foot.node, Foot.pick_out, hc]
  | _ => simp [Comp.Same, Foot.keep, Foot.dxt, Foot.dxs, Foot.hub, Foot.pick_out, hc]

/-- A command whose meaning acts with a footprint completes with it. -/
theorem completes_of_act {c : Instr} {dt : Nat} {fp : Foot} {s : State} {f : Block → Block} {Q : Block → Prop}
    (h : exec c s = s.act dt fp f) (hq : Q (fp.keep (s.hall.elapse dt) (f (s.hall.elapse dt)))) :
    Completes c dt fp s Q :=
  ⟨_, h, rfl, rfl, fp.keep_untouched _ _, hq⟩

end Sys2Proof.Machine
end

