-- ==== Sys2Proof/Machine/Line.lean ====
section
/-! DEFINITION. A port's lanes: symbols, mark slots, half-sheets and the superframe (R43, R45 to R47, R62). -/

namespace Sys2Proof.Machine

/-- R43: the PAM4 level of a bit pair, whose first bit is the more significant one; Gray coded, without precoding. -/
def pam4 (v : BitVec 2) : Int :=
  if v = 0b00#2 then -3 else if v = 0b01#2 then -1 else if v = 0b11#2 then 1 else 3

/-- The bit pair of a level. -/
def pam4Bits (l : Int) : BitVec 2 :=
  if l = -3 then 0b00#2 else if l = -1 then 0b01#2 else if l = 1 then 0b11#2 else 0b10#2

/-- R47: the 28 bits of a mark in the slot of a lane, in the first (`second` false) or second column of its pair. -/
def markSlot (m : BitVec 112) (second : Bool) (lane : Fin 2) : BitVec 28 :=
  m.extractLsb' (84 - 56 * b2n second - 28 * lane.val) 28

/-- The mark that four slots hold: lane 0 and lane 1 of the first column, then of the second. -/
def markOfSlots (a b c d : BitVec 28) : BitVec 112 := (a ++ b ++ c ++ d : BitVec (28 + 28 + 28 + 28))

/-- The levels of a slot in the order sent, most significant bit first. -/
def slotLevels (w : BitVec 28) : List Int := (List.range 14).map fun i => pam4 (w.extractLsb' (26 - 2 * i) 2)

/-- R62: the half-sheet of a lane: bytes 0 to 127 on lane 0, bytes 128 to 255 on lane 1. -/
def halfSheet (bs : List Byte) (lane : Fin 2) : List Byte := slice bs (128 * lane.val) 128

/-! The counts of R45 and R46, each lane. -/

def columnBits : Nat := 1792
def markSlotBits : Nat := 28
def columnsPerFrame : Nat := 2 * pairsPerFrame
def frameNs : Nat := 8 * columnsPerFrame
def fecBitsPerFrame : Nat := columnsPerFrame * (columnBits - markSlotBits)
def codewordBits : Nat := 544 * 10
def messageBits : Nat := 514 * 10
def codewordsPerFrame : Nat := fecBitsPerFrame / codewordBits
def halfSheetBits : Nat := 1024
def slotsPerFrame : Nat := codewordsPerFrame * messageBits / halfSheetBits
def fillBits : Nat := codewordsPerFrame * messageBits % halfSheetBits

/-- The mark slot that a port's last pair put on a lane. -/
def Block.slotOut (b : Block) (sd : Side) (p : Nat) (second : Bool) (lane : Fin 2) : BitVec 28 :=
  markSlot (b.port sd p).tx.out second lane

/-- The half-sheet that a port's last sheet slot put on a lane. -/
def Block.halfOut (b : Block) (sd : Side) (p : Nat) (lane : Fin 2) : List Byte := halfSheet (b.port sd p).sh.out lane

/-! ### The FEC stream and the superframe (R45, R46)

RS(544,514) over GF(2^10) as IEEE 802.3 has it: the field by x^10 + x^3 + 1, the generator with the roots α^0 to α^29, the
message symbols first, highest power first, then the parity (log entry 133, PRESUMED). A symbol's bits go most significant
first, as every field on a lane (R43). -/

/-- Multiplication by x. -/
def rsTimesX (a : Nat) : Nat := if a < 512 then 2 * a else (2 * a) ^^^ 0x409

/-- The product, by the bits of `b` from bit `n` - 1 down. -/
def rsMulBits (a b : Nat) : Nat → Nat
  | 0 => 0
  | n + 1 => (if bit b (9 - n) then a else 0) ^^^ rsTimesX (rsMulBits a b n)

def rsMul (a b : Nat) : Nat := rsMulBits a b 10

def rsPow (a : Nat) : Nat → Nat
  | 0 => 1
  | n + 1 => rsMul a (rsPow a n)

/-- α^n: α is x. -/
def rsAlpha (n : Nat) : Nat := rsPow 2 (n % 1023)

/-- The inverse of a symbol that is not 0. -/
def rsInv (a : Nat) : Nat := rsPow a 1022

/-- The value at `x` of a polynomial, highest power first. -/
def rsEval (p : List Nat) (x : Nat) : Nat := p.foldl (fun s c => rsMul s x ^^^ c) 0

/-- Coefficient by coefficient, lowest power first. -/
def rsAdd : List Nat → List Nat → List Nat
  | [], q => q
  | p, [] => p
  | a :: p, b :: q => (a ^^^ b) :: rsAdd p q

def rsScale (k : Nat) (p : List Nat) : List Nat := p.map (rsMul k)

/-- The product of polynomials, lowest power first. -/
def rsMulPoly : List Nat → List Nat → List Nat
  | [], _ => []
  | a :: p, q => rsAdd (rsScale a q) (0 :: rsMulPoly p q)

/-- The generator polynomial, highest power first, without its leading 1. -/
def rsGenerator : List Nat :=
  (((List.range 30).foldl (fun g i => rsMulPoly g [rsAlpha i, 1]) [1]).reverse).tail

/-- The parity of a message: the remainder of its polynomial times x^30 by the generator. -/
def rsParity (msg : List Nat) : List Nat :=
  msg.foldl (fun r s => rsAdd (r.tail ++ [0]) (rsScale (s ^^^ r.headD 0) rsGenerator)) (List.replicate 30 0)

/-- A codeword: 514 message symbols, then 30 parity symbols. -/
def rsEncode (msg : List Nat) : List Nat := msg ++ rsParity msg

/-- The 30 syndromes of a received word. -/
def rsSyndromes (w : List Nat) : List Nat := (List.range 30).map fun j => rsEval w (rsAlpha j)

/-- The shortest recurrence that generates the syndromes (Berlekamp and Massey): `c` the recurrence, `p` the one before its last
change of length, with the discrepancy `d0` and the distance `m` since. -/
def rsLocatorStep (syn : List Nat) (x : Nat × List Nat × List Nat × Nat × Nat) (n : Nat) :
    Nat × List Nat × List Nat × Nat × Nat :=
  let (l, c, p, d0, m) := x
  let d := (List.range (l + 1)).foldl (fun s i => s ^^^ rsMul (c.getD i 0) (syn.getD (n - i) 0)) 0
  if d == 0 then (l, c, p, d0, m + 1)
  else
    let c' := rsAdd c (List.replicate m 0 ++ rsScale (rsMul d (rsInv d0)) p)
    if 2 * l ≤ n then (n + 1 - l, c', c, d, 1) else (l, c', p, d0, m + 1)

/-- The error locator, lowest power first, and how many errors it stands for. -/
def rsLocator (syn : List Nat) : Nat × List Nat :=
  let x := (List.range 30).foldl (rsLocatorStep syn) (0, [1], [1], 1, 1)
  (x.1, x.2.1)

/-- The error at the symbol of power `k`, by Forney's formula. -/
def rsErrorAt (syn loc : List Nat) (k : Nat) : Nat :=
  let xi := rsAlpha (1023 - k % 1023)
  if rsEval loc.reverse xi != 0 then 0
  else
    let omega := (rsMulPoly syn loc).take 30
    let odd := ((loc.zip (List.range loc.length)).map fun (c, i) => if i % 2 = 1 then c else 0).tail
    rsMul (rsAlpha k) (rsMul (rsEval omega.reverse xi) (rsInv (rsEval odd.reverse xi)))

/-- The message of a received codeword with up to 15 symbol errors; none if it is uncorrectable. -/
def rsDecode (w : List Nat) : Option (List Nat) :=
  let syn := rsSyndromes w
  if syn.all (· == 0) then some (w.take 514)
  else
    let (l, loc) := rsLocator syn
    let fixed := (w.zip (List.range w.length)).map fun (c, i) => c ^^^ rsErrorAt syn loc (543 - i)
    if l ≤ 15 && ((fixed.zip w).filter fun (a, b) => a != b).length == l && (rsSyndromes fixed).all (· == 0) then
      some (fixed.take 514)
    else none

/-- The low `n` bits of a number, most significant first. -/
def msbBits (n v : Nat) : List Bool := (List.range n).map fun i => bit v (n - 1 - i)

def ofMsbBits (l : List Bool) : Nat := l.foldl (fun v b => 2 * v + b2n b) 0

/-- A list cut into lengths of `n`. -/
def cutsFuel {α : Type} (n : Nat) : Nat → List α → List (List α)
  | 0, _ => []
  | k + 1, l => if l.isEmpty then [] else l.take n :: cutsFuel n k (l.drop n)

def cuts {α : Type} (n : Nat) (l : List α) : List (List α) := cutsFuel n l.length l

/-- The message bits of a superframe on a lane: the half-sheets of its 2,213 slots, then 628 fill bits of 0. -/
def frameMessage (sheets : List (List Byte)) (lane : Fin 2) : List Bool :=
  (sheets.flatMap fun s => (halfSheet s lane).flatMap fun b => msbBits 8 b.toNat) ++ List.replicate fillBits false

/-- The FEC stream of a superframe on a lane: its 441 codewords, one after the other. -/
def frameFec (sheets : List (List Byte)) (lane : Fin 2) : List Bool :=
  (cuts 514 ((cuts 10 (frameMessage sheets lane)).map ofMsbBits)).flatMap fun m => (rsEncode m).flatMap (msbBits 10)

/-- A column: its mark slot in bits 0 to 27, then 1,764 bits of the FEC stream. -/
def column (slot : BitVec 28) (fec : List Bool) : List Bool := msbBits markSlotBits slot.toNat ++ fec

/-- The columns of a superframe on a lane, from its 680 marks and the sheets of its 2,213 slots. -/
def frameColumns (marks : List (BitVec 112)) (sheets : List (List Byte)) (lane : Fin 2) : List (List Bool) :=
  ((marks.flatMap fun m => [markSlot m false lane, markSlot m true lane]).zip
    (cuts (columnBits - markSlotBits) (frameFec sheets lane))).map fun (s, f) => column s f

/-- The mark slot of a received column. -/
def columnSlot (c : List Bool) : BitVec 28 := BitVec.ofNat 28 (ofMsbBits (c.take markSlotBits))

/-- The codewords of received columns, decoded: none where one is uncorrectable. -/
def frameWords (cols : List (List Bool)) : List (Option (List Nat)) :=
  (cuts codewordBits (cols.flatMap fun c => c.drop markSlotBits)).map fun w => rsDecode ((cuts 10 w).map ofMsbBits)

/-- The half-sheet of slot `i` of a lane, and whether it overlaps an uncorrectable codeword (R63). The fill bits lie behind the
last slot and are ignored. -/
def slotHalf (words : List (Option (List Nat))) (i : Nat) : List Byte × Bool :=
  let lo := halfSheetBits * i
  let ws := (words.drop (lo / messageBits)).take ((lo + halfSheetBits - 1) / messageBits - lo / messageBits + 1)
  let ms := ws.flatMap fun w => (w.getD []).flatMap (msbBits 10)
  ((cuts 8 ((ms.drop (lo % messageBits)).take halfSheetBits)).map fun b => BitVec.ofNat 8 (ofMsbBits b),
    ws.any Option.isNone)

/-- A received sheet: the half-sheets of its two lanes, and whether it counts as failed for its codewords. These are the two
operands of SHEET_RECEIVE. -/
def slotSheet (words0 words1 : List (Option (List Nat))) (i : Nat) : List Byte × Bool :=
  let a := slotHalf words0 i
  let b := slotHalf words1 i
  (a.1 ++ b.1, a.2 || b.2)

end Sys2Proof.Machine
end

