-- ==== Sys2Proof/Laws/Line.lean ====
section
/-! SUPPORT. Lemmas about the lanes: a mark's slots give the mark back, and the counts of R46. -/

namespace Sys2Proof.Machine

theorem markOfSlots_markSlot (m : BitVec 112) :
    markOfSlots (markSlot m false 0) (markSlot m false 1) (markSlot m true 0) (markSlot m true 1) = m := by
  ext i hi
  simp only [markOfSlots, markSlot, b2n]
  grind

theorem pam4Bits_pam4 : ∀ v : BitVec 2, pam4Bits (pam4 v) = v := by decide

/-- The derived counts of R46. -/
theorem frame_counts : columnsPerFrame = 1360 ∧ frameNs = 10880 ∧ fecBitsPerFrame = 2399040 ∧ codewordsPerFrame = 441 ∧
    slotsPerFrame = 2213 ∧ fillBits = 628 := by decide

end Sys2Proof.Machine
end

