-- ==== Sys2Proof/Laws/NMap.lean ====
section
/-! SUPPORT. Sparse maps and byte memories: a read after a write, and the canonical form. -/

namespace Sys2Proof.Machine

variable {α : Type}

theorem nget_nins_self (d : Nat → α) (m : NMap α) (k : Nat) (v : α) (h : ∀ e ∈ m, e.1 ≠ k) :
    nget d (nins m k v) k = v := by
  induction m with
  | nil => simp [nins, nget]
  | cons e m ih =>
    obtain ⟨j, u⟩ := e
    have hj : j ≠ k := h (j, u) (by simp)
    simp only [nins]
    split
    · simp only [nget, if_neg hj]
      exact ih fun e he => h e (by simp [he])
    · simp [nget]

theorem nget_nins_ne (d : Nat → α) (m : NMap α) (k i : Nat) (v : α) (h : k ≠ i) :
    nget d (nins m k v) i = nget d m i := by
  induction m with
  | nil => simp [nins, nget, h]
  | cons e m ih =>
    obtain ⟨j, u⟩ := e
    simp only [nins]
    split
    · simp only [nget, ih]
    · simp [nget, h]

theorem nget_ndel_self (d : Nat → α) (m : NMap α) (k : Nat) : nget d (ndel m k) k = d k := by
  induction m with
  | nil => rfl
  | cons e m ih =>
    obtain ⟨j, u⟩ := e
    by_cases hj : j = k
    · simpa [ndel, hj] using ih
    · simpa [ndel, hj, nget] using ih

theorem nget_ndel_ne (d : Nat → α) (m : NMap α) (k i : Nat) (h : k ≠ i) : nget d (ndel m k) i = nget d m i := by
  induction m with
  | nil => rfl
  | cons e m ih =>
    obtain ⟨j, u⟩ := e
    by_cases hj : j = k
    · subst hj
      simpa [ndel, nget, h] using ih
    · simp only [ndel, bne_iff_ne, ne_eq, hj, not_false_eq_true, List.filter_cons_of_pos, nget] at ih ⊢
      simp [ih]

theorem ndel_keys (m : NMap α) (k : Nat) : ∀ e ∈ ndel m k, e.1 ≠ k := by
  intro e he
  simp only [ndel, List.mem_filter, bne_iff_ne] at he
  exact he.2

/-- A read after a write of the same key gives the value written. -/
@[simp] theorem nget_nset_self [DecidableEq α] (d : Nat → α) (m : NMap α) (k : Nat) (v : α) :
    nget d (nset d m k v) k = v := by
  unfold nset
  split
  · simp [nget_ndel_self, *]
  · exact nget_nins_self d _ k v (ndel_keys m k)

/-- A write leaves every other key alone. -/
theorem nget_nset_ne [DecidableEq α] (d : Nat → α) (m : NMap α) (k i : Nat) (v : α) (h : k ≠ i) :
    nget d (nset d m k v) i = nget d m i := by
  unfold nset
  split
  · exact nget_ndel_ne d m k i h
  · rw [nget_nins_ne d _ k i v h, nget_ndel_ne d m k i h]

theorem nget_nset [DecidableEq α] (d : Nat → α) (m : NMap α) (k i : Nat) (v : α) :
    nget d (nset d m k v) i = if k = i then v else nget d m i := by
  by_cases h : k = i
  · subst h; simp
  · simp [h, nget_nset_ne]

@[simp] theorem nget_nupd_self [DecidableEq α] (d : Nat → α) (m : NMap α) (k : Nat) (f : α → α) :
    nget d (nupd d m k f) k = f (nget d m k) := by simp [nupd]

theorem nget_nupd_ne [DecidableEq α] (d : Nat → α) (m : NMap α) (k i : Nat) (f : α → α) (h : k ≠ i) :
    nget d (nupd d m k f) i = nget d m i := by simp [nupd, nget_nset_ne, h]

theorem nget_nupd [DecidableEq α] (d : Nat → α) (m : NMap α) (k i : Nat) (f : α → α) :
    nget d (nupd d m k f) i = if k = i then f (nget d m k) else nget d m i := by
  simp [nupd, nget_nset]

/-! ### The canonical form -/

theorem nmapWf_iff [DecidableEq α] (d : Nat → α) (m : NMap α) :
    NMapWf d m = true ↔ (m.map Prod.fst).Pairwise (· < ·) ∧ ∀ e ∈ m, e.2 ≠ d e.1 := by
  induction m with
  | nil => simp [NMapWf]
  | cons e m ih =>
    obtain ⟨j, u⟩ := e
    cases m with
    | nil => simp [NMapWf]
    | cons e' m =>
      obtain ⟨k, v⟩ := e'
      simp only [NMapWf, Bool.and_eq_true, decide_eq_true_eq, ih]
      simp only [List.map_cons, List.pairwise_cons, List.mem_cons, forall_eq_or_imp]
      constructor
      · rintro ⟨⟨hu, hjk⟩, ⟨hk, hp⟩, hv, hm⟩
        exact ⟨⟨⟨hjk, fun a ha => Nat.lt_trans hjk (hk a ha)⟩, hk, hp⟩, hu, hv, hm⟩
      · rintro ⟨⟨⟨hjk, _⟩, hk, hp⟩, hu, hv, hm⟩
        exact ⟨⟨hu, hjk⟩, ⟨hk, hp⟩, hv, hm⟩

theorem nmapWf_nil [DecidableEq α] (d : Nat → α) : NMapWf d ([] : NMap α) = true := rfl

theorem mem_nins (m : NMap α) (k : Nat) (v : α) (e : Nat × α) : e ∈ nins m k v ↔ e = (k, v) ∨ e ∈ m := by
  induction m with
  | nil => simp [nins]
  | cons x m ih =>
    obtain ⟨j, u⟩ := x
    simp only [nins]
    split
    · simp only [List.mem_cons, ih]
      tauto
    · simp

theorem nins_sorted (m : NMap α) (k : Nat) (v : α) (h : (m.map Prod.fst).Pairwise (· < ·)) (hk : ∀ e ∈ m, e.1 ≠ k) :
    ((nins m k v).map Prod.fst).Pairwise (· < ·) := by
  induction m with
  | nil => simp [nins]
  | cons x m ih =>
    obtain ⟨j, u⟩ := x
    simp only [List.map_cons, List.pairwise_cons, List.mem_map] at h
    have hj : j ≠ k := hk (j, u) (by simp)
    simp only [nins]
    split
    · rename_i hlt
      simp only [List.map_cons, List.pairwise_cons, List.mem_map]
      refine ⟨?_, ih h.2 fun e he => hk e (by simp [he])⟩
      rintro a ⟨e, he, rfl⟩
      rcases (mem_nins m k v e).1 he with rfl | he
      · exact hlt
      · exact h.1 _ ⟨e, he, rfl⟩
    · rename_i hlt
      simp only [List.map_cons, List.pairwise_cons, List.mem_cons, List.mem_map]
      refine ⟨?_, h.1, h.2⟩
      rintro a (rfl | ⟨e, he, rfl⟩)
      · omega
      · have := h.1 _ ⟨e, he, rfl⟩
        omega

theorem ndel_sorted (m : NMap α) (k : Nat) (h : (m.map Prod.fst).Pairwise (· < ·)) :
    ((ndel m k).map Prod.fst).Pairwise (· < ·) :=
  List.Pairwise.sublist (List.Sublist.map _ List.filter_sublist) h

/-- Every write keeps the canonical form. -/
theorem nset_wf [DecidableEq α] (d : Nat → α) (m : NMap α) (k : Nat) (v : α) (h : NMapWf d m = true) :
    NMapWf d (nset d m k v) = true := by
  rw [nmapWf_iff] at h ⊢
  have hd : ∀ e ∈ ndel m k, e.2 ≠ d e.1 := fun e he => h.2 e (List.mem_of_mem_filter he)
  unfold nset
  split
  · exact ⟨ndel_sorted m k h.1, hd⟩
  · refine ⟨nins_sorted _ _ _ (ndel_sorted m k h.1) (ndel_keys m k), fun e he => ?_⟩
    rcases (mem_nins _ _ _ _).1 he with rfl | he
    · assumption
    · exact hd e he

theorem nupd_wf [DecidableEq α] (d : Nat → α) (m : NMap α) (k : Nat) (f : α → α) (h : NMapWf d m = true) :
    NMapWf d (nupd d m k f) = true := nset_wf d m k _ h

/-! ### Byte memories -/

@[simp] theorem memRead_memWrite_self (m : NMap Byte) (a : Nat) (v : Byte) : memRead (memWrite m a v) a = v := by
  simp [memRead, memWrite]

theorem memRead_memWrite_ne (m : NMap Byte) (a c : Nat) (v : Byte) (h : a ≠ c) :
    memRead (memWrite m a v) c = memRead m c := by simp [memRead, memWrite, nget_nset_ne, h]

/-- A write of bytes leaves every address outside them alone. -/
theorem memRead_memWriteN_outside (m : NMap Byte) (a c : Nat) (bs : List Byte) (h : c < a ∨ a + bs.length ≤ c) :
    memRead (memWriteN m a bs) c = memRead m c := by
  induction bs generalizing m a with
  | nil => rfl
  | cons v bs ih =>
    simp only [List.length_cons] at h
    simp only [memWriteN]
    rw [ih _ _ (by omega), memRead_memWrite_ne _ _ _ _ (by omega)]

/-- A write of bytes puts each at its address. -/
theorem memRead_memWriteN_inside (m : NMap Byte) (a i : Nat) (bs : List Byte) (h : i < bs.length) :
    memRead (memWriteN m a bs) (a + i) = bs[i] := by
  induction bs generalizing m a i with
  | nil => simp at h
  | cons v bs ih =>
    simp only [memWriteN]
    cases i with
    | zero =>
      rw [memRead_memWriteN_outside _ _ _ _ (by omega)]
      simp
    | succ i =>
      have := ih (memWrite m a v) (a + 1) i (by simpa using h)
      rw [show a + (i + 1) = a + 1 + i by omega, this]
      simp

theorem memWrite_wf (m : NMap Byte) (a : Nat) (v : Byte) (h : Memory.wf m = true) : Memory.wf (memWrite m a v) = true :=
  nset_wf memZero m a v h

theorem memWriteN_wf (m : NMap Byte) (a : Nat) (bs : List Byte) (h : Memory.wf m = true) :
    Memory.wf (memWriteN m a bs) = true := by
  induction bs generalizing m a with
  | nil => exact h
  | cons v bs ih => exact ih _ _ (memWrite_wf m a v h)

end Sys2Proof.Machine
end

