-- ==== Sys2Proof/Laws/State.lean ====
section
/-! SUPPORT. What each update of the state leaves of each field. -/

namespace Sys2Proof.Machine

/-! ### The part of the block that an update writes -/

@[simp] theorem Block.node_updNode_self (b : Block) (sd : Side) (f : Node → Node) :
    (b.updNode sd f).node sd = f (b.node sd) := by cases sd <;> rfl
theorem Block.node_updNode_ne (b : Block) (sd sd' : Side) (f : Node → Node) (h : sd ≠ sd') :
    (b.updNode sd f).node sd' = b.node sd' := by cases sd <;> cases sd' <;> first | rfl | exact absurd rfl h
@[simp] theorem Block.hub_updHub (b : Block) (f : Hub → Hub) : (b.updHub f).dxs.hub = f b.dxs.hub := rfl
@[simp] theorem Block.die_updDie (b : Block) (f : DieClk → DieClk) : (b.updDie f).dxt.die = f b.dxt.die := rfl
@[simp] theorem Block.step_updStep (b : Block) (f : StepCtx → StepCtx) : (b.updStep f).dxt.step = f b.dxt.step := rfl
@[simp] theorem Block.sm_updSm (b : Block) (f : Module → Module) : (b.updSm f).sm = f b.sm := rfl
@[simp] theorem Block.root_updRoot (b : Block) (f : Root → Root) : (b.updRoot f).dxs.root = f b.dxs.root := rfl
@[simp] theorem Block.sw_updSw (b : Block) (f : SwMeas → SwMeas) : (b.updSw f).dxs.sw = f b.dxs.sw := rfl
@[simp] theorem Block.free_useFree (b : Block) (n : Nat) : (b.useFree n).free = b.free + n := rfl

/-! ### The parts it does not -/

@[simp] theorem Block.hub_updNode (b : Block) (sd : Side) (f : Node → Node) :
    (b.updNode sd f).dxs.hub = b.dxs.hub := by cases sd <;> rfl

@[simp] theorem Block.die_updNode (b : Block) (sd : Side) (f : Node → Node) :
    (b.updNode sd f).dxt.die = b.dxt.die := by cases sd <;> rfl

@[simp] theorem Block.step_updNode (b : Block) (sd : Side) (f : Node → Node) :
    (b.updNode sd f).dxt.step = b.dxt.step := by cases sd <;> rfl

@[simp] theorem Block.sm_updNode (b : Block) (sd : Side) (f : Node → Node) :
    (b.updNode sd f).sm = b.sm := by cases sd <;> rfl

@[simp] theorem Block.root_updNode (b : Block) (sd : Side) (f : Node → Node) :
    (b.updNode sd f).dxs.root = b.dxs.root := by cases sd <;> rfl

@[simp] theorem Block.sw_updNode (b : Block) (sd : Side) (f : Node → Node) :
    (b.updNode sd f).dxs.sw = b.dxs.sw := by cases sd <;> rfl

@[simp] theorem Block.free_updNode (b : Block) (sd : Side) (f : Node → Node) :
    (b.updNode sd f).free = b.free := by cases sd <;> rfl

@[simp] theorem Block.now_updNode (b : Block) (sd : Side) (f : Node → Node) :
    (b.updNode sd f).now = b.now := by cases sd <;> rfl

@[simp] theorem Block.sync_updNode (b : Block) (sd : Side) (f : Node → Node) :
    (b.updNode sd f).dxt.sync = b.dxt.sync := by cases sd <;> rfl

@[simp] theorem Block.binds_updNode (b : Block) (sd : Side) (f : Node → Node) :
    (b.updNode sd f).dxt.binds = b.dxt.binds := by cases sd <;> rfl

@[simp] theorem Block.sramT_updNode (b : Block) (sd : Side) (f : Node → Node) :
    (b.updNode sd f).dxt.sram = b.dxt.sram := by cases sd <;> rfl

@[simp] theorem Block.sramS_updNode (b : Block) (sd : Side) (f : Node → Node) :
    (b.updNode sd f).dxs.sram = b.dxs.sram := by cases sd <;> rfl

@[simp] theorem Block.role_updNode (b : Block) (sd : Side) (f : Node → Node) :
    (b.updNode sd f).dxs.role = b.dxs.role := by cases sd <;> rfl

@[simp] theorem Block.nodeNo_updNode (b : Block) (sd : Side) (f : Node → Node) :
    (b.updNode sd f).dxs.nodeNo = b.dxs.nodeNo := by cases sd <;> rfl

@[simp] theorem Block.quorum_updNode (b : Block) (sd : Side) (f : Node → Node) :
    (b.updNode sd f).dxs.quorum = b.dxs.quorum := by cases sd <;> rfl

@[simp] theorem Block.lastCause_updNode (b : Block) (sd : Side) (f : Node → Node) :
    (b.updNode sd f).dxt.lastCause = b.dxt.lastCause := by cases sd <;> rfl

@[simp] theorem Block.reps_updNode (b : Block) (sd : Side) (f : Node → Node) :
    (b.updNode sd f).dxt.reps = b.dxt.reps := by cases sd <;> rfl

@[simp] theorem Block.syncAudit_updNode (b : Block) (sd : Side) (f : Node → Node) :
    (b.updNode sd f).dxt.syncAudit = b.dxt.syncAudit := by cases sd <;> rfl

@[simp] theorem Block.ckSeen_updNode (b : Block) (sd : Side) (f : Node → Node) :
    (b.updNode sd f).dxt.ckSeen = b.dxt.ckSeen := by cases sd <;> rfl

@[simp] theorem Block.kills_updNode (b : Block) (sd : Side) (f : Node → Node) :
    (b.updNode sd f).dxt.kills = b.dxt.kills := by cases sd <;> rfl

@[simp] theorem Block.peerActs_updNode (b : Block) (sd : Side) (f : Node → Node) :
    (b.updNode sd f).dxs.peerActs = b.dxs.peerActs := by cases sd <;> rfl

@[simp] theorem Block.qlClass_updNode (b : Block) (sd : Side) (f : Node → Node) :
    (b.updNode sd f).dxs.qlClass = b.dxs.qlClass := by cases sd <;> rfl

@[simp] theorem Block.qlSsm_updNode (b : Block) (sd : Side) (f : Node → Node) :
    (b.updNode sd f).dxs.qlSsm = b.dxs.qlSsm := by cases sd <;> rfl

@[simp] theorem Block.qlRxAt_updNode (b : Block) (sd : Side) (f : Node → Node) :
    (b.updNode sd f).dxs.qlRxAt = b.dxs.qlRxAt := by cases sd <;> rfl

@[simp] theorem Block.qlTxAt_updNode (b : Block) (sd : Side) (f : Node → Node) :
    (b.updNode sd f).dxs.qlTxAt = b.dxs.qlTxAt := by cases sd <;> rfl

@[simp] theorem Block.node_updHub (b : Block) (f : Hub → Hub) (sd' : Side) :
    (b.updHub f).node sd' = b.node sd' := by cases sd' <;> rfl

@[simp] theorem Block.die_updHub (b : Block) (f : Hub → Hub) :
    (b.updHub f).dxt.die = b.dxt.die := rfl

@[simp] theorem Block.step_updHub (b : Block) (f : Hub → Hub) :
    (b.updHub f).dxt.step = b.dxt.step := rfl

@[simp] theorem Block.sm_updHub (b : Block) (f : Hub → Hub) :
    (b.updHub f).sm = b.sm := rfl

@[simp] theorem Block.root_updHub (b : Block) (f : Hub → Hub) :
    (b.updHub f).dxs.root = b.dxs.root := rfl

@[simp] theorem Block.sw_updHub (b : Block) (f : Hub → Hub) :
    (b.updHub f).dxs.sw = b.dxs.sw := rfl

@[simp] theorem Block.free_updHub (b : Block) (f : Hub → Hub) :
    (b.updHub f).free = b.free := rfl

@[simp] theorem Block.now_updHub (b : Block) (f : Hub → Hub) :
    (b.updHub f).now = b.now := rfl

@[simp] theorem Block.sync_updHub (b : Block) (f : Hub → Hub) :
    (b.updHub f).dxt.sync = b.dxt.sync := rfl

@[simp] theorem Block.binds_updHub (b : Block) (f : Hub → Hub) :
    (b.updHub f).dxt.binds = b.dxt.binds := rfl

@[simp] theorem Block.sramT_updHub (b : Block) (f : Hub → Hub) :
    (b.updHub f).dxt.sram = b.dxt.sram := rfl

@[simp] theorem Block.sramS_updHub (b : Block) (f : Hub → Hub) :
    (b.updHub f).dxs.sram = b.dxs.sram := rfl

@[simp] theorem Block.role_updHub (b : Block) (f : Hub → Hub) :
    (b.updHub f).dxs.role = b.dxs.role := rfl

@[simp] theorem Block.nodeNo_updHub (b : Block) (f : Hub → Hub) :
    (b.updHub f).dxs.nodeNo = b.dxs.nodeNo := rfl

@[simp] theorem Block.quorum_updHub (b : Block) (f : Hub → Hub) :
    (b.updHub f).dxs.quorum = b.dxs.quorum := rfl

@[simp] theorem Block.lastCause_updHub (b : Block) (f : Hub → Hub) :
    (b.updHub f).dxt.lastCause = b.dxt.lastCause := rfl

@[simp] theorem Block.reps_updHub (b : Block) (f : Hub → Hub) :
    (b.updHub f).dxt.reps = b.dxt.reps := rfl

@[simp] theorem Block.syncAudit_updHub (b : Block) (f : Hub → Hub) :
    (b.updHub f).dxt.syncAudit = b.dxt.syncAudit := rfl

@[simp] theorem Block.ckSeen_updHub (b : Block) (f : Hub → Hub) :
    (b.updHub f).dxt.ckSeen = b.dxt.ckSeen := rfl

@[simp] theorem Block.kills_updHub (b : Block) (f : Hub → Hub) :
    (b.updHub f).dxt.kills = b.dxt.kills := rfl

@[simp] theorem Block.peerActs_updHub (b : Block) (f : Hub → Hub) :
    (b.updHub f).dxs.peerActs = b.dxs.peerActs := rfl

@[simp] theorem Block.qlClass_updHub (b : Block) (f : Hub → Hub) :
    (b.updHub f).dxs.qlClass = b.dxs.qlClass := rfl

@[simp] theorem Block.qlSsm_updHub (b : Block) (f : Hub → Hub) :
    (b.updHub f).dxs.qlSsm = b.dxs.qlSsm := rfl

@[simp] theorem Block.qlRxAt_updHub (b : Block) (f : Hub → Hub) :
    (b.updHub f).dxs.qlRxAt = b.dxs.qlRxAt := rfl

@[simp] theorem Block.qlTxAt_updHub (b : Block) (f : Hub → Hub) :
    (b.updHub f).dxs.qlTxAt = b.dxs.qlTxAt := rfl

@[simp] theorem Block.node_updDie (b : Block) (f : DieClk → DieClk) (sd' : Side) :
    (b.updDie f).node sd' = b.node sd' := by cases sd' <;> rfl

@[simp] theorem Block.hub_updDie (b : Block) (f : DieClk → DieClk) :
    (b.updDie f).dxs.hub = b.dxs.hub := rfl

@[simp] theorem Block.step_updDie (b : Block) (f : DieClk → DieClk) :
    (b.updDie f).dxt.step = b.dxt.step := rfl

@[simp] theorem Block.sm_updDie (b : Block) (f : DieClk → DieClk) :
    (b.updDie f).sm = b.sm := rfl

@[simp] theorem Block.root_updDie (b : Block) (f : DieClk → DieClk) :
    (b.updDie f).dxs.root = b.dxs.root := rfl

@[simp] theorem Block.sw_updDie (b : Block) (f : DieClk → DieClk) :
    (b.updDie f).dxs.sw = b.dxs.sw := rfl

@[simp] theorem Block.free_updDie (b : Block) (f : DieClk → DieClk) :
    (b.updDie f).free = b.free := rfl

@[simp] theorem Block.now_updDie (b : Block) (f : DieClk → DieClk) :
    (b.updDie f).now = b.now := rfl

@[simp] theorem Block.sync_updDie (b : Block) (f : DieClk → DieClk) :
    (b.updDie f).dxt.sync = b.dxt.sync := rfl

@[simp] theorem Block.binds_updDie (b : Block) (f : DieClk → DieClk) :
    (b.updDie f).dxt.binds = b.dxt.binds := rfl

@[simp] theorem Block.sramT_updDie (b : Block) (f : DieClk → DieClk) :
    (b.updDie f).dxt.sram = b.dxt.sram := rfl

@[simp] theorem Block.sramS_updDie (b : Block) (f : DieClk → DieClk) :
    (b.updDie f).dxs.sram = b.dxs.sram := rfl

@[simp] theorem Block.role_updDie (b : Block) (f : DieClk → DieClk) :
    (b.updDie f).dxs.role = b.dxs.role := rfl

@[simp] theorem Block.nodeNo_updDie (b : Block) (f : DieClk → DieClk) :
    (b.updDie f).dxs.nodeNo = b.dxs.nodeNo := rfl

@[simp] theorem Block.quorum_updDie (b : Block) (f : DieClk → DieClk) :
    (b.updDie f).dxs.quorum = b.dxs.quorum := rfl

@[simp] theorem Block.lastCause_updDie (b : Block) (f : DieClk → DieClk) :
    (b.updDie f).dxt.lastCause = b.dxt.lastCause := rfl

@[simp] theorem Block.reps_updDie (b : Block) (f : DieClk → DieClk) :
    (b.updDie f).dxt.reps = b.dxt.reps := rfl

@[simp] theorem Block.syncAudit_updDie (b : Block) (f : DieClk → DieClk) :
    (b.updDie f).dxt.syncAudit = b.dxt.syncAudit := rfl

@[simp] theorem Block.ckSeen_updDie (b : Block) (f : DieClk → DieClk) :
    (b.updDie f).dxt.ckSeen = b.dxt.ckSeen := rfl

@[simp] theorem Block.kills_updDie (b : Block) (f : DieClk → DieClk) :
    (b.updDie f).dxt.kills = b.dxt.kills := rfl

@[simp] theorem Block.peerActs_updDie (b : Block) (f : DieClk → DieClk) :
    (b.updDie f).dxs.peerActs = b.dxs.peerActs := rfl

@[simp] theorem Block.qlClass_updDie (b : Block) (f : DieClk → DieClk) :
    (b.updDie f).dxs.qlClass = b.dxs.qlClass := rfl

@[simp] theorem Block.qlSsm_updDie (b : Block) (f : DieClk → DieClk) :
    (b.updDie f).dxs.qlSsm = b.dxs.qlSsm := rfl

@[simp] theorem Block.qlRxAt_updDie (b : Block) (f : DieClk → DieClk) :
    (b.updDie f).dxs.qlRxAt = b.dxs.qlRxAt := rfl

@[simp] theorem Block.qlTxAt_updDie (b : Block) (f : DieClk → DieClk) :
    (b.updDie f).dxs.qlTxAt = b.dxs.qlTxAt := rfl

@[simp] theorem Block.node_updStep (b : Block) (f : StepCtx → StepCtx) (sd' : Side) :
    (b.updStep f).node sd' = b.node sd' := by cases sd' <;> rfl

@[simp] theorem Block.hub_updStep (b : Block) (f : StepCtx → StepCtx) :
    (b.updStep f).dxs.hub = b.dxs.hub := rfl

@[simp] theorem Block.die_updStep (b : Block) (f : StepCtx → StepCtx) :
    (b.updStep f).dxt.die = b.dxt.die := rfl

@[simp] theorem Block.sm_updStep (b : Block) (f : StepCtx → StepCtx) :
    (b.updStep f).sm = b.sm := rfl

@[simp] theorem Block.root_updStep (b : Block) (f : StepCtx → StepCtx) :
    (b.updStep f).dxs.root = b.dxs.root := rfl

@[simp] theorem Block.sw_updStep (b : Block) (f : StepCtx → StepCtx) :
    (b.updStep f).dxs.sw = b.dxs.sw := rfl

@[simp] theorem Block.free_updStep (b : Block) (f : StepCtx → StepCtx) :
    (b.updStep f).free = b.free := rfl

@[simp] theorem Block.now_updStep (b : Block) (f : StepCtx → StepCtx) :
    (b.updStep f).now = b.now := rfl

@[simp] theorem Block.sync_updStep (b : Block) (f : StepCtx → StepCtx) :
    (b.updStep f).dxt.sync = b.dxt.sync := rfl

@[simp] theorem Block.binds_updStep (b : Block) (f : StepCtx → StepCtx) :
    (b.updStep f).dxt.binds = b.dxt.binds := rfl

@[simp] theorem Block.sramT_updStep (b : Block) (f : StepCtx → StepCtx) :
    (b.updStep f).dxt.sram = b.dxt.sram := rfl

@[simp] theorem Block.sramS_updStep (b : Block) (f : StepCtx → StepCtx) :
    (b.updStep f).dxs.sram = b.dxs.sram := rfl

@[simp] theorem Block.role_updStep (b : Block) (f : StepCtx → StepCtx) :
    (b.updStep f).dxs.role = b.dxs.role := rfl

@[simp] theorem Block.nodeNo_updStep (b : Block) (f : StepCtx → StepCtx) :
    (b.updStep f).dxs.nodeNo = b.dxs.nodeNo := rfl

@[simp] theorem Block.quorum_updStep (b : Block) (f : StepCtx → StepCtx) :
    (b.updStep f).dxs.quorum = b.dxs.quorum := rfl

@[simp] theorem Block.lastCause_updStep (b : Block) (f : StepCtx → StepCtx) :
    (b.updStep f).dxt.lastCause = b.dxt.lastCause := rfl

@[simp] theorem Block.reps_updStep (b : Block) (f : StepCtx → StepCtx) :
    (b.updStep f).dxt.reps = b.dxt.reps := rfl

@[simp] theorem Block.syncAudit_updStep (b : Block) (f : StepCtx → StepCtx) :
    (b.updStep f).dxt.syncAudit = b.dxt.syncAudit := rfl

@[simp] theorem Block.ckSeen_updStep (b : Block) (f : StepCtx → StepCtx) :
    (b.updStep f).dxt.ckSeen = b.dxt.ckSeen := rfl

@[simp] theorem Block.kills_updStep (b : Block) (f : StepCtx → StepCtx) :
    (b.updStep f).dxt.kills = b.dxt.kills := rfl

@[simp] theorem Block.peerActs_updStep (b : Block) (f : StepCtx → StepCtx) :
    (b.updStep f).dxs.peerActs = b.dxs.peerActs := rfl

@[simp] theorem Block.qlClass_updStep (b : Block) (f : StepCtx → StepCtx) :
    (b.updStep f).dxs.qlClass = b.dxs.qlClass := rfl

@[simp] theorem Block.qlSsm_updStep (b : Block) (f : StepCtx → StepCtx) :
    (b.updStep f).dxs.qlSsm = b.dxs.qlSsm := rfl

@[simp] theorem Block.qlRxAt_updStep (b : Block) (f : StepCtx → StepCtx) :
    (b.updStep f).dxs.qlRxAt = b.dxs.qlRxAt := rfl

@[simp] theorem Block.qlTxAt_updStep (b : Block) (f : StepCtx → StepCtx) :
    (b.updStep f).dxs.qlTxAt = b.dxs.qlTxAt := rfl

@[simp] theorem Block.node_updSm (b : Block) (f : Module → Module) (sd' : Side) :
    (b.updSm f).node sd' = b.node sd' := by cases sd' <;> rfl

@[simp] theorem Block.hub_updSm (b : Block) (f : Module → Module) :
    (b.updSm f).dxs.hub = b.dxs.hub := rfl

@[simp] theorem Block.die_updSm (b : Block) (f : Module → Module) :
    (b.updSm f).dxt.die = b.dxt.die := rfl

@[simp] theorem Block.step_updSm (b : Block) (f : Module → Module) :
    (b.updSm f).dxt.step = b.dxt.step := rfl

@[simp] theorem Block.root_updSm (b : Block) (f : Module → Module) :
    (b.updSm f).dxs.root = b.dxs.root := rfl

@[simp] theorem Block.sw_updSm (b : Block) (f : Module → Module) :
    (b.updSm f).dxs.sw = b.dxs.sw := rfl

@[simp] theorem Block.free_updSm (b : Block) (f : Module → Module) :
    (b.updSm f).free = b.free := rfl

@[simp] theorem Block.now_updSm (b : Block) (f : Module → Module) :
    (b.updSm f).now = b.now := rfl

@[simp] theorem Block.sync_updSm (b : Block) (f : Module → Module) :
    (b.updSm f).dxt.sync = b.dxt.sync := rfl

@[simp] theorem Block.binds_updSm (b : Block) (f : Module → Module) :
    (b.updSm f).dxt.binds = b.dxt.binds := rfl

@[simp] theorem Block.sramT_updSm (b : Block) (f : Module → Module) :
    (b.updSm f).dxt.sram = b.dxt.sram := rfl

@[simp] theorem Block.sramS_updSm (b : Block) (f : Module → Module) :
    (b.updSm f).dxs.sram = b.dxs.sram := rfl

@[simp] theorem Block.role_updSm (b : Block) (f : Module → Module) :
    (b.updSm f).dxs.role = b.dxs.role := rfl

@[simp] theorem Block.nodeNo_updSm (b : Block) (f : Module → Module) :
    (b.updSm f).dxs.nodeNo = b.dxs.nodeNo := rfl

@[simp] theorem Block.quorum_updSm (b : Block) (f : Module → Module) :
    (b.updSm f).dxs.quorum = b.dxs.quorum := rfl

@[simp] theorem Block.lastCause_updSm (b : Block) (f : Module → Module) :
    (b.updSm f).dxt.lastCause = b.dxt.lastCause := rfl

@[simp] theorem Block.reps_updSm (b : Block) (f : Module → Module) :
    (b.updSm f).dxt.reps = b.dxt.reps := rfl

@[simp] theorem Block.syncAudit_updSm (b : Block) (f : Module → Module) :
    (b.updSm f).dxt.syncAudit = b.dxt.syncAudit := rfl

@[simp] theorem Block.ckSeen_updSm (b : Block) (f : Module → Module) :
    (b.updSm f).dxt.ckSeen = b.dxt.ckSeen := rfl

@[simp] theorem Block.kills_updSm (b : Block) (f : Module → Module) :
    (b.updSm f).dxt.kills = b.dxt.kills := rfl

@[simp] theorem Block.peerActs_updSm (b : Block) (f : Module → Module) :
    (b.updSm f).dxs.peerActs = b.dxs.peerActs := rfl

@[simp] theorem Block.qlClass_updSm (b : Block) (f : Module → Module) :
    (b.updSm f).dxs.qlClass = b.dxs.qlClass := rfl

@[simp] theorem Block.qlSsm_updSm (b : Block) (f : Module → Module) :
    (b.updSm f).dxs.qlSsm = b.dxs.qlSsm := rfl

@[simp] theorem Block.qlRxAt_updSm (b : Block) (f : Module → Module) :
    (b.updSm f).dxs.qlRxAt = b.dxs.qlRxAt := rfl

@[simp] theorem Block.qlTxAt_updSm (b : Block) (f : Module → Module) :
    (b.updSm f).dxs.qlTxAt = b.dxs.qlTxAt := rfl

@[simp] theorem Block.node_updRoot (b : Block) (f : Root → Root) (sd' : Side) :
    (b.updRoot f).node sd' = b.node sd' := by cases sd' <;> rfl

@[simp] theorem Block.hub_updRoot (b : Block) (f : Root → Root) :
    (b.updRoot f).dxs.hub = b.dxs.hub := rfl

@[simp] theorem Block.die_updRoot (b : Block) (f : Root → Root) :
    (b.updRoot f).dxt.die = b.dxt.die := rfl

@[simp] theorem Block.step_updRoot (b : Block) (f : Root → Root) :
    (b.updRoot f).dxt.step = b.dxt.step := rfl

@[simp] theorem Block.sm_updRoot (b : Block) (f : Root → Root) :
    (b.updRoot f).sm = b.sm := rfl

@[simp] theorem Block.sw_updRoot (b : Block) (f : Root → Root) :
    (b.updRoot f).dxs.sw = b.dxs.sw := rfl

@[simp] theorem Block.free_updRoot (b : Block) (f : Root → Root) :
    (b.updRoot f).free = b.free := rfl

@[simp] theorem Block.now_updRoot (b : Block) (f : Root → Root) :
    (b.updRoot f).now = b.now := rfl

@[simp] theorem Block.sync_updRoot (b : Block) (f : Root → Root) :
    (b.updRoot f).dxt.sync = b.dxt.sync := rfl

@[simp] theorem Block.binds_updRoot (b : Block) (f : Root → Root) :
    (b.updRoot f).dxt.binds = b.dxt.binds := rfl

@[simp] theorem Block.sramT_updRoot (b : Block) (f : Root → Root) :
    (b.updRoot f).dxt.sram = b.dxt.sram := rfl

@[simp] theorem Block.sramS_updRoot (b : Block) (f : Root → Root) :
    (b.updRoot f).dxs.sram = b.dxs.sram := rfl

@[simp] theorem Block.role_updRoot (b : Block) (f : Root → Root) :
    (b.updRoot f).dxs.role = b.dxs.role := rfl

@[simp] theorem Block.nodeNo_updRoot (b : Block) (f : Root → Root) :
    (b.updRoot f).dxs.nodeNo = b.dxs.nodeNo := rfl

@[simp] theorem Block.quorum_updRoot (b : Block) (f : Root → Root) :
    (b.updRoot f).dxs.quorum = b.dxs.quorum := rfl

@[simp] theorem Block.lastCause_updRoot (b : Block) (f : Root → Root) :
    (b.updRoot f).dxt.lastCause = b.dxt.lastCause := rfl

@[simp] theorem Block.reps_updRoot (b : Block) (f : Root → Root) :
    (b.updRoot f).dxt.reps = b.dxt.reps := rfl

@[simp] theorem Block.syncAudit_updRoot (b : Block) (f : Root → Root) :
    (b.updRoot f).dxt.syncAudit = b.dxt.syncAudit := rfl

@[simp] theorem Block.ckSeen_updRoot (b : Block) (f : Root → Root) :
    (b.updRoot f).dxt.ckSeen = b.dxt.ckSeen := rfl

@[simp] theorem Block.kills_updRoot (b : Block) (f : Root → Root) :
    (b.updRoot f).dxt.kills = b.dxt.kills := rfl

@[simp] theorem Block.peerActs_updRoot (b : Block) (f : Root → Root) :
    (b.updRoot f).dxs.peerActs = b.dxs.peerActs := rfl

@[simp] theorem Block.qlClass_updRoot (b : Block) (f : Root → Root) :
    (b.updRoot f).dxs.qlClass = b.dxs.qlClass := rfl

@[simp] theorem Block.qlSsm_updRoot (b : Block) (f : Root → Root) :
    (b.updRoot f).dxs.qlSsm = b.dxs.qlSsm := rfl

@[simp] theorem Block.qlRxAt_updRoot (b : Block) (f : Root → Root) :
    (b.updRoot f).dxs.qlRxAt = b.dxs.qlRxAt := rfl

@[simp] theorem Block.qlTxAt_updRoot (b : Block) (f : Root → Root) :
    (b.updRoot f).dxs.qlTxAt = b.dxs.qlTxAt := rfl

@[simp] theorem Block.node_updSw (b : Block) (f : SwMeas → SwMeas) (sd' : Side) :
    (b.updSw f).node sd' = b.node sd' := by cases sd' <;> rfl

@[simp] theorem Block.hub_updSw (b : Block) (f : SwMeas → SwMeas) :
    (b.updSw f).dxs.hub = b.dxs.hub := rfl

@[simp] theorem Block.die_updSw (b : Block) (f : SwMeas → SwMeas) :
    (b.updSw f).dxt.die = b.dxt.die := rfl

@[simp] theorem Block.step_updSw (b : Block) (f : SwMeas → SwMeas) :
    (b.updSw f).dxt.step = b.dxt.step := rfl

@[simp] theorem Block.sm_updSw (b : Block) (f : SwMeas → SwMeas) :
    (b.updSw f).sm = b.sm := rfl

@[simp] theorem Block.root_updSw (b : Block) (f : SwMeas → SwMeas) :
    (b.updSw f).dxs.root = b.dxs.root := rfl

@[simp] theorem Block.free_updSw (b : Block) (f : SwMeas → SwMeas) :
    (b.updSw f).free = b.free := rfl

@[simp] theorem Block.now_updSw (b : Block) (f : SwMeas → SwMeas) :
    (b.updSw f).now = b.now := rfl

@[simp] theorem Block.sync_updSw (b : Block) (f : SwMeas → SwMeas) :
    (b.updSw f).dxt.sync = b.dxt.sync := rfl

@[simp] theorem Block.binds_updSw (b : Block) (f : SwMeas → SwMeas) :
    (b.updSw f).dxt.binds = b.dxt.binds := rfl

@[simp] theorem Block.sramT_updSw (b : Block) (f : SwMeas → SwMeas) :
    (b.updSw f).dxt.sram = b.dxt.sram := rfl

@[simp] theorem Block.sramS_updSw (b : Block) (f : SwMeas → SwMeas) :
    (b.updSw f).dxs.sram = b.dxs.sram := rfl

@[simp] theorem Block.role_updSw (b : Block) (f : SwMeas → SwMeas) :
    (b.updSw f).dxs.role = b.dxs.role := rfl

@[simp] theorem Block.nodeNo_updSw (b : Block) (f : SwMeas → SwMeas) :
    (b.updSw f).dxs.nodeNo = b.dxs.nodeNo := rfl

@[simp] theorem Block.quorum_updSw (b : Block) (f : SwMeas → SwMeas) :
    (b.updSw f).dxs.quorum = b.dxs.quorum := rfl

@[simp] theorem Block.lastCause_updSw (b : Block) (f : SwMeas → SwMeas) :
    (b.updSw f).dxt.lastCause = b.dxt.lastCause := rfl

@[simp] theorem Block.reps_updSw (b : Block) (f : SwMeas → SwMeas) :
    (b.updSw f).dxt.reps = b.dxt.reps := rfl

@[simp] theorem Block.syncAudit_updSw (b : Block) (f : SwMeas → SwMeas) :
    (b.updSw f).dxt.syncAudit = b.dxt.syncAudit := rfl

@[simp] theorem Block.ckSeen_updSw (b : Block) (f : SwMeas → SwMeas) :
    (b.updSw f).dxt.ckSeen = b.dxt.ckSeen := rfl

@[simp] theorem Block.kills_updSw (b : Block) (f : SwMeas → SwMeas) :
    (b.updSw f).dxt.kills = b.dxt.kills := rfl

@[simp] theorem Block.peerActs_updSw (b : Block) (f : SwMeas → SwMeas) :
    (b.updSw f).dxs.peerActs = b.dxs.peerActs := rfl

@[simp] theorem Block.qlClass_updSw (b : Block) (f : SwMeas → SwMeas) :
    (b.updSw f).dxs.qlClass = b.dxs.qlClass := rfl

@[simp] theorem Block.qlSsm_updSw (b : Block) (f : SwMeas → SwMeas) :
    (b.updSw f).dxs.qlSsm = b.dxs.qlSsm := rfl

@[simp] theorem Block.qlRxAt_updSw (b : Block) (f : SwMeas → SwMeas) :
    (b.updSw f).dxs.qlRxAt = b.dxs.qlRxAt := rfl

@[simp] theorem Block.qlTxAt_updSw (b : Block) (f : SwMeas → SwMeas) :
    (b.updSw f).dxs.qlTxAt = b.dxs.qlTxAt := rfl

@[simp] theorem Block.node_useFree (b : Block) (n : Nat) (sd' : Side) :
    (b.useFree n).node sd' = b.node sd' := by cases sd' <;> rfl

@[simp] theorem Block.hub_useFree (b : Block) (n : Nat) :
    (b.useFree n).dxs.hub = b.dxs.hub := rfl

@[simp] theorem Block.die_useFree (b : Block) (n : Nat) :
    (b.useFree n).dxt.die = b.dxt.die := rfl

@[simp] theorem Block.step_useFree (b : Block) (n : Nat) :
    (b.useFree n).dxt.step = b.dxt.step := rfl

@[simp] theorem Block.sm_useFree (b : Block) (n : Nat) :
    (b.useFree n).sm = b.sm := rfl

@[simp] theorem Block.root_useFree (b : Block) (n : Nat) :
    (b.useFree n).dxs.root = b.dxs.root := rfl

@[simp] theorem Block.sw_useFree (b : Block) (n : Nat) :
    (b.useFree n).dxs.sw = b.dxs.sw := rfl

@[simp] theorem Block.now_useFree (b : Block) (n : Nat) :
    (b.useFree n).now = b.now := rfl

@[simp] theorem Block.sync_useFree (b : Block) (n : Nat) :
    (b.useFree n).dxt.sync = b.dxt.sync := rfl

@[simp] theorem Block.binds_useFree (b : Block) (n : Nat) :
    (b.useFree n).dxt.binds = b.dxt.binds := rfl

@[simp] theorem Block.sramT_useFree (b : Block) (n : Nat) :
    (b.useFree n).dxt.sram = b.dxt.sram := rfl

@[simp] theorem Block.sramS_useFree (b : Block) (n : Nat) :
    (b.useFree n).dxs.sram = b.dxs.sram := rfl

@[simp] theorem Block.role_useFree (b : Block) (n : Nat) :
    (b.useFree n).dxs.role = b.dxs.role := rfl

@[simp] theorem Block.nodeNo_useFree (b : Block) (n : Nat) :
    (b.useFree n).dxs.nodeNo = b.dxs.nodeNo := rfl

@[simp] theorem Block.quorum_useFree (b : Block) (n : Nat) :
    (b.useFree n).dxs.quorum = b.dxs.quorum := rfl

@[simp] theorem Block.lastCause_useFree (b : Block) (n : Nat) :
    (b.useFree n).dxt.lastCause = b.dxt.lastCause := rfl

@[simp] theorem Block.reps_useFree (b : Block) (n : Nat) :
    (b.useFree n).dxt.reps = b.dxt.reps := rfl

@[simp] theorem Block.syncAudit_useFree (b : Block) (n : Nat) :
    (b.useFree n).dxt.syncAudit = b.dxt.syncAudit := rfl

@[simp] theorem Block.ckSeen_useFree (b : Block) (n : Nat) :
    (b.useFree n).dxt.ckSeen = b.dxt.ckSeen := rfl

@[simp] theorem Block.kills_useFree (b : Block) (n : Nat) :
    (b.useFree n).dxt.kills = b.dxt.kills := rfl

@[simp] theorem Block.peerActs_useFree (b : Block) (n : Nat) :
    (b.useFree n).dxs.peerActs = b.dxs.peerActs := rfl

@[simp] theorem Block.qlClass_useFree (b : Block) (n : Nat) :
    (b.useFree n).dxs.qlClass = b.dxs.qlClass := rfl

@[simp] theorem Block.qlSsm_useFree (b : Block) (n : Nat) :
    (b.useFree n).dxs.qlSsm = b.dxs.qlSsm := rfl

@[simp] theorem Block.qlRxAt_useFree (b : Block) (n : Nat) :
    (b.useFree n).dxs.qlRxAt = b.dxs.qlRxAt := rfl

@[simp] theorem Block.qlTxAt_useFree (b : Block) (n : Nat) :
    (b.useFree n).dxs.qlTxAt = b.dxs.qlTxAt := rfl

end Sys2Proof.Machine
end

