-- ==== Sys2Proof/Laws/Ports.lean ====
section
/-! SUPPORT. Ports, clocks and registers: what writing one leaves of the others. -/

namespace Sys2Proof.Machine

/-! ### Registers -/

@[simp] theorem Block.reg_setEff_self (b : Block) (sd : Side) (off idx : Nat) (w : Word) :
    (b.setEff sd (regKey idx off) w).reg sd off idx = w := by simp [Block.reg, Block.setEff, Block.updRegs]

theorem Block.reg_setEff_ne (b : Block) (sd : Side) (key off idx : Nat) (w : Word) (h : key ≠ regKey idx off) :
    (b.setEff sd key w).reg sd off idx = b.reg sd off idx := by
  simp [Block.reg, Block.setEff, Block.updRegs, nget_nset_ne, h]

theorem Block.reg_setEff_side (b : Block) (sd sd' : Side) (key off idx : Nat) (w : Word) (h : sd ≠ sd') :
    (b.setEff sd key w).reg sd' off idx = b.reg sd' off idx := by
  simp [Block.reg, Block.setEff, Block.updRegs, Block.node_updNode_ne, h]

@[simp] theorem Block.reg_hw_self (b : Block) (sd : Side) (off idx : Nat) (w : Word) :
    (b.hw sd off idx w).reg sd off idx = w := by simp [Block.hw]

theorem Block.reg_hw_ne (b : Block) (sd : Side) (off idx off' idx' : Nat) (w : Word)
    (h : regKey idx off ≠ regKey idx' off') : (b.hw sd off idx w).reg sd off' idx' = b.reg sd off' idx' := by
  simp [Block.hw, Block.reg_setEff_ne, h]

@[simp] theorem Block.reg_bump_self (b : Block) (sd : Side) (off idx n : Nat) :
    (b.bump sd off idx n).reg sd off idx = b.reg sd off idx + w32 n := by simp [Block.bump]

theorem Block.reg_bump_ne (b : Block) (sd : Side) (off idx off' idx' n : Nat) (h : regKey idx off ≠ regKey idx' off') :
    (b.bump sd off idx n).reg sd off' idx' = b.reg sd off' idx' := by simp [Block.bump, Block.reg_hw_ne, h]

@[simp] theorem Block.node_setEff (b : Block) (sd : Side) (key : Nat) (w : Word) :
    (b.setEff sd key w).node sd = { b.node sd with regs := { (b.node sd).regs with file :=
      { (b.node sd).regs.file with eff := nset (regReset sd) (b.node sd).regs.file.eff key w } } } := by
  simp [Block.setEff, Block.updRegs]

/-! ### Ports -/

@[simp] theorem Block.port_updPort_self (b : Block) (sd : Side) (p : Nat) (f : Port → Port) :
    (b.updPort sd p f).port sd p = f (b.port sd p) := by simp [Block.port, Block.updPort]

theorem Block.port_updPort_ne (b : Block) (sd : Side) (p q : Nat) (f : Port → Port) (h : p ≠ q) :
    (b.updPort sd p f).port sd q = b.port sd q := by simp [Block.port, Block.updPort, nget_nupd_ne, h]

theorem Block.port_updPort_side (b : Block) (sd sd' : Side) (p q : Nat) (f : Port → Port) (h : sd ≠ sd') :
    (b.updPort sd p f).port sd' q = b.port sd' q := by simp [Block.port, Block.updPort, Block.node_updNode_ne, h]

@[simp] theorem Block.reg_updPort (b : Block) (sd sd' : Side) (p off idx : Nat) (f : Port → Port) :
    (b.updPort sd p f).reg sd' off idx = b.reg sd' off idx := by cases sd <;> cases sd' <;> rfl

@[simp] theorem Block.port_updRegs (b : Block) (sd sd' : Side) (p : Nat) (f : RegCtl → RegCtl) :
    (b.updRegs sd f).port sd' p = b.port sd' p := by cases sd <;> cases sd' <;> rfl

@[simp] theorem Block.port_setEff (b : Block) (sd sd' : Side) (key p : Nat) (w : Word) :
    (b.setEff sd key w).port sd' p = b.port sd' p := by simp [Block.setEff]

@[simp] theorem Block.port_hw (b : Block) (sd sd' : Side) (off idx p : Nat) (w : Word) :
    (b.hw sd off idx w).port sd' p = b.port sd' p := by simp [Block.hw]

@[simp] theorem Block.port_bump (b : Block) (sd sd' : Side) (off idx n p : Nat) :
    (b.bump sd off idx n).port sd' p = b.port sd' p := by simp [Block.bump]

@[simp] theorem Block.port_updClk (b : Block) (sd sd' : Side) (p : Nat) (f : Clock → Clock) :
    (b.updClk sd f).port sd' p = b.port sd' p := by cases sd <;> cases sd' <;> rfl

@[simp] theorem Block.reg_updClk (b : Block) (sd sd' : Side) (off idx : Nat) (f : Clock → Clock) :
    (b.updClk sd f).reg sd' off idx = b.reg sd' off idx := by cases sd <;> cases sd' <;> rfl

@[simp] theorem Block.port_pushMark (b : Block) (sd sd' : Side) (p : Nat) (r : RxMark) :
    (b.pushMark sd r).port sd' p = b.port sd' p := by cases sd <;> cases sd' <;> rfl

@[simp] theorem Block.reg_pushMark (b : Block) (sd sd' : Side) (off idx : Nat) (r : RxMark) :
    (b.pushMark sd r).reg sd' off idx = b.reg sd' off idx := by cases sd <;> cases sd' <;> rfl

@[simp] theorem Block.port_noteRaised (b : Block) (sd sd' : Side) (c q p : Nat) :
    (b.noteRaised sd c q).port sd' p = b.port sd' p := by cases sd <;> cases sd' <;> rfl

@[simp] theorem Block.reg_noteRaised (b : Block) (sd sd' : Side) (c q off idx : Nat) :
    (b.noteRaised sd c q).reg sd' off idx = b.reg sd' off idx := by cases sd <;> cases sd' <;> rfl

/-! ### Offering marks changes queues alone -/

/-- What offering a mark leaves of a port: everything but the class queues, the waiting marks and the queues' maxima. -/
def Port.AlikeButQueues (o n : Port) : Prop :=
  n.st = o.st ∧ n.rx = o.rx ∧ n.sh = o.sh ∧ n.echo = o.echo ∧ n.downAt = o.downAt ∧ n.rejoin = o.rejoin ∧
    n.latFail = o.latFail ∧ n.pathOut = o.pathOut ∧ n.tx.pair = o.tx.pair ∧ n.tx.history = o.tx.history ∧
    n.tx.handled = o.tx.handled ∧ n.tx.out = o.tx.out ∧ n.tx.lastSent = o.tx.lastSent

theorem Port.alike_refl (q : Port) : q.AlikeButQueues q := by simp [Port.AlikeButQueues]

theorem Port.alike_trans {a c d : Port} (h : a.AlikeButQueues c) (k : c.AlikeButQueues d) : a.AlikeButQueues d := by
  simp only [Port.AlikeButQueues] at *
  aesop

theorem Block.offerQ_port (b : Block) (sd sd' : Side) (p q : Nat) (m : QMark) :
    (b.port sd' q).AlikeButQueues ((b.offerQ sd p m).port sd' q) := by
  unfold Block.offerQ
  dsimp only
  have key : ∀ f : Port → Port, (∀ x : Port, x.AlikeButQueues (f x)) →
      (b.port sd' q).AlikeButQueues ((b.updPort sd p f).port sd' q) := by
    intro f hf
    by_cases h : sd = sd'
    · subst h
      by_cases hp : p = q
      · subst hp; simpa using hf _
      · simp [Block.port_updPort_ne, hp, Port.alike_refl]
    · simp [Block.port_updPort_side, h, Port.alike_refl]
  split
  · exact Port.alike_refl _
  · split
    · refine key _ fun x => ?_
      simp only [Port.noteQueues, PortTx.setQueue]
      split <;> simp [Port.AlikeButQueues]
    · rw [Block.port_bump]
      refine key _ fun x => ?_
      simp [Port.AlikeButQueues]

theorem Block.offer_port (b : Block) (sd sd' : Side) (p q : Nat) (m : Mark) :
    (b.port sd' q).AlikeButQueues ((b.offer sd p m).port sd' q) := b.offerQ_port sd sd' p q ⟨m, 0⟩

theorem Block.offerAll_port (b : Block) (sd sd' : Side) (ps : List Nat) (q : Nat) (m : Mark) :
    (b.port sd' q).AlikeButQueues ((b.offerAll sd ps m).port sd' q) := by
  unfold Block.offerAll Block.each
  induction ps generalizing b with
  | nil => exact Port.alike_refl _
  | cons p ps ih => exact Port.alike_trans (b.offer_port sd sd' p q m) (ih _)

theorem Block.raiseDxt_port (b : Block) (c n : Nat) (sd : Side) (q : Nat) :
    (b.port sd q).AlikeButQueues ((b.raiseDxt c n).port sd q) := by
  have e : ∀ x : Block, ({ x with dxt := { x.dxt with lastCause := c } }).port sd q = x.port sd q := by
    intro x; cases sd <;> rfl
  unfold Block.raiseDxt
  dsimp only
  split
  · rw [Block.port_bump, Block.port_bump, e]; exact Port.alike_refl _
  · refine Port.alike_trans ?_ (Block.offerAll_port _ _ _ _ _ _)
    rw [Block.port_noteRaised, Block.port_bump, e]; exact Port.alike_refl _

theorem Block.raiseDxs_port (b : Block) (c n : Nat) (j : Option Nat) (sd : Side) (q : Nat) :
    (b.port sd q).AlikeButQueues ((b.raiseDxs c n j).port sd q) := by
  unfold Block.raiseDxs
  dsimp only
  split
  · rw [Block.port_bump]; exact Port.alike_refl _
  · have h : ∀ (i : Nat) (ps : List Nat) (m : Mark), (b.port sd q).AlikeButQueues
        (((((b.noteRaised .dxs c n).hw .dxs Reg.DXS_FQ_FR_INFO 0 (w32 i)).bump .dxs
          Reg.DXS_FQ_FAULT_TX_CNT).offerAll .dxs ps m).port sd q) := by
      intro i ps m
      refine Port.alike_trans ?_ (Block.offerAll_port _ _ _ _ _ _)
      rw [Block.port_bump, Block.port_hw, Block.port_noteRaised]; exact Port.alike_refl _
    cases j <;> dsimp only <;> split
    all_goals first
      | exact h _ _ _
      | (rw [Block.port_pushMark]; exact h _ _ _)

/-- Originating a FAULT changes nothing of a port but its queues. -/
theorem Block.raise_port (b : Block) (sd sd' : Side) (c n q : Nat) :
    (b.port sd' q).AlikeButQueues ((b.raise sd c n).port sd' q) := by
  cases sd
  · exact b.raiseDxt_port c _ sd' q
  · exact b.raiseDxs_port c n none sd' q

end Sys2Proof.Machine
end

