-- ==== Sys2Proof/WellFormed.lean ====
section
/-! DEFINITION. Well-formed commands: operands within the ranges that the manual gives the parts. The meanings do not ask for it:
exec takes every command, and one that names a part which is not there finds nothing at it. -/

namespace Sys2Proof

/-- A part's spine ports: 2 on a DX-T, 48 on a DX-S48 (R42). -/
def Side.ports : Side → Nat
  | .dxt => 2
  | .dxs => 48

/-- A part's DMA channels: 8 on a DX-T, 16 on a DX-S48 (R359). -/
def Side.channels : Side → Nat
  | .dxt => 8
  | .dxs => 16

/-- A part's converters: 3 on a DX-T, 54 on a DX-S48 (R136). -/
def Side.convs : Side → Nat
  | .dxt => 3
  | .dxs => 54

/-- A part's time outputs: 4 on a DX-T, 9 on a DX-S48 (R123, R125). -/
def Side.outs : Side → Nat
  | .dxt => 4
  | .dxs => 9

/-- The bytes of a part's register window (R334). -/
def Side.window : Side → Nat
  | .dxt => 0x40000
  | .dxs => 0x200000

/-- An address of one of the guarded pairs whose value registers are listed (R345, R346). -/
def isPair (off : Nat) (vs : List Nat) : Bool := vs.any fun v => off == v || off == v + 4

/-- Operands in range: ports, channels, converters and outputs that the part has (R42, R125, R136, R359), 16 mailboxes (R309), 256
job indices (R3), 64 regions (R142), 32 fold engines (R209), 16,384 sync objects (R173), 64 fold bindings (R207), the lengths of a sheet
(R63), a colophon (R145) and a launch-tree calibration (R146), and the addresses of guarded pairs (R346). -/
def Instr.wellFormed : Instr → Bool
  | .decisionHoldExpire _ job => decide (job < 256)
  | .markPairSend _ sd p => decide (p < sd.ports)
  | .markEnqueue _ sd p => decide (p < sd.ports)
  | .markPairReceive _ sd p _ code => decide (p < sd.ports) && decide (code < 640)
  | .resyncRepeat _ sd p => decide (p < sd.ports)
  | .markUncorrWindow _ sd p => decide (p < sd.ports)
  | .sheetSlotSend _ sd p => decide (p < sd.ports)
  | .sheetReceive _ sd p bytes _ => decide (p < sd.ports) && bytes.length == 256
  | .retryRepeat _ sd p => decide (p < sd.ports)
  | .linkTrained _ sd p => decide (p < sd.ports)
  | .linkUp _ sd p idx _ lock _ => decide (p < sd.ports) && decide (idx < 680) && decide (lock < 5)
  | .columnMissed _ sd p _ => decide (p < sd.ports)
  | .dwellExpire _ sd p => decide (p < sd.ports)
  | .lockRegained _ sd p => decide (p < sd.ports)
  | .echoReqSend _ sd p => decide (p < sd.ports)
  | .echoLost _ sd p => decide (p < sd.ports)
  | .intervalClose _ sd p => decide (p < sd.ports)
  | .htLoad _ off _ => isPair off [0x3060, 0x3068, 0x3070]
  | .latencyMeasure _ sd p _ _ _ _ => decide (p < sd.ports) || (sd == .dxs && decide (p < 50))
  | .qlStale _ sd p => decide (p < sd.ports)
  | .ppsEdge _ n code => decide (n < 4) && decide (code < 640)
  | .refinEdgeMissing _ n _ => decide (n < 4)
  | .ptpMessageReceive _ slot _ code _ => decide (slot < 4) && decide (code < 640)
  | .ptpTimeout _ slot _ => decide (slot < 2)
  | .ptpSend _ slot out => decide (slot < 4) && decide (out.code < 640)
  | .esmcReceive _ eth ssm _ => decide (eth < 2) && decide (ssm < 16)
  | .esmcTimeout _ eth => decide (eth < 2)
  | .htSet _ off _ => isPair off [0x4054, 0x405C, 0x4064]
  | .htStep _ off _ => isPair off [0x406C]
  | .forceSet _ off _ => isPair off [0x404C]
  | .outputEdge _ sd out => decide (out < sd.outs)
  | .tdcCalibrate _ sd cv _ _ => decide (cv < sd.convs)
  | .tdcEdge _ sd cv code src => decide (cv < sd.convs) && decide (code < 640) && decide (src < 4)
  | .tdcWindowExpire _ sd cv => decide (cv < sd.convs)
  | .linearityBurst _ sd cv _ taps _ => decide (cv < sd.convs) && taps.all fun t => decide (t < 640)
  | .freqGateEnd _ cv => decide (cv < 4)
  | .launchTreeCal _ _ tries => tries.length == 64
  | .regionCycle _ r _ _ _ => decide (r < 64)
  | .regionEnd _ r => decide (r < 64)
  | .colophonSample _ bytes => bytes.length == 32
  | .crossingCal _ lams => lams.all fun x => decide (x.1 < 1024)
  | .lOverride _ off _ => isPair off [0x6024]
  | .seamOverride _ off _ => isPair off [0x601C]
  | .marginMeasure _ r _ _ _ _ => decide (r < 64)
  | .syncArrive _ obj _ => decide (obj < 16384)
  | .waitRelease _ lr => decide (lr < 64)
  | .gatherDecide _ gid _ => decide (gid < 65535)
  | .settleExpire _ gid _ => decide (gid < 65535)
  | .foldLeafReadDone _ b => decide (b < 64)
  | .foldWaitExpire _ gid _ p => decide (p < Side.dxs.ports) && decide (gid < 65535)
  | .foldTaskComplete _ e => decide (e < 32)
  | .foldTaskSteal _ e => decide (e < 32)
  | .foldKat _ e _ => decide (e < 32)
  | .foldResultReady _ gid _ => decide (gid < 65535)
  | .foldResultAck _ b _ => decide (b < 64)
  | .nop _ job => decide (job < 256)
  | .halt _ job => decide (job < 256)
  | .branch _ job => decide (job < 256)
  | .movi _ job => decide (job < 256)
  | .calc _ job => decide (job < 256)
  | .get _ job => decide (job < 256)
  | .stamp _ job => decide (job < 256)
  | .live _ job => decide (job < 256)
  | .note _ job => decide (job < 256)
  | .assert _ job => decide (job < 256)
  | .waitt _ job => decide (job < 256)
  | .waittRelease _ job => decide (job < 256)
  | .waitg _ job => decide (job < 256)
  | .waitgRelease _ job => decide (job < 256)
  | .testg _ job => decide (job < 256)
  | .cutoff _ job => decide (job < 256)
  | .cutoffComplete _ job => decide (job < 256)
  | .retire _ job => decide (job < 256)
  | .charge _ job => decide (job < 256)
  | .admitSeq _ job => decide (job < 256)
  | .form _ job => decide (job < 256)
  | .commit _ job => decide (job < 256)
  | .pause _ job => decide (job < 256)
  | .oppoint _ job => decide (job < 256)
  | .applyat _ job => decide (job < 256)
  | .seed _ job => decide (job < 256)
  | .ckpt _ job => decide (job < 256)
  | .logSpaceAvailable _ job => decide (job < 256)
  | .eventSpaceAvailable _ job => decide (job < 256)
  | .rootApplyatCommit _ job => decide (job < 256)
  | .openSess _ mb => decide (mb < 16)
  | .admitCmd _ mb => decide (mb < 16)
  | .cancel _ mb => decide (mb < 16)
  | .park _ mb => decide (mb < 16)
  | .resume _ mb => decide (mb < 16)
  | .close _ mb => decide (mb < 16)
  | .closeTicket _ mb => decide (mb < 16)
  | .query _ mb => decide (mb < 16)
  | .queryTenant _ mb => decide (mb < 16)
  | .tenantSet _ mb => decide (mb < 16)
  | .tenantRemove _ mb => decide (mb < 16)
  | .reportMerge _ job tag => decide (job < 256) && decide (tag < 65536)
  | .hbMiss _ sd p => decide (p < sd.ports)
  | .loneVoteExpire _ _ subj => decide (subj < 65536)
  | .verdictRecord _ _ subj => decide (subj < 65536)
  | .topoLoad _ mb => decide (mb < 16)
  | .jobLoad _ pg => decide (pg.mb < 16)
  | .jobStart _ mb => decide (mb < 16)
  | .jobPause _ mb => decide (mb < 16)
  | .jobResume _ mb => decide (mb < 16)
  | .jobUnload _ mb => decide (mb < 16)
  | .jobSave _ pg => decide (pg.mb < 16)
  | .jobRestore _ pg => decide (pg.mb < 16)
  | .jobRestart _ pg => decide (pg.mb < 16)
  | .restoreDone _ mb => decide (mb < 16)
  | .gatherDefine _ mb => decide (mb < 16)
  | .foldDefine _ mb => decide (mb < 16)
  | .reinstate _ mb => decide (mb < 16)
  | .handback _ pg => decide (pg.mb < 16)
  | .funcReinitPort _ mb => decide (mb < 16)
  | .funcReinitSession _ mb => decide (mb < 16)
  | .funcReinitFold _ mb => decide (mb < 16)
  | .funcReinitDma _ mb => decide (mb < 16)
  | .remote _ mb => decide (mb < 16)
  | .ptpConfig _ mb => decide (mb < 16)
  | .status _ mb => decide (mb < 16)
  | .remoteTimeout _ tag => decide (tag < 65536)
  | .bringTimeout _ p => decide (p < Side.dxs.ports)
  | .eyeSweep _ sd lane _ _ _ _ => decide (lane < 2 * sd.ports)
  | .replicaCheck _ r m _ _ => decide (r < 64) && decide (m < 4)
  | .replanEvaluate _ job _ _ => decide (job < 256)
  | .proposalCommit _ off _ => isPair off [0xC044]
  | .guardTimeout _ _ page => decide (page < 32)
  | .fenceEpochSet _ off _ => isPair off [0x2018]
  | .quorumSet _ off _ => isPair off [0xB004]
  | .crcPass _ _ page => decide (page < 32)
  | .registerWrite _ sd off _ _ => decide (off < sd.window)
  | .dmaRingHeadWrite _ sd ch _ => decide (ch < sd.channels)
  | .dmaBurstIssue _ sd ch _ => decide (ch < sd.channels)
  | .dmaTransferComplete _ sd ch => decide (ch < sd.channels)
  | .dmaBusError _ sd ch cause _ => decide (ch < sd.channels) && (cause == 1 || cause == 2 || cause == 4)
  | .dmaCompletionTimeout _ ch => decide (ch < Side.dxs.channels)
  | .nodeResetRelease _ cals => cals.length == 9
  | .mfrDxFlashWr _ addr bytes => decide (addr + bytes.length ≤ 16777216)
  | .mfrDxFlashRd _ addr len => decide (addr + len ≤ 16777216)
  | .ethLinkChange _ eth _ => decide (eth < 2)
  | .mailboxHostWrite _ mb off _ => decide (mb < 16) && decide (off < 4096)
  | .dmaBurstComplete _ sd ch _ => decide (ch < sd.channels)
  | .rootLaunchTime _ job => decide (job < 256)
  | .goReceive _ | .launch _ | .doneSend _ | .doneAggregate _ | .commitListReceive _ | .oppointReceive _ | .voltageAck _
  | .relockComplete _ | .vreqTimeout _ | .resyncReceive _ _ | .resyncAckReceive _ _ | .retryReceive _ _ | .goPass _
  | .echoReqReceive _ _ | .echoRspReceive _ _ | .domainSelect _ _ _ | .seedWrite _ _ _ | .seedRepeat _ | .seedExpire _ _
  | .htSnapshot _ _ _ | .qlSend _ | .qlReceive _ _ | .qlHoldoverSend _ | .refSelect _ | .esmcSend _ | .rootSecondClose _
  | .rootServoUpdate _ | .rootAcquireEnd _ | .fwSwWrite _ _ | .swWatchdogExpire _ | .ocxoOfsGate _ _ _
  | .ageFit _ _ _ _ _ _ | .ageExpire _ | .swGo _ _ | .fqGo _ _ | .syncWait _ _ | .completeReceive _ | .arriveReceive _
  | .countReceive _ | .completeForward _ | .foldMessageReceive _ | .foldOutReceive _ | .blockRecallDone _ _
  | .decisionReceive _ | .decisionAckReceive _ | .applyRecordStep _ | .killSend _ | .killRelay _ | .killReceive _
  | .reportSend _ | .evictTick _ | .faultReceive _ _ | .selfReport _ _ _ | .voteReceive _ | .nvoteWrite _ _
  | .fenceReceive _ | .jStoredWrite _ _ | .mailboxPoll _ | .remoteRead _ _ | .remoteWrite _ _ | .remoteGuarded _ _
  | .remoteResponse _ | .logReceive _ | .binderBoot _ | .nodeSliceReceive _ _ | .trendSample _ _ | .apply _ _ _
  | .applyStepEnd _ _ | .lockSet _ _ | .crcRefWrite _ _ _ | .nodeReset _ | .dxtReset _ | .dxtResetRelease _
  | .thermAssert _ _ | .thermalPowerDown _ | .ocxoRdyChange _ _ | .modulePowerUp _ _ | .inputShutdown _ _
  | .operationOn _ | .operationOff _ | .clearFaults _ | .statusWord _ | .readVin _ | .readIin _ | .readTemperature1 _
  | .readPin _ | .pmbusRevision _ | .mfrId _ | .mfrDxReset _ _ | .mfrDxHold _ | .mfrDxRelease _ | .mfrDxOcxo _
  | .mfrDxModrec _ | .fwSwPairDue _ | .logRecordTimeout _ | .ageSample _ | .perstNChange _ _ => true

end Sys2Proof
end

