-- ==== Sys2Proof/Tests/Slice0.lean ====
section
/-! SUPPORT. Tests: commands that are not well formed are refused as such; worked examples of the manual; and for every statement
with hypotheses a theorem that shows states and operands that meet them, clause by clause. -/

namespace Sys2Proof.Tests
open Machine
set_option Elab.async false

/-! ### Well-formed commands -/

/-- The table gives no command bits, so no word spells one. -/
theorem test_no_word_spells_a_command : decodeTableWord 16 0x1234 = none := by decide

theorem test_ill_formed_1 : ([
    .decisionHoldExpire 0 99999999, .markPairSend 0 .dxs 99999999, .markEnqueue 0 .dxs 99999999,
    .markPairReceive 0 .dxs 99999999 0 99999999, .resyncRepeat 0 .dxs 99999999, .markUncorrWindow 0 .dxs 99999999,
    .sheetSlotSend 0 .dxs 99999999, .sheetReceive 0 .dxs 99999999 [] false, .retryRepeat 0 .dxs 99999999, .linkTrained 0 .dxs 99999999,
    .linkUp 0 .dxs 99999999 99999999 0 99999999 false, .columnMissed 0 .dxs 99999999 ⟨false, false⟩, .dwellExpire 0 .dxs 99999999,
    .lockRegained 0 .dxs 99999999, .echoReqSend 0 .dxs 99999999, .echoLost 0 .dxs 99999999, .intervalClose 0 .dxs 99999999,
    .htLoad 0 99999999 0, .latencyMeasure 0 .dxs 99999999 none 99999999 [] 99999999, .qlStale 0 .dxs 99999999,
    .ppsEdge 0 99999999 99999999, .refinEdgeMissing 0 99999999 false, .ptpMessageReceive 0 99999999 [] 99999999 0,
    .ptpTimeout 0 99999999 false, .ptpSend 0 99999999 ⟨0, 99999999, 0⟩, .esmcReceive 0 99999999 99999999 false,
    .esmcTimeout 0 99999999, .htSet 0 99999999 0, .htStep 0 99999999 0] : List Instr).all
    (fun c => !c.wellFormed) = true := by decide

theorem test_ill_formed_2 : ([
    .forceSet 0 99999999 0, .outputEdge 0 .dxs 99999999, .tdcCalibrate 0 .dxs 99999999 99999999 99999999,
    .tdcEdge 0 .dxs 99999999 99999999 99999999, .tdcWindowExpire 0 .dxs 99999999, .linearityBurst 0 .dxs 99999999 false [] 99999999,
    .freqGateEnd 0 99999999, .launchTreeCal 0 [] [], .regionCycle 0 99999999 99999999 99999999 [], .regionEnd 0 99999999,
    .colophonSample 0 [], .crossingCal 0 [(1024, 0)], .lOverride 0 99999999 0, .seamOverride 0 99999999 0,
    .marginMeasure 0 99999999 99999999 99999999 99999999 99999999, .syncArrive 0 99999999 99999999, .waitRelease 0 99999999,
    .gatherDecide 0 99999999 99999999, .settleExpire 0 99999999 99999999, .foldLeafReadDone 0 99999999,
    .foldWaitExpire 0 99999999 99999999 99999999, .foldTaskComplete 0 99999999, .foldTaskSteal 0 99999999, .foldKat 0 99999999 false,
    .foldResultReady 0 99999999 99999999, .foldResultAck 0 99999999 99999999, .nop 0 99999999, .halt 0 99999999, .branch 0 99999999] : List Instr).all
    (fun c => !c.wellFormed) = true := by decide

theorem test_ill_formed_3 : ([
    .movi 0 99999999, .calc 0 99999999, .get 0 99999999, .stamp 0 99999999, .live 0 99999999, .note 0 99999999, .assert 0 99999999,
    .waitt 0 99999999, .waittRelease 0 99999999, .waitg 0 99999999, .waitgRelease 0 99999999, .testg 0 99999999, .cutoff 0 99999999,
    .cutoffComplete 0 99999999, .retire 0 99999999, .charge 0 99999999, .admitSeq 0 99999999, .form 0 99999999, .commit 0 99999999,
    .pause 0 99999999, .oppoint 0 99999999, .applyat 0 99999999, .seed 0 99999999, .ckpt 0 99999999, .logSpaceAvailable 0 99999999,
    .eventSpaceAvailable 0 99999999, .rootApplyatCommit 0 99999999, .openSess 0 99999999, .admitCmd 0 99999999] : List Instr).all
    (fun c => !c.wellFormed) = true := by decide

theorem test_ill_formed_4 : ([
    .cancel 0 99999999, .park 0 99999999, .resume 0 99999999, .close 0 99999999, .closeTicket 0 99999999, .query 0 99999999,
    .queryTenant 0 99999999, .tenantSet 0 99999999, .tenantRemove 0 99999999, .reportMerge 0 99999999 99999999,
    .hbMiss 0 .dxs 99999999, .loneVoteExpire 0 false 99999999, .verdictRecord 0 false 99999999, .topoLoad 0 99999999,
    .jobLoad 0 ⟨99999999, []⟩, .jobStart 0 99999999, .jobPause 0 99999999, .jobResume 0 99999999, .jobUnload 0 99999999,
    .jobSave 0 ⟨99999999, [], []⟩, .jobRestore 0 ⟨99999999, []⟩, .jobRestart 0 ⟨99999999, [], []⟩, .restoreDone 0 99999999,
    .gatherDefine 0 99999999, .foldDefine 0 99999999, .reinstate 0 99999999, .handback 0 ⟨99999999, none⟩, .funcReinitPort 0 99999999,
    .funcReinitSession 0 99999999] : List Instr).all
    (fun c => !c.wellFormed) = true := by decide

theorem test_ill_formed_5 : ([
    .funcReinitFold 0 99999999, .funcReinitDma 0 99999999, .remote 0 99999999, .ptpConfig 0 99999999, .status 0 99999999,
    .remoteTimeout 0 99999999, .bringTimeout 0 99999999, .eyeSweep 0 .dxs 99999999 99999999 99999999 false false,
    .replicaCheck 0 99999999 99999999 99999999 false, .replanEvaluate 0 99999999 [] (), .proposalCommit 0 99999999 0,
    .guardTimeout 0 .dxs 99999999, .fenceEpochSet 0 99999999 0, .quorumSet 0 99999999 0, .crcPass 0 .dxs 99999999,
    .registerWrite 0 .dxs 99999999 0 0, .dmaRingHeadWrite 0 .dxs 99999999 0, .dmaBurstIssue 0 .dxs 99999999 false,
    .dmaTransferComplete 0 .dxs 99999999, .dmaBusError 0 .dxs 99999999 99999999 99999999, .dmaCompletionTimeout 0 99999999,
    .nodeResetRelease 0 [], .mfrDxFlashWr 0 99999999 [], .mfrDxFlashRd 0 99999999 99999999, .ethLinkChange 0 99999999 false,
    .mailboxHostWrite 0 99999999 99999999 0, .dmaBurstComplete 0 .dxs 99999999 false, .rootLaunchTime 0 99999999] : List Instr).all
    (fun c => !c.wellFormed) = true := by decide

/-- One operand out of range beside others that are in range, and the bounds of the DX-T. -/
theorem test_ill_formed_operands : ([
    .sheetReceive 0 .dxt 1 [1] false, .linkUp 0 .dxt 0 680 0 0 false, .linkUp 0 .dxt 0 0 0 5 false, .linkUp 0 .dxt 2 0 0 0 false,
    .esmcReceive 0 0 16 false, .tdcEdge 0 .dxs 0 0 4, .foldWaitExpire 0 65535 0 0, .reportMerge 0 0 65536, .replicaCheck 0 0 4 0 false,
    .dmaBusError 0 .dxs 0 3 0, .mailboxHostWrite 0 0 4096 0, .echoReqSend 0 .dxt 2, .dmaBurstIssue 0 .dxt 8 false,
    .tdcCalibrate 0 .dxt 3 0 0, .outputEdge 0 .dxt 4, .registerWrite 0 .dxt 0x40000 15 0] : List Instr).all
    (fun c => !c.wellFormed) = true := by decide

theorem test_well_formed_bounds : ([
    .goReceive 5, .echoReqSend 0 .dxs 47, .linkUp 0 .dxt 1 679 0 4 true, .openSess 0 15, .regionEnd 0 63, .gatherDecide 0 65534 0,
    .registerWrite 0 .dxs 0x1FFFFC 15 0, .lOverride 0 0x6028 0, .dmaBusError 0 .dxt 7 4 0, .tdcEdge 0 .dxs 53 0 3] : List Instr).all
    Instr.wellFormed = true := by decide

/-! ### Worked examples of the manual -/

/-- A hall time of the manual's notation, in 2^-16 ns. -/
def ht (sec ns frac : Nat) : Nat := (sec * 1000000000 + ns) * 65536 + frac

/-- 00_scope.md, R5: the nanoseconds carry into the seconds. -/
theorem test_ht_carries : ht 7200 1250 0x8000 + 999998750 * 65536 = ht 7201 0 0x8000 ∧ htSec (ht 7201 0 0x8000) = 7201 ∧
    htFrac (ht 7201 0 0x8000) = 0x8000 := by decide

/-- 00_scope.md, R5: the words of an HT group give the hall time back. -/
theorem test_ht_bytes : htOfBytes (htBytes (ht 7200 1250 0x8000)) 0 = ht 7200 1250 0x8000 := by decide +kernel

/-- 01_hall_time_and_folios.md, a late folio: ceil_grid(456,655) is 456,656. -/
theorem test_ceil_grid : ceilGrid (ht 7200 456655 0) = ht 7200 456656 0 := by decide +kernel

/-- 03_time_transfer.md, one exchange: θ is 0x0000_2000 and mpd 0x0014_0800. -/
theorem test_exchange : exchange (ht 7200 800084 0x3000) (ht 7200 800000 0) (ht 7200 800084 0x3000)
    ⟨.echoRsp, 0, 0x0002, stampOf (ht 7200 800064 0), 0xC200⟩ 4096 = (0x2000, 0x140800) := by decide +kernel

/-- 03_time_transfer.md: 8,192 units give a proportional term of -512 at the default gain. -/
theorem test_servo_proportional : (servoStep 0 8192 4 14 (2 ^ 20)).1 = -512 := by decide +kernel

/-- 03_time_transfer.md, R86: no integration while the word is clamped. -/
theorem test_servo_clamps : servoStep 7 (-81920) 4 10 1000 = (1000, 7) := by decide +kernel

/-- 05_interval_measurement.md: a 1 s gate stamps every 153rd edge. -/
theorem test_gate_step : gateStep 1000 = 153 := by decide

/-- 05_interval_measurement.md, stops 1 and 2 of the 10 MHz input: the codes 287 and 286 of a calibration of 190 and 390. -/
theorem test_stop_stamps :
    Conv.stamp { Conv.reset with d1 := 190, d2 := 390 } (ht 7200 900023 0) 287 0 0 = ht 7200 900022 0x41EC ∧
      Conv.stamp { Conv.reset with d1 := 190, d2 := 390 } (ht 7200 900123 0) 286 0 0 = ht 7200 900122 0x428F := by decide +kernel

/-- 06_die_clocking.md, the seam at 2:1 with L = 10: from half 0 at cycle 100 into half 1 at 60, from half 1 at 40 into half 0 at
90. The crossings lead south from region 31 and north from region 39. -/
theorem test_seam_release :
    let b := State.reset.hall.updDie fun d => { d with seam := 1 }
    (xClass (xingNo 31 3), halfOf (xingNo 31 3 / 16), b.releaseCycle (xingNo 31 3) (100 / 2)) = (1, 0, 60) ∧
      (xClass (xingNo 39 2), halfOf (xingNo 39 2 / 16), b.releaseCycle (xingNo 39 2) 40) = (1, 1, 90) := by decide +kernel

/-- 08_folds.md, the reservation for LSE_MERGE with BF16 values, D = 128 and ROWS = 256. -/
theorem test_lse_sizes : leafSize ⟨9, 1, 1, false, false, 0, 128, 256, 0⟩ = 67584 ∧
    partSize ⟨9, 1, 1, false, false, 0, 128, 256, 0⟩ = 133120 := by decide +kernel

/-- 09_folio_programs.md: at 17 instructions per folio of 2,000 ns, 94 jobs fit and the 95th does not. -/
theorem test_sequencer_budget : budgetFits (List.replicate 94 (17, 2000)) = true ∧
    budgetFits (List.replicate 95 (17, 2000)) = false := by decide +kernel

/-- 09_folio_programs.md, the words of the decode job at 0x00A and 0x010. -/
theorem test_program_words :
    (opOf 0x3200000000000522, wdOf 0x3200000000000522, immOf 0x3200000000000522) = (Op.testg, 8, 0x522) ∧
      (opOf 0x6000000200000003, aheadOf 0x6000000200000003, immOf 0x6000000200000003) = (Op.oppoint, 2, 3) := by decide

/-- 09_folio_programs.md, the words of the decode job at 0x00B and 0x00C. -/
theorem test_program_words_2 :
    (opOf 0x080002000000000D, subOf 0x080002000000000D, immOf 0x080002000000000D) = (Op.branch, 2, 0xD) ∧
      (opOf 0x4D00000000000040, wdOf 0x4D00000000000040, immOf 0x4D00000000000040) = (Op.admitOp, 4, 64) := by decide

/-- 10_sessions.md, CHARGE of folio 2000 for tenant 0x01F3: 7 charged, BAL 7 and RSV 4 after it, and session 0x0004_0511 throttled. -/
theorem test_charge :
    let s (gen st turn : Nat) : Session := { sessReset 0 with
      gen := gen, st := st, tenant := 0x1F3, job := 18, maxtok := 4, rsv := 4, turnOut := turn }
    let b := (State.reset.hall.updSs fun u => { u with
      tenants := [(0x1F3, { tenReset 0 with valid := true, bal := 12, refill := 2, cap := 64, rsv := 12, job := 18 })]
      slots := [(0x102, s 4 Sess.running 3), (0x511, s 4 Sess.running 4), (0x2A31, s 0x14 Sess.open_ 0)] }).updJob 18 fun x =>
        { x with kept := [(0x102, 3), (0x511, 4)] }
    let r := b.charge 18
    (r.1, (r.2.tenant 0x1F3).bal, (r.2.tenant 0x1F3).rsv, (r.2.sess 0x511).st) = (7, 7, 4, Sess.throttled) := by decide +kernel

/-- 13_control_boot_and_upkeep.md, job 18 at 1,500 MHz: 1,441 MHz, and a period of 28,776 ns. -/
theorem test_replan : planMhz 1500 ⟨0, 5, 1, 8, 0, 0⟩ = 1441 ∧ planPeriod (27100 * 65536) 1500 1441 = 28776 := by decide +kernel

/-- 14_registers.md, aliasing in the DX-T step block and in the spine port block. -/
theorem test_aliasing : canonical .dxt 0x1048 = 0x1008 ∧ canonical .dxt 0x1F08 = 0x1008 ∧
    decodeReg State.reset.hall .dxt 0x20E0 = none := by decide +kernel

/-- 14_registers.md, two functions on one ball: APPLY_ST of the refused and of the accepted step. -/
theorem test_apply_status : applySt (some ⟨2, 4, 7, 0xFFFFFFFF⟩) false 0x2A = 0x0402002A ∧ applySt none false 0x2B = 0x0F00002B := by
  decide +kernel

/-- 15_dma.md, R362: SWAP 2 turns each group of four bytes about. -/
theorem test_swap : swapBytes 2 [1, 2, 3, 4, 5] = ([4, 3, 2, 1], [5]) := by decide +kernel

/-- 16_physical.md, R382: the chip's power comes on with the input above 38.5 V, and the crystal oven is not ready. -/
theorem test_power_up : ∃ t, exec (.modulePowerUp 0 54000) { State.reset with hall := { State.reset.hall with
      sm := { State.reset.hall.sm with mgmt := false, powered := false } } } = .next t ∧ t.hall.sm.powered = true ∧
      t.hall.sm.rdy = false :=
  ⟨_, rfl, by decide +kernel⟩

/-- 02_spine_link.md, R69 and R82: a port that is measured and trained hunts for the column. -/
theorem test_link_trains : ∃ t, exec (.linkTrained 0 .dxt 1) { State.reset with hall := State.reset.hall.updPort .dxt 1 fun q =>
      { q with latDone := true } } = .next t ∧ (t.hall.port .dxt 1).st = .hunt :=
  ⟨_, rfl, by decide +kernel⟩
/-! ### States for the witnesses -/

def W (f : Block → Block) : State := { State.reset with hall := f State.reset.hall }
def wNow (n : Nat) (b : Block) : Block := { b with now := n }
def wPort (sd : Side) (p : Nat) (f : Port → Port) (b : Block) : Block := b.updPort sd p f
def wSt (sd : Side) (p : Nat) (st : LinkState) (b : Block) : Block := b.updPort sd p fun q => { q with st := st }
def wUp (sd : Side) (p : Nat) (b : Block) : Block := wSt sd p .up b
def wIn (sd : Side) (p t : Nat) (m : Mark) (b : Block) : Block := b.updNode sd fun n => { n with inbox := [⟨p, t, m, false⟩] }
def wReg (sd : Side) (off idx w : Nat) (b : Block) : Block := b.hwBoth sd off idx (w32 w)
def wRole (r : Role) (b : Block) : Block := { b with dxs := { b.dxs with role := r } }
def wRoot (f : Root → Root) (b : Block) : Block := { b with dxs := { b.dxs with root := f b.dxs.root } }
def wActing (b : Block) : Block := wRoot (fun r => { r with acting := true }) (wRole .rootA b)
def wClk (sd : Side) (f : Clock → Clock) (b : Block) : Block := b.updClk sd f
def wLock (sd : Side) (l : LockState) (b : Block) : Block := b.updClk sd fun c => { c with lock := l }
def wHub (f : Hub → Hub) (b : Block) : Block := b.updHub f
def wGuard (sd : Side) (off w : Nat) (b : Block) : Block :=
  b.updRegs sd fun r => { r with guards := nset guardNone r.guards (off / 4096) (some ⟨off, 0, w32 w, b.now⟩) }
def wPairs (sd : Side) (l : List Nat) (b : Block) : Block := b.updRegs sd fun r => { r with guardDone := l }
def wDie (f : DieClk → DieClk) (b : Block) : Block := b.updDie f
def wStep (f : StepCtx → StepCtx) (b : Block) : Block := b.updStep f
def cm (w : Nat) : Word := w32 (w ^^^ 0xFFFFFFFF)
def wCand (i : Nat) (f : Candidate → Candidate) (b : Block) : Block :=
  wRoot (fun r => { r with cands := r.cands.modify i f, ethUp := [true, true] }) b
def wSw (f : SwMeas → SwMeas) (b : Block) : Block := { b with dxs := { b.dxs with sw := f b.dxs.sw } }
def withCrc (bs : List Byte) : List Byte := bs ++ leBytes 4 (crc32c bs)
def wSlot (obj sl : Nat) (f : SyncSlot → SyncSlot) (b : Block) : Block := b.updSlot obj sl f
def wSheet (sd : Side) (p : Nat) (x : Sheet) (b : Block) : Block :=
  b.updNode sd fun n => { n with rxSheets := n.rxSheets ++ [⟨p, x, false⟩] }
def wTopo : Topo :=
  ⟨0x1234, 0, [⟨0, 1, 0, 0, [0, 0, 2, 1], 0, [⟨0, false, 0, 2, 0, 0⟩, ⟨0, false, 1, 2, 0, 0⟩, ⟨2, true, 1, 1, 2, 0⟩, ⟨1, false, 9, 1, 0, 0⟩]⟩],
    [⟨0x030B1B05, 4101, 18, true, 0xFFFF⟩, ⟨0x030B1B06, 4102, 18, true, 0xFFFF⟩]⟩
def wHall (r : Role) (b : Block) : Block :=
  wReg .dxs Reg.SP_CTRL 3 0x53 (wReg .dxs Reg.SP_CTRL 2 0x63
    (wHub (fun h => { h with bn := { h.bn with boot := 1, topo := some wTopo, slice := true } }) (wRole r b)))
def wAct (b : Block) : Block := wRoot (fun r => { r with acting := true }) (wHall .rootA b)
def wJob (j : Nat) (f : Job → Job) (b : Block) : Block := b.updJob j f
def wGa (g cfg n expect : Nat) (b : Block) : Block :=
  wReg .dxs Reg.GA_EXPECT g expect (wReg .dxs Reg.GA_N g n (wReg .dxs Reg.GA_CFG g cfg b))
def wInst (g sl : Nat) (f : GInst → GInst) (b : Block) : Block := b.updInst g sl f
def wUps (l : List (Side × Nat)) (b : Block) : Block := b.each l fun b x => wUp x.1 x.2 b
def wFold (b : Block) : Block :=
  wReg .dxs Reg.DXS_FD_D_OP 5 0x80000000 (wReg .dxs Reg.DXS_FD_D_D 5 2
    (wHub (fun h => { h with gdefs := [(7, some ⟨leBytes 2 7 ++ leBytes 1 4 ++ leBytes 1 18 ++ leBytes 4 2 ++ leBytes 16 0 ++ leBytes 4 5 ++ leBytes 4 0, [4101, 4102], [4101], 2, [], []⟩)] })
      (wGa 7 0x80001204 2 2 b)))
def word (op wd wa wb sub ahead imm : Nat) : Nat :=
  op * 2 ^ 58 + wd * 2 ^ 54 + wa * 2 ^ 50 + wb * 2 ^ 46 + sub * 2 ^ 40 + ahead * 2 ^ 32 + imm
def wProg (w : Nat) (f : Job → Job) (b : Block) : Block :=
  wJob 18 (fun x => f { x with
    st := .running, sn := 4, gone := true, prologue := false, ipf := 100, len := 9, tgo := 2 ^ 40, period := 2 ^ 45,
    words := [1, 2, 3, 4, 5, 6, 7, 8, 9, 10, 11, 12, 13, 14, 15, 16] })
    (wHub (fun h => { h with prog := [(0, w)] }) (wClk .dxs (fun c => { c with ht := 2 ^ 73 }) (wAct b)))
def wSess (i : Nat) (f : Session → Session) (b : Block) : Block := b.updSs fun u => { u with slots := nupd sessReset u.slots i f }
def wTen (i : Nat) (f : Tenant → Tenant) (b : Block) : Block := b.updSs fun u => { u with tenants := nupd tenReset u.tenants i f }
def wTick (i : Nat) (f : Ticket → Ticket) (b : Block) : Block := b.updSs fun u => { u with tickets := nupd tickReset u.tickets i f }
def wSheets (sd : Side) (p : Nat) (l : List Sheet) (b : Block) : Block := b.each l fun b x => wSheet sd p x b
def wDec : Decision :=
  ⟨.commit, 4, 2 ^ 41, 2 ^ 40, false, false, [], none, [], [], 0, none, none, none, 0, false, false, 0⟩
def cmdRec (cmd fl h ten job mt pg : Nat) (mid : List Byte) (tm ttl : Nat) : List Byte :=
  leBytes 1 cmd ++ leBytes 1 fl ++ leBytes 2 0 ++ leBytes 4 h ++ leBytes 2 ten ++ leBytes 1 job ++ leBytes 1 mt ++ leBytes 2 pg ++
    leBytes 2 0 ++ mid ++ leBytes 4 tm ++ leBytes 4 ttl ++ leBytes 12 0
def wRec (mb : Nat) (r : List Byte) (b : Block) : Block :=
  wReg .dxs Reg.DXS_SS_CTRL 0 1 ((((b.setPage mb 64 r).setPage mb 8 [1]).setPage mb 9 [1]).setOwn mb Own.taken)
def wSJob (f : Job → Job) (b : Block) : Block := wJob 18 (fun x => f { x with st := .running, sess := true }) b
def wPage (own cls cmd job mb : Nat) (args data buf : List Byte) (b : Block) : Block :=
  let b := b.updHub fun h => { h with host := memWriteN h.host 0x100000 buf }
  b.setPage mb 0 (leBytes 4 own ++ leBytes 4 77 ++ leBytes 1 cls ++ leBytes 3 0 ++ leBytes 4 0 ++ leBytes 2 cmd ++ leBytes 1 job ++
    leBytes 1 0 ++ leBytes 8 0x100000 ++ leBytes 4 buf.length ++ padTo 32 args ++ data)
def wCmd (cmd : Nat) (args data buf : List Byte) : Block → Block := wPage Own.taken 0 cmd 18 3 args data buf
def wChans (b : Block) : Block := b.each (List.range 16) fun b c => wReg .dxs (chanReg .dxs c 0) 0 0x80000000 b
def wReady (b : Block) : Block := wDie (fun d => { d with bring := .ready }) b
def wProgImage : List Byte :=
  [1, 0, 18, 0, 3, 0, 0, 0, 4, 0, 0, 0, 96, 109, 0, 0, 208, 7, 0, 0, 216, 4] ++ List.replicate 38 0 ++ [89, 121, 89, 41] ++
    List.replicate 7 0 ++ [84] ++ List.replicate 7 0 ++ [64, 1] ++ List.replicate 6 0 ++ [8]
def wHall2 (b : Block) : Block := wChans (wReady (wAct b))
def wSaved : List Byte :=
  [1, 0, 18, 0, 2, 0, 0, 0, 4] ++ List.replicate 7 0 ++ [160, 1] ++ List.replicate 6 0 ++ [89, 121, 89, 41, 2] ++ List.replicate 23 0 ++
    [208, 7] ++ List.replicate 6 0 ++ [184, 215, 159, 200, 1, 0, 0, 0, 1, 0, 0, 0, 192] ++ List.replicate 175 0 ++ [166, 9] ++
    List.replicate 22 0 ++ [3, 0, 0, 0, 16, 0, 0, 0, 128] ++ List.replicate 135 0
def wNode (num role tree : Nat) : List Byte :=
  leBytes 2 num ++ leBytes 1 role ++ leBytes 1 tree ++ leBytes 4 0 ++ [0xFF, 0xFF] ++ leBytes 54 0 ++
    ((List.replicate 8 ([3, 0, 0, 0, 0, 0, 0, 0] : List Byte)).flatten ++ leBytes 320 0)
def wTable (nodes : List (List Byte)) : List Byte :=
  let h := leBytes 2 1 ++ leBytes 2 0 ++ leBytes 4 nodes.length ++ leBytes 52 0
  h ++ leBytes 4 (crc32c (h ++ leBytes 4 0 ++ nodes.flatten)) ++ nodes.flatten
def wFlash (a : Nat) (bs : List Byte) (b : Block) : Block := { b with sm := { b.sm with flash := memWriteN b.sm.flash a bs } }
def wOn (b : Block) : Block := { b with sm := { b.sm with perst := true, powered := true, prst := true } }

theorem except_ok {e : Except Nat Nat} {v : Nat} (h : (match e with | .ok x => x == v | .error _ => false) = true) :
    e = .ok v := by
  cases e <;> simp_all

/-- A history of frequency words. -/
def wAge : List (Nat × Int) := [(0, 5), (2 ^ 46, 9), (2 ^ 47, 11), (2 ^ 48, 12)]

theorem age_fold (l : List (Int × Nat × Rat)) : ∀ a : Int × Nat × Rat, (l.foldl (fun best x => match best with
    | none => some x
    | some y => if x.2.2 < y.2.2 then some x else some y) (some a)).isSome = true := by
  induction l with
  | nil => intro a; rfl
  | cons x l ih =>
    intro a
    simp only [List.foldl_cons]
    split <;> exact ih _

/-- The history has a best fit. -/
theorem age_some : (bestAge wAge).isSome = true := by
  have h : ∃ a l, ageTaus.filterMap (ageFitWith wAge (ageOrigin wAge)) = a :: l := by
    have h : ∃ a, ageFitWith wAge (ageOrigin wAge) 21600 = some a := by
      have h : ¬(lineSums (agePoints 21600 (ageOrigin wAge) wAge)).sxx ≤ 0 := by decide +kernel
      simp only [ageFitWith, h, if_false]
      exact ⟨_, rfl⟩
    obtain ⟨a, h⟩ := h
    exact ⟨a, _, List.filterMap_cons_some h⟩
  obtain ⟨a, l, h⟩ := h
  unfold bestAge
  rw [h]
  exact age_fold l a

/-! ### The hypotheses of the statements can be met -/

theorem witness_LinkStates :
    (∃ s : State, ∃ dt : Nat, ∃ sd : Side, ∃ p : Nat, let b := s.hall.elapse dt; let q := b.port sd p; q.st = .train ∧ q.latDone = true ∧
      q.latFail = false) ∧
    (∃ s : State, ∃ dt : Nat, ∃ sd : Side, ∃ p : Nat, let b := s.hall.elapse dt; let q := b.port sd p; q.st = .hunt) ∧
    (∃ s : State, ∃ dt : Nat, ∃ sd : Side, ∃ p : Nat, let b := s.hall.elapse dt; let q := b.port sd p; ∃ second : Bool, ∃ los : Bool,
      q.st = .up ∧ (3 ≤ missedRun q.rx.missed (q.rx.told ||| if second then 2 else 1) ∨ los = true)) ∧
    (∃ s : State, ∃ dt : Nat, ∃ sd : Side, ∃ p : Nat, let b := s.hall.elapse dt; let q := b.port sd p; q.st = .down ∧
      q.downAt + b.dwell sd p ≤ b.now ∧ (sd = .dxt ∨ b.portRole p ≠ roleCross)) ∧
    (∃ s : State, ∃ dt : Nat, ∃ sd : Side, ∃ p : Nat, let b := s.hall.elapse dt; let q := b.port sd p; q.st = .lost ∧
      b.rejoinGen sd p = q.rejoin) :=
  ⟨⟨W (wPort .dxt 1 fun q => { q with latDone := true }), 0, .dxt, 1, by decide +kernel⟩,
    ⟨W (wSt .dxs 3 .hunt), 0, .dxs, 3, by decide +kernel⟩,
    ⟨W (wPort .dxs 3 fun q => { q with st := .up, rx := { q.rx with missed := 2 } }), 0, .dxs, 3, false, false, by decide +kernel⟩,
    ⟨W (wNow 100000 ∘ wSt .dxt 0 .down), 0, .dxt, 0, by decide +kernel⟩,
    ⟨W (wSt .dxs 0 .lost), 0, .dxs, 0, by decide +kernel⟩⟩

theorem witness_MarkSending :
    (∃ s : State, ∃ dt : Nat, ∃ sd : Side, ∃ p : Nat, let b := s.hall.elapse dt; let q := b.port sd p; q.st ≠ .off) ∧
    (∃ s : State, ∃ dt : Nat, ∃ sd : Side, ∃ p : Nat, let b := s.hall.elapse dt; let q := b.port sd p; (q.st = .train ∨ q.st = .hunt ∨
      q.st = .down ∨ q.st = .lost)) ∧
    (∃ s : State, ∃ dt : Nat, ∃ sd : Side, ∃ p : Nat, let b := s.hall.elapse dt; let q := b.port sd p; ∃ g, ∃ rest, q.st = .up ∧
      q.tx.q0 = g :: rest ∧ g.mark.kind = .go ∧ q.tx.lastSent ≠ some g.mark.payload) ∧
    (∃ s : State, ∃ dt : Nat, ∃ sd : Side, ∃ p : Nat, let b := s.hall.elapse dt; let q := b.port sd p; ∃ m, ∃ rest,
      q.tx.waiting = m :: rest ∧ q.tx.hasRoom m = true) :=
  ⟨⟨State.reset, 0, .dxt, 0, by decide +kernel⟩,
    ⟨State.reset, 0, .dxt, 1, by decide +kernel⟩,
    ⟨W (wPort .dxs 3 fun q => { q with st := .up, tx := { q.tx with q0 := [⟨⟨.go, 3, 7, 99, 0⟩, 0⟩] } }), 0, .dxs, 3, ⟨⟨.go, 3, 7, 99, 0⟩,
      0⟩, [], by decide +kernel⟩,
    ⟨W (wPort .dxs 47 fun q => { q with tx := { q.tx with waiting := [⟨⟨.count, 3, 7, 99, 0⟩, 0⟩] } }), 0, .dxs, 47, ⟨⟨.count, 3, 7, 99,
      0⟩, 0⟩, [], by decide +kernel⟩⟩

theorem witness_MarkReceiving :
    (∃ s : State, ∃ dt : Nat, ∃ sd : Side, ∃ p : Nat, let b := s.hall.elapse dt; let q := b.port sd p; ∃ w : BitVec 112, ∃ v, ∃ m,
      q.st = .up ∧ decodePair w = some (v, false) ∧ markOf v = some m ∧ (m.kind = .go ∨ m.kind = .fault) ∧ q.rx.prev ≠ some v ∧
      q.rx.badRange = none ∧ b.epochMismatch sd p = false) ∧
    (∃ s : State, ∃ dt : Nat, ∃ sd : Side, ∃ p : Nat, let b := s.hall.elapse dt; let q := b.port sd p; ∃ w : BitVec 112, (q.st = .up ∨
      q.st = .timeOnly) ∧ decodePair w = none) ∧
    (∃ s : State, ∃ dt : Nat, ∃ sd : Side, ∃ p : Nat, let b := s.hall.elapse dt; let q := b.port sd p; ∃ r, q.st = .up ∧
      (q.rx.resync.find? fun r => q.tx.pair ≥ r.sentAt + 32) = some r) ∧
    (∃ s : State, ∃ dt : Nat, ∃ sd : Side, ∃ p : Nat, let b := s.hall.elapse dt; let q := b.port sd p; ∃ tm, ∃ m, ∃ bad, ∃ rest,
      (b.node sd).inbox = ⟨p, tm, m, bad⟩ :: rest ∧ m.kind = .resync ∧ q.tx.handled.contains (pairIdx m.obj, pairIdx m.tag) = true ∧
      q.tx.q1.length < queueDepth ∧ q.tx.waiting = []) ∧
    (∃ s : State, ∃ dt : Nat, ∃ sd : Side, ∃ p : Nat, let b := s.hall.elapse dt; ∃ tm, ∃ m, ∃ bad, ∃ rest, (b.node sd).inbox = ⟨p, tm, m,
      bad⟩ :: rest ∧ m.kind = .resyncAck) :=
  ⟨⟨W (wUp .dxt 1), 0, .dxt, 1, markBits (Mark.payload ⟨.go, 3, 7, 99, 0⟩), Mark.payload ⟨.go, 3, 7, 99, 0⟩, ⟨.go, 3, 7, 99, 0⟩,
    by decide +kernel⟩,
    ⟨W (wUp .dxs 0), 0, .dxs, 0, markBits 0 ^^^ 0x3F, by decide +kernel⟩,
    ⟨W (wPort .dxt 0 fun q => { q with st := .up, tx := { q.tx with pair := 40 }, rx := { q.rx with resync := [⟨5, 9, 8, 8⟩] } }), 0, .dxt,
      0, ⟨5, 9, 8, 8⟩, by decide +kernel⟩,
    ⟨W (wPort .dxs 2 (fun q => { q with st := .up, tx := { q.tx with handled := [(5, 9)] } }) ∘ wIn .dxs 2 0 (mkMark .resync 5 9 0 0)), 0,
      .dxs, 2, 0, mkMark .resync 5 9 0 0, false, [], by decide +kernel⟩,
    ⟨W (wIn .dxt 0 0 (mkMark .resyncAck 5 9 0 0) ∘ wPort .dxt 0 fun q => { q with rx := { q.rx with resync := [⟨5, 9, 1, 8⟩] } }), 0, .dxt,
      0, 0, mkMark .resyncAck 5 9 0 0, false, [], by decide +kernel⟩⟩

theorem witness_Sheets :
    (∃ s : State, ∃ dt : Nat, ∃ sd : Side, ∃ p : Nat, let b := s.hall.elapse dt; let q := b.port sd p; ∃ x, ∃ rest, q.st = .up ∧
      q.sh.resend = none ∧ bit (b.portCtrl sd p) 1 = true ∧ q.sh.replay.length < replaySize ∧ q.sh.queue = x :: rest ∧
      q.sh.hasCredit x.chan = true) ∧
    (∃ s : State, ∃ dt : Nat, ∃ sd : Side, ∃ p : Nat, let b := s.hall.elapse dt; let q := b.port sd p; ∃ bs : List Byte, q.st = .up ∧
      sheetIntact bs = true ∧ leAt bs 0 1 % 64 = tFoldIn ∧ b.epochMismatch sd p = false ∧ leAt bs 10 2 = b.portEpoch sd p ∧
      leAt bs 2 2 = q.sh.expSeq) ∧
    (∃ s : State, ∃ dt : Nat, ∃ sd : Side, ∃ p : Nat, let b := s.hall.elapse dt; let q := b.port sd p; ∃ bs : List Byte, ∃ fecBad,
      q.st = .up ∧ (fecBad = true ∨ sheetIntact bs = false)) ∧
    (∃ s : State, ∃ dt : Nat, ∃ sd : Side, ∃ p : Nat, let b := s.hall.elapse dt; let q := b.port sd p; q.st = .up ∧ q.sh.retryOut = true ∧
      q.sh.retryAt + b.rf sd Reg.SP_RETRY_TO 7 0 p ≤ q.tx.pair) ∧
    (∃ s : State, ∃ dt : Nat, ∃ sd : Side, ∃ p : Nat, let b := s.hall.elapse dt; ∃ tm, ∃ m, ∃ bad, ∃ rest, (b.node sd).inbox = ⟨p, tm, m,
      bad⟩ :: rest ∧ m.kind = .retry) :=
  ⟨⟨W (wPort .dxs 4 (fun q => { q with st := .up, sh := { q.sh with queue := [⟨1, 0, true, true, 0, 0, 0, []⟩], credit := [1, 0, 0, 0] } }) ∘
    wReg .dxs Reg.SP_CTRL 4 3), 0, .dxs, 4, ⟨1, 0, true, true, 0, 0, 0, []⟩, [], by decide +kernel⟩,
    ⟨W (wUp .dxt 0), 0, .dxt, 0, encodeSheet 1 3 0 0 0 0 0 0 9 8 [], by decide +kernel⟩,
    ⟨W (wUp .dxt 0), 0, .dxt, 0, [], false, by decide +kernel⟩,
    ⟨W (wPort .dxs 1 fun q => { q with st := .up, tx := { q.tx with pair := 300 }, sh := { q.sh with retryOut := true, retrySends := 8 } }),
      0, .dxs, 1, by decide +kernel⟩,
    ⟨W (wPort .dxt 0 (fun q => { q with sh := { q.sh with replay := [(7, ⟨1, 0, true, true, 0, 0, 0, []⟩)] } }) ∘
      wIn .dxt 0 0 (mkMark .retry 0 0 0 7)), 0, .dxt, 0, 0, mkMark .retry 0 0 0 7, false, [], by decide +kernel⟩⟩

theorem witness_EchoExchanges :
    (∃ s : State, ∃ dt : Nat, ∃ sd : Side, ∃ p : Nat, let b := s.hall.elapse dt; let q := b.port sd p; (b.refPorts sd).contains p = true ∧
      b.mayAsk sd p = true ∧ (q.st = .up ∨ q.st = .timeOnly) ∧ q.echo.reqAt ≤ q.tx.pair ∧ q.tx.q3.length < queueDepth ∧
      q.tx.waiting = []) ∧
    (∃ s : State, ∃ dt : Nat, ∃ sd : Side, ∃ p : Nat, let b := s.hall.elapse dt; let q := b.port sd p; ∃ tm, ∃ m, ∃ bad, ∃ rest,
      (b.node sd).inbox = ⟨p, tm, m, bad⟩ :: rest ∧ m.kind = .echoReq ∧ (q.st = .up ∨ q.st = .timeOnly) ∧ q.tx.q3.length < queueDepth ∧
      q.tx.waiting = []) ∧
    (∃ s : State, ∃ dt : Nat, ∃ sd : Side, ∃ p : Nat, let b := s.hall.elapse dt; let q := b.port sd p; ∃ tm, ∃ m, ∃ bad, ∃ rest, ∃ t1,
      ∃ out, (b.node sd).inbox = ⟨p, tm, m, bad⟩ :: rest ∧ m.kind = .echoRsp ∧ q.echo.out = (m.obj.toNat, t1) :: out) :=
  ⟨⟨W (wUp .dxt 0), 0, .dxt, 0, by decide +kernel⟩,
    ⟨W (wUp .dxs 5 ∘ wIn .dxs 5 77 (mkMark .echoReq 12 0 0 0)), 0, .dxs, 5, 77, mkMark .echoReq 12 0 0 0, false, [], by decide +kernel⟩,
    ⟨W (wPort .dxt 0 (fun q => { q with echo := { q.echo with out := [(12, 0)] } }) ∘ wIn .dxt 0 (10 ^ 7) (mkMark .echoRsp 12 0 0 5)), 0,
      .dxt, 0, 10 ^ 7, mkMark .echoRsp 12 0 0 5, false, [], 0, [], by decide +kernel⟩⟩

theorem witness_IntervalsAndDomains :
    (∃ s : State, ∃ dt : Nat, ∃ sd : Side, ∃ p : Nat, let b := s.hall.elapse dt; let q := b.port sd p; (b.refPorts sd).contains p = true ∧
      q.echo.closeAt ≤ b.now) ∧
    (∃ s : State, ∃ dt : Nat, ∃ sd : Side, ∃ p : Nat, let b := s.hall.elapse dt; let q := b.port sd p; let cv := portConv sd p;
      ∃ loop : List (Nat × Nat), (q.st = .train ∨ q.st = .off) ∧ p < nPorts sd ∧ loop.length = latencyMarks ∧ b.stampOk sd cv = true) ∧
    (∃ s : State, ∃ dt : Nat, ∃ sd : Side, ∃ p : Nat, let b := s.hall.elapse dt; let q := b.port sd p; let cv := portConv sd p;
      ∃ pad : Option Nat, ∃ loop : List (Nat × Nat), (q.st = .train ∨ q.st = .off) ∧ p < nPorts sd ∧ (pad = none ∨
      loop.length ≠ latencyMarks ∨ b.stampOk sd cv = false)) ∧
    (∃ s : State, ∃ dt : Nat, ∃ sd : Side, let b := s.hall.elapse dt; ∃ d, (b.clk sd).lock = .free ∧ (sd = .dxt ∨
      (b.dxs.root.roleDue = none ∧ b.actingRoot = false ∧ b.dxs.role ≠ .memberC)) ∧ b.chooseFree sd (b.candidates sd false) = some d) :=
  ⟨⟨W (wPort .dxt 0 fun q => { q with echo := { q.echo with got := List.replicate 9 (some 5, 7) } }), 0, .dxt, 0, by decide +kernel⟩,
    ⟨W ((fun b => b.updConv .dxt 1 fun c => { c with linValid := true, calGood := true, d1 := 84, d2 := 340 }) ∘
      wPort .dxt 1 fun q => { q with st := .off }), 0, .dxt, 1, List.replicate 256 (900, 0), by decide +kernel⟩,
    ⟨W ((fun b => b.updConv .dxt 1 fun c => { c with linValid := true, calGood := true, d1 := 84, d2 := 340 }) ∘
      wPort .dxt 1 fun q => { q with st := .off }), 0, .dxt, 1, none, [], by decide +kernel⟩,
    ⟨W (wPort .dxt 0 fun q => { q with st := .up, rx := { q.rx with lock := 3 } }), 0, .dxt, 0, by decide +kernel⟩⟩

theorem witness_SeedsAndSnapshots :
    (∃ s : State, ∃ dt : Nat, let b := s.hall.elapse dt; b.dxs.hub.bn.boot = 1) ∧
    (∃ s : State, ∃ dt : Nat, let b := s.hall.elapse dt; ∃ g, ∃ w : Word, b.guard .dxt 3 = some g ∧ g.off = Reg.TT_HTLOAD_SH ∧ g.idx = 0 ∧
      b.now ≤ g.openedAt + guardWindow .dxt ∧
      (g.w.toNat ^^^ w.toNat) &&& guardMask .dxt Reg.TT_HTLOAD_SH = guardMask .dxt Reg.TT_HTLOAD_SH ∧
      b.dxt.node.regs.guardDone.contains Reg.TT_HTLOAD_NS = true ∧ b.dxt.node.regs.guardDone.contains Reg.TT_HTLOAD_S = true ∧
      (b.clk .dxt).lock = .free ∧ b.servoMode .dxt = true) :=
  ⟨⟨W (wHub (fun h => { h with bn := { h.bn with boot := 1 } })), 0, by decide +kernel⟩,
    ⟨W (wPairs .dxt [Reg.TT_HTLOAD_NS, Reg.TT_HTLOAD_S] ∘ wGuard .dxt Reg.TT_HTLOAD_SH 0 ∘ wReg .dxt Reg.TT_CTRL 0 9 ∘
      wReg .dxt Reg.TT_HTLOAD_NS 0 77), 0, ⟨Reg.TT_HTLOAD_SH, 0, 0, 0⟩, cm 0, by decide +kernel⟩⟩

theorem witness_QualityMarks :
    (∃ s : State, ∃ dt : Nat, let b := s.hall.elapse dt; b.actingRoot = true ∧ (b.msNow ≠ b.dxs.root.qlMs ∨
      b.dxs.root.lastQl ≠ some b.rootQl)) ∧
    (∃ s : State, ∃ dt : Nat, let b := s.hall.elapse dt; ∃ sd, ∃ p, ∃ tm, ∃ m, ∃ bad, ∃ rest, (b.node sd).inbox = ⟨p, tm, m, bad⟩ :: rest ∧
      m.kind = .ql) ∧
    (∃ s : State, ∃ dt : Nat, let b := s.hall.elapse dt; b.actingRoot = false ∧ b.dxs.qlRxAt + 2000000 ≤ b.now ∧
      b.dxs.qlTxAt + 1000000 ≤ b.now) ∧
    (∃ s : State, ∃ dt : Nat, ∃ eth : Nat, let b := s.hall.elapse dt; isRoot b.dxs.role = true ∧ eth < 2 ∧ b.ethUp eth = true ∧
      wbit (b.reg .dxs Reg.RF_CTRL) 18 = true) ∧
    (∃ s : State, ∃ dt : Nat, ∃ eth : Nat, ∃ ty : Nat, let b := s.hall.elapse dt; isRoot b.dxs.role = true ∧ eth < 2 ∧ b.ethUp eth = true ∧
      let event := ty == Ptp.sync || ty == Ptp.delayReq; ∃ slot, slot < 4 ∧ slot < b.dxs.root.ptpSlots.length ∧ b.ptpEth slot = eth ∧
      b.ptpMaySend slot ty = true ∧ (event = false ∨ b.stampOk .dxs (ethConv eth) = true)) :=
  ⟨⟨W (wUp .dxs 0 ∘ wActing), 0, by decide +kernel⟩,
    ⟨W (wUp .dxs 5 ∘ wIn .dxs 5 77 (mkMark .ql 0x305 0 0 3)), 0, .dxs, 5, 77, mkMark .ql 0x305 0 0 3, false, [], by decide +kernel⟩,
    ⟨W (wNow 2000000 ∘ wLock .dxs .overcast ∘ wUp .dxs 0), 0, by decide +kernel⟩,
    ⟨W (wActing ∘
      wRoot (fun r => { r with ethUp := [true, true], ptp := [⟨true, 0, 1, 0, []⟩, PtpCfg.reset, PtpCfg.reset, ⟨true, 0, 1, 0, []⟩] }) ∘
      wReg .dxs Reg.RF_CTRL 0 0x40000), 0, 1, by decide +kernel⟩,
    ⟨W ((fun b => b.updConv .dxs (ethConv 1) fun c => { c with linValid := true, calGood := true, d1 := 84, d2 := 340 }) ∘ wActing ∘
      wRoot (fun r => { r with ethUp := [true, true], ptp := [⟨true, 0, 1, 0, []⟩, PtpCfg.reset, PtpCfg.reset, ⟨true, 0, 1, 0, []⟩] }) ∘
      wReg .dxs Reg.RF_CTRL 0 0x40000), 0, 1, 0, by decide +kernel, by decide +kernel, by decide +kernel, 3, by decide +kernel⟩⟩

theorem witness_ReferenceInputs :
    (∃ s : State, ∃ dt : Nat, ∃ i : Nat, let b := s.hall.elapse dt; let c := b.cand i; isRoot b.dxs.role = true ∧
      i < b.dxs.root.cands.length ∧ i < 4 ∧ b.usesPps i = true ∧ b.stampOk .dxs i = true ∧ c.ppsOk = false ∧ c.ppsRun = 0) ∧
    (∃ s : State, ∃ dt : Nat, ∃ i : Nat, let b := s.hall.elapse dt; isRoot b.dxs.role = true ∧ i < b.dxs.root.cands.length ∧ i < 4 ∧
      b.usesTen i = true) ∧
    (∃ s : State, ∃ dt : Nat, ∃ i : Nat, let b := s.hall.elapse dt; isRoot b.dxs.role = true ∧ i < b.dxs.root.cands.length ∧ ∃ slot, ∃ msg,
      i = 4 + slot ∧ slot < 2 ∧ slot < b.dxs.root.ptpSlots.length ∧ b.ptpTakes slot msg = true ∧ ptpType msg = Ptp.announce) ∧
    (∃ s : State, ∃ dt : Nat, ∃ i : Nat, let b := s.hall.elapse dt; let c := b.cand i; isRoot b.dxs.role = true ∧
      i < b.dxs.root.cands.length ∧ ∃ slot, ∃ t, i = 4 + slot ∧ slot < 2 ∧ c.annAt = some t ∧
      t + b.rf .dxs Reg.RF_P_QUAL 11 8 i * ptpInterval (b.ptpRaw slot) 4 ≤ b.now ∧
      (b.ptpSlot slot).foreign.all (fun f => (b.ptpSlot slot).parent == some f.src) = true) ∧
    (∃ s : State, ∃ dt : Nat, ∃ i : Nat, let b := s.hall.elapse dt; isRoot b.dxs.role = true ∧ i < b.dxs.root.cands.length ∧ ∃ eth,
      i = 6 + eth ∧ eth < 2 ∧ b.candUse i ≠ 0 ∧ b.ethUp eth = true) ∧
    (∃ s : State, ∃ dt : Nat, ∃ i : Nat, let b := s.hall.elapse dt; let c := b.cand i; isRoot b.dxs.role = true ∧
      i < b.dxs.root.cands.length ∧ ∃ eth, ∃ t, i = 6 + eth ∧ eth < 2 ∧ c.esmcAt = some t ∧
      t + b.rf .dxs Reg.RF_P_QUAL 23 16 i * secCyc ≤ b.now) ∧
    (∃ s : State, ∃ dt : Nat, ∃ i : Nat, let b := s.hall.elapse dt; isRoot b.dxs.role = true ∧ i < b.dxs.root.cands.length ∧ ∃ eth,
      eth < 2 ∧ 4 ≤ i ∧ i < 8 ∧ b.candEth i = eth ∧ eth < b.dxs.root.ethUp.length) :=
  ⟨⟨W (wRole .rootA ∘ wReg .dxs Reg.RF_P_CFG 3 1 ∘
    fun b => b.updConv .dxs 3 fun c => { c with calGood := true, linValid := true, d1 := 10, d2 := 300 }), 0, 3, by decide +kernel⟩,
    ⟨W (wRole .rootA ∘ wReg .dxs Reg.RF_P_CFG 0 2 ∘ wCand 0 fun c => { c with tenOk := true, qual := true, tenMiss := 300 }), 0, 0,
      by decide +kernel⟩,
    ⟨W (wRole .rootA ∘ wReg .dxs Reg.RF_P_CFG 5 5 ∘ wRoot (fun r => { r with ptp := [PtpCfg.reset, ⟨true, 0, 1, 0, []⟩] }) ∘
      wCand 5 fun c => c), 0, 5, by decide +kernel, by decide +kernel, 1, [11, 2, 0, 64] ++ List.replicate 60 0, by decide +kernel⟩,
    ⟨W (wRole .rootA ∘ wNow (10 ^ 12) ∘ wReg .dxs Reg.RF_P_CFG 4 1 ∘ wCand 4 fun c => { c with annAt := some 0, qual := true }), 0, 4,
      by decide +kernel, by decide +kernel, 0, 0, by decide +kernel⟩,
    ⟨W (wRole .rootA ∘ wReg .dxs Reg.RF_P_CFG 7 1 ∘ wCand 7 fun c => c), 0, 7, by decide +kernel, by decide +kernel, 1, by decide +kernel⟩,
    ⟨W (wRole .rootA ∘ wNow (10 ^ 12) ∘ wCand 6 fun c => { c with esmcAt := some 5 }), 0, 6, by decide +kernel, by decide +kernel, 0, 5,
      by decide +kernel⟩,
    ⟨W (wRole .rootA ∘ wCand 6 fun c => { c with qual := true }), 0, 6, by decide +kernel, by decide +kernel, 0, by decide +kernel⟩⟩

theorem witness_RootServo :
    (∃ s : State, ∃ dt : Nat, let b := s.hall.elapse dt; b.actingRoot = true ∧ ((∀ i < 8, b.meets i ((b.cand i).tick b.now) = false)) ∧
      b.dxs.root.cands.length = 8 ∧ ((b.clk .dxs).lock = .coarse ∨ (b.clk .dxs).lock = .locked)) ∧
    (∃ s : State, ∃ dt : Nat, let b := s.hall.elapse dt; ∃ k, b.actingRoot = true ∧ (b.clk .dxs).lock = .locked ∧
      b.dxs.root.cands.length = 8 ∧ b.meets k ((b.cand k).tick b.now) = true ∧ wbit (b.reg .dxs Reg.RF_FORCE) 3 = true ∧
      fld (b.reg .dxs Reg.RF_FORCE) 2 0 = k) ∧
    (∃ s : State, ∃ dt : Nat, let b := s.hall.elapse dt; ∃ i, ∃ t, isRoot b.dxs.role = true ∧ i < 4 ∧ b.dxs.root.cands.length = 8 ∧
      b.usesPps i = true ∧ b.usesTen i = false ∧ (b.cand i).ppsStamp = some t ∧ (b.cand i).qual = true) ∧
    (∃ s : State, ∃ dt : Nat, let b := s.hall.elapse dt; b.actingRoot = true ∧ (b.clk .dxs).lock = .overcast ∧
      b.dxs.root.ageValid = true) ∧
    (∃ s : State, ∃ dt : Nat, let b := s.hall.elapse dt; ∃ r, b.actingRoot = true ∧ ((b.clk .dxs).lock = .coarse ∨
      (b.clk .dxs).lock = .locked) ∧ b.dxs.root.sel = some r ∧ b.isTime r = false ∧ (b.cand r).valid = true ∧ b.servoMode .dxs = false) ∧
    (∃ s : State, ∃ dt : Nat, let b := s.hall.elapse dt; b.actingRoot = true ∧ (b.clk .dxs).lock = .acquire ∧
      b.dxs.root.acqAt + 1024000 ≤ b.now) :=
  ⟨⟨W (wActing ∘ wLock .dxs .locked), 0, by decide +kernel⟩,
    ⟨W (wActing ∘ wLock .dxs .locked ∘ wReg .dxs Reg.RF_P_CFG 7 1 ∘ wCand 7 (fun c => { c with esmcAt := some 0, rxSsm := 2 }) ∘
      wReg .dxs Reg.RF_P_QUAL 7 0x50004 ∘ wReg .dxs Reg.RF_FORCE 0 15), 0, 7, by decide +kernel⟩,
    ⟨W (wRole .rootA ∘ wReg .dxs Reg.RF_P_CFG 1 1 ∘ wCand 1 fun c => { c with qual := true, ppsStamp := some (65536 * 10 ^ 9 - 77) }), 0,
      1, 65536 * 10 ^ 9 - 77, by decide +kernel⟩,
    ⟨W (wActing ∘ wLock .dxs .overcast ∘ wRoot fun r => { r with ageValid := true }), 0, by decide +kernel⟩,
    ⟨W (wActing ∘ wLock .dxs .locked ∘ wReg .dxs Reg.RF_P_CFG 0 2 ∘ wRoot (fun r => { r with sel := some 0 }) ∘
      wCand 0 fun c => { c with valid := true, fref := 2 ^ 20 }), 0, 0, by decide +kernel⟩,
    ⟨W (wActing ∘ wLock .dxs .acquire ∘ wNow 1024000), 0, by decide +kernel⟩⟩

theorem witness_RootTimeSet :
    (∃ s : State, ∃ dt : Nat, ∃ g : GuardOpen, ∃ w : Word, let b := s.hall.elapse dt; b.guard .dxs 4 = some g ∧ g.idx = 0 ∧
      b.now ≤ g.openedAt + guardWindow .dxs ∧ g.off = Reg.RF_HTSET_SH ∧
      (g.w.toNat ^^^ w.toNat) &&& guardMask .dxs Reg.RF_HTSET_SH = guardMask .dxs Reg.RF_HTSET_SH ∧
      b.dxs.node.regs.guardDone.contains Reg.RF_HTSET_NS = true ∧ b.dxs.node.regs.guardDone.contains Reg.RF_HTSET_S = true ∧
      b.dxs.role = .rootA ∧ b.actingRoot = true) ∧
    (∃ s : State, ∃ dt : Nat, ∃ g : GuardOpen, ∃ w : Word, let b := s.hall.elapse dt; b.guard .dxs 4 = some g ∧ g.idx = 0 ∧
      b.now ≤ g.openedAt + guardWindow .dxs ∧ g.off = Reg.RF_HTSTEP ∧
      (g.w.toNat ^^^ w.toNat) &&& guardMask .dxs Reg.RF_HTSTEP = guardMask .dxs Reg.RF_HTSTEP ∧ b.dxs.role = .rootA ∧ b.actingRoot = true ∧
      b.jobsLoaded = false) ∧
    (∃ s : State, ∃ dt : Nat, ∃ g : GuardOpen, ∃ w : Word, let b := s.hall.elapse dt; b.guard .dxs 4 = some g ∧ g.idx = 0 ∧
      b.now ≤ g.openedAt + guardWindow .dxs ∧ g.off = Reg.RF_FORCE ∧
      (g.w.toNat ^^^ w.toNat) &&& guardMask .dxs Reg.RF_FORCE = guardMask .dxs Reg.RF_FORCE ∧ isRoot b.dxs.role = true) :=
  ⟨⟨W (wActing ∘ wPairs .dxs [Reg.RF_HTSET_NS, Reg.RF_HTSET_S] ∘ wGuard .dxs Reg.RF_HTSET_SH 5 ∘ wReg .dxs Reg.RF_HTSET_NS 0 99), 0,
    ⟨Reg.RF_HTSET_SH, 0, w32 5, 0⟩, cm 5, by decide +kernel⟩,
    ⟨W (wActing ∘ wGuard .dxs Reg.RF_HTSTEP 500 ∘ wClk .dxs fun c => { c with ht := 2 ^ 100 }), 0, ⟨Reg.RF_HTSTEP, 0, w32 500, 0⟩, cm 500,
      by decide +kernel⟩,
    ⟨W (wRole .rootA ∘ wGuard .dxs Reg.RF_FORCE 9), 0, ⟨Reg.RF_FORCE, 0, w32 9, 0⟩, cm 9, by decide +kernel⟩⟩

theorem witness_SteeringAndAgeing :
    (∃ s : State, ∃ dt : Nat, let b := s.hall.elapse dt; isRoot b.dxs.role = false ∧ b.servoMode .dxs = true) ∧
    (∃ s : State, ∃ dt : Nat, let b := s.hall.elapse dt; isRoot b.dxs.role = true ∧ b.servoMode .dxs = true ∧
      b.now < b.dxs.root.swLast + 1000000) ∧
    (∃ s : State, ∃ dt : Nat, let b := s.hall.elapse dt; ∃ v, b.dxs.root.swWait = some v ∧ b.dxs.root.swLast + 1000000 ≤ b.now) ∧
    (∃ s : State, ∃ dt : Nat, let b := s.hall.elapse dt; b.actingRoot = true ∧ b.servoMode .dxs = true ∧ b.dxs.root.swExpired = false ∧
      b.dxs.root.swAt + b.rf .dxs Reg.RF_SW_WDOG 15 0 * 1000000 ≤ b.now ∧ (b.clk .dxs).lock = .locked) ∧
    (∃ s : State, ∃ dt : Nat, let b := s.hall.elapse dt; ∃ p, b.dxs.role = .rootB ∧ b.dxs.root.onCross = true ∧
      b.refPort .dxs 0 = some p) ∧
    (∃ s : State, ∃ dt : Nat, let b := s.hall.elapse dt; ∃ c1, ∃ tau, ∃ res, b.actingRoot = true ∧ (b.clk .dxs).lock = .locked ∧
      bestAge b.dxs.root.ageHist = some (c1, tau, res)) ∧
    (∃ s : State, ∃ dt : Nat, let b := s.hall.elapse dt; b.actingRoot = true ∧ (b.clk .dxs).lock ≠ .overcast ∧
      ageLimit < b.dxs.root.ageSpent) ∧
    (∃ s : State, ∃ dt : Nat, let b := s.hall.elapse dt; b.actingRoot = true ∧ (b.clk .dxs).lock = .locked ∧ b.sm.rdy = true ∧
      b.dxs.root.ageHist.length < ageSamples) :=
  ⟨⟨W (wReg .dxs Reg.TT_CTRL 0 9), 0, by decide +kernel⟩,
    ⟨W (wActing ∘ wReg .dxs Reg.TT_CTRL 0 9), 0, by decide +kernel⟩,
    ⟨W (wActing ∘ wNow 1000000 ∘ wRoot fun r => { r with swWait := some 12345 }), 0, 12345, by decide +kernel⟩,
    ⟨W (wActing ∘ wReg .dxs Reg.TT_CTRL 0 9 ∘ wLock .dxs .locked ∘ wNow (10 ^ 12)), 0, by decide +kernel⟩,
    ⟨W (wRoot (fun r => { r with onCross := true }) ∘ wHall .rootB), 0, 2, by decide +kernel⟩,
    ⟨W (wActing ∘ wLock .dxs .locked ∘ wRoot fun r => { r with ageHist := [(0, 5), (2 ^ 46, 9), (2 ^ 47, 11), (2 ^ 48, 12)] }), 0,
      ((bestAge wAge).get age_some).1, ((bestAge wAge).get age_some).2.1, ((bestAge wAge).get age_some).2.2, by decide +kernel,
      by decide +kernel, (Option.some_get age_some).symm⟩,
    ⟨W (wActing ∘ wRoot fun r => { r with ageSpent := ageLimit + 1, ageValid := true }), 0, by decide +kernel⟩,
    ⟨W (wActing ∘ wLock .dxs .locked ∘ fun b => { b with sm := { b.sm with rdy := true } }), 0, by decide +kernel⟩⟩

theorem witness_Measurements :
    (∃ s : State, ∃ dt : Nat, ∃ sd : Side, ∃ cv : Nat, let b := s.hall.elapse dt; ∃ e, cv < nOuts sd ∧ b.clk10At sd cv = false ∧
      b.outMode sd cv = 2 ∧ (b.outp sd cv).level = false ∧ (b.outp sd cv).next = some e ∧ e ≤ b.ht sd ∧ (b.clk sd).htValid = true) ∧
    (∃ s : State, ∃ dt : Nat, ∃ sd : Side, ∃ cv : Nat, let b := s.hall.elapse dt; cv < nConvs sd ∧ b.convOpen sd cv = false ∧
      b.edgeWithin sd cv 8 = false) ∧
    (∃ s : State, ∃ dt : Nat, ∃ sd : Side, ∃ cv : Nat, let b := s.hall.elapse dt; ∃ taps : List Nat, cv < nConvs sd ∧
      b.burstOn sd cv = true ∧ b.convOpen sd cv = false ∧ b.edgeWithin sd cv 64 = false ∧ taps.length ≤ burstShots ∧
      (b.conv sd cv).shots + taps.length ≤ tableHits) ∧
    (∃ s : State, ∃ dt : Nat, ∃ cv : Nat, let b := s.hall.elapse dt; cv < 4 ∧ fld b.dxs.sw.ctrl 1 0 = cv ∧ b.dxs.sw.st = .armed ∧
      startSrc b.dxs.sw.ctrl = 0 ∧ b.convFree .dxs cv = true) ∧
    (∃ s : State, ∃ dt : Nat, ∃ cv : Nat, let b := s.hall.elapse dt; b.dxs.sw.st = .running ∧ fld b.dxs.sw.ctrl 1 0 = cv ∧
      b.dxs.sw.windowEnd ≤ b.ht .dxs) ∧
    (∃ s : State, ∃ dt : Nat, ∃ cv : Nat, let b := s.hall.elapse dt; b.dxs.sw.fq.busy = true ∧ fld b.dxs.sw.fqCtrl 1 0 = cv ∧
      b.dxs.sw.fqFrom + fld b.dxs.sw.fqCtrl 31 8 * 1000000 ≤ b.now) ∧
    (∃ s : State, ∃ dt : Nat, let b := s.hall.elapse dt; b.dxs.sw.fq.busy = false) :=
  ⟨⟨W (wReg .dxt (toReg .dxt Reg.TO_CTRL) 3 2 ∘ wClk .dxt (fun c => { c with ht := 2 ^ 90, htValid := true }) ∘
    fun b => b.updOut .dxt 3 fun o => { o with next := some 65536 }), 0, .dxt, 3, 65536, by decide +kernel⟩,
    ⟨State.reset, 0, .dxs, 53, by decide +kernel⟩,
    ⟨W (wReg .dxt (isBase .dxt + Reg.IS_CTRL) 0 15), 0, .dxt, 2, [1, 2], by decide +kernel⟩,
    ⟨W (wSw fun m => { m with st := .armed, ctrl := 0x13 }), 0, 3, by decide +kernel⟩,
    ⟨W (wClk .dxs (fun c => { c with ht := 2 ^ 90 }) ∘ wSw fun m => { m with st := .running, ctrl := 3, openAt := 5, window := 10 }), 0, 3,
      by decide +kernel⟩,
    ⟨W (wSw fun m => { m with fq := .armed, fqCtrl := 2 }), 0, 2, by decide +kernel⟩,
    ⟨State.reset, 0, by decide +kernel⟩⟩

theorem witness_BringUp :
    (∃ s : State, ∃ dt : Nat, let b := s.hall.elapse dt; b.dxt.die.bring = .colophon) ∧
    (∃ s : State, ∃ dt : Nat, let b := s.hall.elapse dt; ∃ ref : List TreeTry, ∃ tries : List (List TreeTry), ∃ c : Int, ∃ laps : List Int,
      b.treeDue = true ∧ (b.treeSum ref).1 = some c ∧ laps.length = 64 ∧ ((∀ r, r < 64 →
      (b.treeSum (tries.getD r [])).1 = some (laps.getD r 0))) ∧ ((∀ l ∈ laps, treeDelay c l ≤ treeLimit))) ∧
    (∃ s : State, ∃ dt : Nat, let b := s.hall.elapse dt; ∃ ref : List TreeTry, ∃ tries : List (List TreeTry), ∃ r, b.treeDue = true ∧
      r < 64 ∧ ((b.treeSum ref).1 = none ∨ (b.treeSum (tries.getD r [])).1 = none ∨ ∃ c l, (b.treeSum ref).1 = some c ∧
      (b.treeSum (tries.getD r [])).1 = some l ∧ treeLimit < treeDelay c l)) ∧
    (∃ s : State, ∃ dt : Nat, let b := s.hall.elapse dt; b.dxt.die.bring = .xcal) ∧
    (∃ s : State, ∃ dt : Nat, ∃ g : GuardOpen, ∃ w : Word, let b := s.hall.elapse dt; PairReady b .dxt Reg.DC_L_OVR g w) ∧
    (∃ s : State, ∃ dt : Nat, ∃ g : GuardOpen, ∃ w : Word, let b := s.hall.elapse dt; PairReady b .dxt Reg.DC_SEAM_OVR g w) :=
  ⟨⟨State.reset, 0, by decide +kernel⟩,
    ⟨W (wDie (fun d => { d with bring := .ltCal }) ∘ fun b => b.updConv .dxt treeConv fun c => { c with linValid := true }), 0,
      List.replicate 16 (100, 300, (List.range 9).map fun i => (10 * (i + 1), 100)), List.replicate 64 (List.replicate 16 (100, 300,
      (List.range 9).map fun i => (15 * (i + 1), 100))), 83886080, List.replicate 64 125829120, by decide +kernel⟩,
    ⟨W (wDie (fun d => { d with bring := .ltCal }) ∘ fun b => b.updConv .dxt treeConv fun c => { c with linValid := true }), 0,
      List.replicate 16 (100, 300, (List.range 9).map fun i => (10 * (i + 1), 100)), [List.replicate 16 (100, 300,
      (List.range 9).map fun i => (30 * (i + 1), 100))], 0, by decide +kernel, by decide +kernel, Or.inr (Or.inr ⟨83886080, 251658240,
      by decide +kernel, by decide +kernel, by decide +kernel⟩)⟩,
    ⟨W (wDie fun d => { d with bring := .xcal }), 0, by decide +kernel⟩,
    ⟨W (wGuard .dxt Reg.DC_L_OVR 0x80000444), 0, ⟨Reg.DC_L_OVR, 0, w32 0x80000444, 0⟩, cm 0x80000444, by decide +kernel⟩,
    ⟨W (wGuard .dxt Reg.DC_SEAM_OVR 13), 0, ⟨Reg.DC_SEAM_OVR, 0, w32 13, 0⟩, cm 13, by decide +kernel⟩⟩

theorem witness_RegionCycles :
    (∃ s : State, ∃ dt : Nat, ∃ r : Nat, let b := s.hall.elapse dt; let x := b.region r; b.dxt.die.clocked r = true ∧ x.started = true ∧
      x.ended = false ∧ x.cyc < b.endCycle r ∧ x.waits = [] ∧ ((∀ i ∈ b.dxt.die.inbound r, b.missing x.cyc i = false)) ∧
      ((∀ o ∈ b.dxt.die.outbound r, (b.dxt.die.xing o).fifo.length < 16))) ∧
    (∃ s : State, ∃ dt : Nat, ∃ r : Nat, let b := s.hall.elapse dt; let x := b.region r; b.dxt.die.clocked r = true ∧ x.started = true ∧
      x.ended = false ∧ ∃ i, x.cyc < b.endCycle r ∧ (b.dxt.die.inbound r).find? (b.missing x.cyc) = some i) ∧
    (∃ s : State, ∃ dt : Nat, ∃ r : Nat, let b := s.hall.elapse dt; let x := b.region r; b.dxt.die.clocked r = true ∧ x.started = true ∧
      x.ended = false ∧ ∃ o, x.cyc < b.endCycle r ∧ ((∀ i ∈ b.dxt.die.inbound r, b.missing x.cyc i = false)) ∧ o ∈ b.dxt.die.outbound r ∧
      16 ≤ (b.dxt.die.xing o).fifo.length) ∧
    (∃ s : State, ∃ dt : Nat, ∃ r : Nat, let b := s.hall.elapse dt; let x := b.region r; b.dxt.die.clocked r = true ∧ x.started = true ∧
      x.ended = false ∧ b.dxt.step.st = .running ∧ b.endCycle r ≤ x.cyc) :=
  ⟨⟨W (wDie (fun d => { d with ends := (100, 100) }) ∘ wStep (fun c => { c with st := .running, next := 1 }) ∘
    (fun b => b.updRegion 9 fun x => { x with started := true, cyc := 0 })), 0, 9, by decide +kernel⟩,
    ⟨W (wDie (fun d => { d with ends := (100, 100) }) ∘ wStep (fun c => { c with st := .running, next := 1 }) ∘
      (fun b => b.updRegion 9 fun x => { x with started := true, cyc := 50 })), 0, 9, by decide +kernel, by decide +kernel,
      by decide +kernel, (((W (wDie (fun d => { d with ends := (100, 100) }) ∘ wStep (fun c => { c with st := .running, next := 1 }) ∘
      (fun b => b.updRegion 9 fun x => { x with started := true, cyc := 50 }))).hall.elapse 0).dxt.die.inbound 9).headD 0,
      by decide +kernel⟩,
    ⟨W (wDie (fun d => { d with ends := (100, 100) }) ∘ wStep (fun c => { c with st := .running, next := 1 }) ∘
      (fun b => b.updRegion 9 fun x => { x with started := true, cyc := 0 }) ∘
      fun b => b.updXing (xingNo 9 0) fun x => { x with fifo := List.replicate 16 (0, none) }), 0, 9, by decide +kernel, by decide +kernel,
      by decide +kernel, xingNo 9 0, by decide +kernel⟩,
    ⟨W (wDie (fun d => { d with ends := (100, 100) }) ∘ wStep (fun c => { c with st := .running, next := 1 }) ∘
      (fun b => b.updRegion 9 fun x => { x with started := true, cyc := 100 })), 0, 9, by decide +kernel⟩⟩

theorem witness_VoltageAndMargins :
    (∃ s : State, ∃ dt : Nat, let b := s.hall.elapse dt; ∃ r, b.dxt.die.clocked r = true) ∧
    (∃ s : State, ∃ dt : Nat, let b := s.hall.elapse dt; ∃ t, b.dxt.die.relockFrom = some t ∧ b.dxt.die.retargetDue = false) ∧
    (∃ s : State, ∃ dt : Nat, let b := s.hall.elapse dt; ∃ code, ∃ t, b.dxt.die.vreq = some (code, t, true) ∧ t + 100000 ≤ b.now ∧
      b.dxt.die.vreqLate = false) :=
  ⟨⟨State.reset, 0, 5, by decide +kernel⟩,
    ⟨W (wNow 500 ∘ wDie fun d => { d with relockFrom := some 3 }), 0, 3, by decide +kernel⟩,
    ⟨W (wNow 100000 ∘ wDie fun d => { d with vreq := some (7, 0, true) }), 0, 7, 0, by decide +kernel⟩⟩

theorem witness_GoAtDie :
    (∃ s : State, ∃ dt : Nat, ∃ r : RxMark, ∃ rest : List RxMark, let b := s.hall.elapse dt; let k := b.dxt.step.next;
      let sn := expandTag ((k : Int) - 1) r.mark.tag; let go := expandStamp (b.ht .dxt) r.mark.stamp; InboxHead b .dxt .go r rest ∧
      b.bound = true ∧ bits r.mark.obj.toNat 7 0 = b.dxt.step.job ∧ sn = k ∧ b.dxt.step.st ≠ .armed ∧ b.dxt.step.refused = false ∧
      (b.clk .dxt).htValid = true ∧ b.ht .dxt + b.armingMargin k * 65536 ≤ go ∧ b.checkDesc k = .ok) ∧
    (∃ s : State, ∃ dt : Nat, ∃ r : RxMark, ∃ rest : List RxMark, let b := s.hall.elapse dt; let k := b.dxt.step.next;
      let sn := expandTag ((k : Int) - 1) r.mark.tag; InboxHead b .dxt .go r rest ∧ b.bound = true ∧
      bits r.mark.obj.toNat 7 0 = b.dxt.step.job ∧ (sn < k ∨ sn = k ∧ (b.dxt.step.st = .armed ∨ b.dxt.step.refused = true))) ∧
    (∃ s : State, ∃ dt : Nat, ∃ r : RxMark, ∃ rest : List RxMark, let b := s.hall.elapse dt; let k := b.dxt.step.next;
      let sn := expandTag ((k : Int) - 1) r.mark.tag; InboxHead b .dxt .go r rest ∧ b.bound = true ∧
      bits r.mark.obj.toNat 7 0 = b.dxt.step.job ∧ k < sn ∧ (b.clk .dxt).htValid = true) ∧
    (∃ s : State, ∃ dt : Nat, ∃ r : RxMark, ∃ rest : List RxMark, let b := s.hall.elapse dt; let k := b.dxt.step.next;
      let sn := expandTag ((k : Int) - 1) r.mark.tag; let go := expandStamp (b.ht .dxt) r.mark.stamp; InboxHead b .dxt .go r rest ∧
      b.bound = true ∧ bits r.mark.obj.toNat 7 0 = b.dxt.step.job ∧ sn = k ∧ b.dxt.step.st ≠ .armed ∧ b.dxt.step.refused = false ∧
      (b.clk .dxt).htValid = true ∧ go < b.ht .dxt + b.armingMargin k * 65536) ∧
    (∃ s : State, ∃ dt : Nat, ∃ r : RxMark, ∃ rest : List RxMark, let b := s.hall.elapse dt; let k := b.dxt.step.next;
      let sn := expandTag ((k : Int) - 1) r.mark.tag; let go := expandStamp (b.ht .dxt) r.mark.stamp; InboxHead b .dxt .go r rest ∧
      b.bound = true ∧ bits r.mark.obj.toNat 7 0 = b.dxt.step.job ∧ sn = k ∧ b.dxt.step.st ≠ .armed ∧ b.dxt.step.refused = false ∧
      (b.clk .dxt).htValid = true ∧ b.ht .dxt + b.armingMargin k * 65536 ≤ go ∧ b.checkDesc k ≠ .ok) :=
  ⟨⟨W (wIn .dxt 0 0 ⟨.go, 5, 0, 2 ^ 27, 0⟩ ∘ wClk .dxt (fun c => { c with htValid := true }) ∘
    wStep (fun c => { c with st := .idle, job := 5 }) ∘ wReg .dxt Reg.DC_OPP_FREQ 0 0x80000000 ∘
    wDie fun d => { d with desc := some (withCrc ([1, 0, 5, 0, 6, 10, 9, 0] ++ List.replicate 8 0 ++ [1, 0, 0, 0, 1, 0, 0, 0] ++ List.replicate 4 0)) }),
    0, ⟨0, 0, ⟨.go, 5, 0, 2 ^ 27, 0⟩, false⟩, [], by decide +kernel⟩,
    ⟨W (wIn .dxt 0 0 ⟨.go, 5, 65535, 2 ^ 27, 0⟩ ∘ wClk .dxt (fun c => { c with htValid := true }) ∘
      wStep (fun c => { c with st := .idle, job := 5 }) ∘ wReg .dxt Reg.DC_OPP_FREQ 0 0x80000000), 0, ⟨0, 0, ⟨.go, 5, 65535, 2 ^ 27, 0⟩,
      false⟩, [], by decide +kernel⟩,
    ⟨W (wIn .dxt 0 0 ⟨.go, 5, 1, 2 ^ 27, 0⟩ ∘ wClk .dxt (fun c => { c with htValid := true }) ∘
      wStep (fun c => { c with st := .idle, job := 5 }) ∘ wReg .dxt Reg.DC_OPP_FREQ 0 0x80000000), 0, ⟨0, 0, ⟨.go, 5, 1, 2 ^ 27, 0⟩,
      false⟩, [], by decide +kernel⟩,
    ⟨W (wIn .dxt 0 0 ⟨.go, 5, 0, 2 ^ 12, 0⟩ ∘ wClk .dxt (fun c => { c with htValid := true }) ∘
      wStep (fun c => { c with st := .idle, job := 5 }) ∘ wReg .dxt Reg.DC_OPP_FREQ 0 0x80000000), 0, ⟨0, 0, ⟨.go, 5, 0, 2 ^ 12, 0⟩,
      false⟩, [], by decide +kernel⟩,
    ⟨W (wIn .dxt 0 0 ⟨.go, 5, 0, 2 ^ 27, 0⟩ ∘ wClk .dxt (fun c => { c with htValid := true }) ∘
      wStep (fun c => { c with st := .idle, job := 5 }) ∘ wReg .dxt Reg.DC_OPP_FREQ 0 0x80000000), 0, ⟨0, 0, ⟨.go, 5, 0, 2 ^ 27, 0⟩,
      false⟩, [], by decide +kernel⟩⟩

theorem witness_Launch :
    (∃ s : State, ∃ dt : Nat, let b := s.hall.elapse dt; let k := b.dxt.step.next; b.dxt.step.st = .armed ∧ b.dxt.step.go ≤ b.ht .dxt ∧
      b.dxt.die.relockFrom = none ∧ b.dxt.die.atLaunch = [] ∧ b.compiledSeam = b.oppSeamAt k (b.oppAt k)) ∧
    (∃ s : State, ∃ dt : Nat, let b := s.hall.elapse dt; b.dxt.step.st = .armed ∧ b.dxt.step.go ≤ b.ht .dxt ∧
      b.dxt.die.relockFrom.isSome = true) ∧
    (∃ s : State, ∃ dt : Nat, let b := s.hall.elapse dt; let k := b.dxt.step.next; b.dxt.step.st = .armed ∧ b.dxt.step.go ≤ b.ht .dxt ∧
      b.dxt.die.relockFrom = none ∧ b.compiledSeam ≠ b.oppSeamAt k (b.oppAt k)) :=
  ⟨⟨W (wStep fun c => { c with st := .armed }), 0, by decide +kernel⟩,
    ⟨W (wDie (fun d => { d with relockFrom := some 0 }) ∘ wStep fun c => { c with st := .armed, next := 70000 }), 0, by decide +kernel⟩,
    ⟨W (wDie (fun d => { d with desc := some [1, 0, 0, 2] }) ∘ wStep fun c => { c with st := .armed }), 0, by decide +kernel⟩⟩

theorem witness_Done :
    (∃ s : State, ∃ dt : Nat, let b := s.hall.elapse dt; let c := b.dxt.step; let ends := c.next < 2 ∨ b.endpointsDone c.next = true;
      c.st = .ended ∧ c.next ≤ c.list ∧ ends ∧ b.voltPending = false ∧ (b.usesSess = true → c.reported = true)) ∧
    (∃ s : State, ∃ dt : Nat, let b := s.hall.elapse dt; let c := b.dxt.step; c.st = .ended ∧ c.list < c.next) ∧
    (∃ s : State, ∃ dt : Nat, let b := s.hall.elapse dt; let c := b.dxt.step; let ends := c.next < 2 ∨ b.endpointsDone c.next = true;
      c.st = .ended ∧ c.next ≤ c.list ∧ ¬ ends) :=
  ⟨⟨W (wUp .dxt 0 ∘ wStep fun c => { c with st := .ended, next := 3, list := 3 }), 0, by decide +kernel⟩,
    ⟨W (wStep fun c => { c with st := .ended, next := 3, list := 2 }), 0, by decide +kernel⟩,
    ⟨W (wReg .dxt Reg.SY_OBJ_CFG 8 3 ∘ wSlot 8 1 (fun v => { v with used := true }) ∘
      wStep fun c => { c with st := .ended, next := 3, list := 3 }), 0, by decide +kernel⟩⟩

theorem witness_ListsReportsKills :
    (∃ s : State, ∃ dt : Nat, let b := s.hall.elapse dt; let c := b.dxt.step; ∃ m, ∃ b', b.takeMessage .dxt tCommit = some (m, b') ∧
      b.bound = true ∧ m.obj = c.job ∧ m.tag = (c.list + 65535) % 65536 ∧ b.chanAble .dxt 0 = true) ∧
    (∃ s : State, ∃ dt : Nat, let b := s.hall.elapse dt; let c := b.dxt.step; ∃ r, ∃ rest, InboxHead b .dxt .oppoint r rest ∧
      b.bound = true ∧ bits r.mark.obj.toNat 7 0 = c.job ∧ (c.next : Int) ≤ expandTag ((c.next : Int) - 1) r.mark.tag) ∧
    (∃ s : State, ∃ dt : Nat, let b := s.hall.elapse dt; let c := b.dxt.step; c.st = .ended ∧ c.reported = false ∧ b.usesSess = true ∧
      b.chanAble .dxt 0 = true) ∧
    (∃ s : State, ∃ dt : Nat, let b := s.hall.elapse dt; ∃ r, ∃ rest, InboxHead b .dxt .kill r rest) :=
  ⟨⟨W (wReg .dxt (chanReg .dxt 0 0) 0 0x80000000 ∘ wReg .dxt Reg.DXT_SS_COMMIT_BASE 0 4096 ∘ wReg .dxt Reg.DXT_SS_COMMIT_CFG 0 64 ∘
    wStep (fun c => { c with st := .idle, job := 5, list := 4 }) ∘ wSheet .dxt 0 ⟨3, 1, true, true, 32, 5, 3, [0, 0, 0, 0, 1, 0, 0, 0] ++
    List.replicate 8 0 ++ [7, 0, 4, 0, 1] ++ List.replicate 11 0⟩), 0, ((((W (wReg .dxt (chanReg .dxt 0 0) 0 0x80000000 ∘
    wReg .dxt Reg.DXT_SS_COMMIT_BASE 0 4096 ∘ wReg .dxt Reg.DXT_SS_COMMIT_CFG 0 64 ∘
    wStep (fun c => { c with st := .idle, job := 5, list := 4 }) ∘ wSheet .dxt 0 ⟨3, 1, true, true, 32, 5, 3, [0, 0, 0, 0, 1, 0, 0, 0] ++
    List.replicate 8 0 ++ [7, 0, 4, 0, 1] ++ List.replicate 11 0⟩)).hall.elapse 0).takeMessage .dxt tCommit).map Prod.fst).getD ⟨0, 0, 0,
    []⟩, ((((W (wReg .dxt (chanReg .dxt 0 0) 0 0x80000000 ∘ wReg .dxt Reg.DXT_SS_COMMIT_BASE 0 4096 ∘
    wReg .dxt Reg.DXT_SS_COMMIT_CFG 0 64 ∘ wStep (fun c => { c with st := .idle, job := 5, list := 4 }) ∘ wSheet .dxt 0 ⟨3, 1, true, true,
    32, 5, 3, [0, 0, 0, 0, 1, 0, 0, 0] ++ List.replicate 8 0 ++ [7, 0, 4, 0, 1] ++
    List.replicate 11 0⟩)).hall.elapse 0).takeMessage .dxt tCommit).map Prod.snd).getD State.reset.hall, by decide +kernel⟩,
    ⟨W (wIn .dxt 1 0 ⟨.oppoint, 5, 8, 0, 3⟩ ∘ wStep fun c => { c with st := .running, job := 5, next := 7 }), 0, ⟨1, 0, ⟨.oppoint, 5, 8, 0,
      3⟩, false⟩, [], by decide +kernel⟩,
    ⟨W (wUp .dxt 0 ∘ wReg .dxt (chanReg .dxt 0 0) 0 0x80000000 ∘ wReg .dxt Reg.DXT_SS_CTRL 0 1 ∘ wReg .dxt Reg.DXT_SS_REPORT_CFG 0 4 ∘
      wStep (fun c => { c with st := .ended, job := 5, next := 7 }) ∘ fun b => b.sramWrite 0 [3, 0, 0, 0]), 0, by decide +kernel⟩,
    ⟨W (wIn .dxt 1 0 ⟨.kill, 5, 8, 0, 3⟩), 0, ⟨1, 0, ⟨.kill, 5, 8, 0, 3⟩, false⟩, [], by decide +kernel⟩⟩

theorem witness_SyncObjects :
    (∃ obj, obj < 16384) ∧
    (∃ s : State, ∃ dt : Nat, let b := s.hall.elapse dt; ∃ w, ∃ r, b.dxt.die.physical (fld w 21 16) = some r ∧ 1 ≤ objKind b (fld w 13 0) ∧
      objKind b (fld w 13 0) ≤ 4) ∧
    (∃ s : State, ∃ dt : Nat, let b := s.hall.elapse dt; ∃ lr, ∃ r, ∃ w, b.dxt.die.physical lr = some r ∧
      ((b.region r).waits.find? fun w => w.held && b.objDone w.obj w.slot) = some w) ∧
    (∃ s : State, ∃ dt : Nat, let b := s.hall.elapse dt; ∃ r, ∃ rest, InboxHead b .dxt .complete r rest) :=
  ⟨⟨8, by decide +kernel⟩,
    ⟨W (wReg .dxt Reg.SY_OBJ_CFG 8 0x10001 ∘ (fun b => b.updRegion 3 fun x => { x with cyc := 9 })), 0, 0x430008, 3, by decide +kernel⟩,
    ⟨W (wReg .dxt Reg.SY_OBJ_CFG 8 0x10001 ∘ wSlot 8 0 (fun v => { v with count := 1 }) ∘
      (fun b => b.updRegion 3 fun x => { x with waits := [⟨8, 0, 2, true⟩] })), 0, 3, 3, ⟨8, 0, 2, true⟩, by decide +kernel⟩,
    ⟨W (wIn .dxt 1 0 ⟨.complete, 5, 0, 0, 0x12⟩ ∘ wReg .dxt Reg.SY_OBJ_CFG 8 0x10003 ∘ wReg .dxt Reg.SY_OBJ_GID 8 5 ∘
      wStep fun c => { c with st := .running, next := 1 }), 0, ⟨1, 0, ⟨.complete, 5, 0, 0, 0x12⟩, false⟩, [], by decide +kernel⟩⟩

theorem witness_FoldBindings :
    (∃ s : State, ∃ dt : Nat, let b := s.hall.elapse dt; ∃ f, ∃ sl, b.chanAble .dxt (b.rf .dxt Reg.DXT_FD_B_CFG 18 16 f) = true ∧
      b.readingSlot f = some sl) ∧
    (∃ s : State, ∃ dt : Nat, let b := s.hall.elapse dt; ∃ r, ∃ b', ∃ f, ∃ k, b.takeSheet .dxt tFoldOut = some (r, b') ∧
      b.bindingOfGid r.sheet.obj = some f ∧ b.liveFolio (BitVec.ofNat 16 r.sheet.tag) = some k ∧
      b.chanAble .dxt (b.rf .dxt Reg.DXT_FD_B_CFG 18 16 f) = true) ∧
    (∃ s : State, ∃ dt : Nat, let b := s.hall.elapse dt; ∃ f, ∃ sl, 0 < b.rf .dxt Reg.DXT_FD_B_RLEN 20 0 f ∧
      b.rf .dxt Reg.DXT_FD_B_RLEN 20 0 f ≤ (b.bindSlot f sl).bytes ∧ (b.bindSlot f sl).acked = false) :=
  ⟨⟨W (wUp .dxt 0 ∘ wReg .dxt (chanReg .dxt 0 0) 0 0x80000000 ∘ wReg .dxt Reg.DXT_FD_B_CFG 2 0x80000008 ∘
    wReg .dxt Reg.SY_OBJ_CFG 8 0x10003 ∘ wReg .dxt Reg.SY_OBJ_GID 8 5 ∘ wReg .dxt Reg.DXT_FD_B_LEN 2 300 ∘
    wReg .dxt Reg.DXT_FD_B_RLEN 2 16 ∘ wStep (fun c => { c with st := .running, next := 3 }) ∘
    fun b => b.updBind 2 0 fun x => { x with reading := true }), 0, 2, 0, by decide +kernel⟩,
    ⟨W (wReg .dxt (chanReg .dxt 0 0) 0 0x80000000 ∘ wReg .dxt Reg.DXT_FD_B_CFG 2 0x80000008 ∘ wReg .dxt Reg.SY_OBJ_CFG 8 0x10003 ∘
      wReg .dxt Reg.SY_OBJ_GID 8 5 ∘ wReg .dxt Reg.DXT_FD_B_LEN 2 300 ∘ wReg .dxt Reg.DXT_FD_B_RLEN 2 16 ∘
      wStep (fun c => { c with st := .running, next := 3 }) ∘ wSheet .dxt 0 ⟨2, 0, true, true, 24, 5, 2, leBytes 8 0 ++
      List.replicate 16 7⟩), 0, ⟨0, ⟨2, 0, true, true, 24, 5, 2, leBytes 8 0 ++ List.replicate 16 7⟩, false⟩,
      ((((W (wReg .dxt (chanReg .dxt 0 0) 0 0x80000000 ∘ wReg .dxt Reg.DXT_FD_B_CFG 2 0x80000008 ∘ wReg .dxt Reg.SY_OBJ_CFG 8 0x10003 ∘
      wReg .dxt Reg.SY_OBJ_GID 8 5 ∘ wReg .dxt Reg.DXT_FD_B_LEN 2 300 ∘ wReg .dxt Reg.DXT_FD_B_RLEN 2 16 ∘
      wStep (fun c => { c with st := .running, next := 3 }) ∘ wSheet .dxt 0 ⟨2, 0, true, true, 24, 5, 2, leBytes 8 0 ++
      List.replicate 16 7⟩)).hall.elapse 0).takeSheet .dxt tFoldOut).map Prod.snd).getD State.reset.hall, 2, 2, by decide +kernel⟩,
    ⟨W (wReg .dxt (chanReg .dxt 0 0) 0 0x80000000 ∘ wReg .dxt Reg.DXT_FD_B_CFG 2 0x80000008 ∘ wReg .dxt Reg.SY_OBJ_CFG 8 0x10003 ∘
      wReg .dxt Reg.SY_OBJ_GID 8 5 ∘ wReg .dxt Reg.DXT_FD_B_LEN 2 300 ∘ wReg .dxt Reg.DXT_FD_B_RLEN 2 16 ∘
      wStep (fun c => { c with st := .running, next := 3 }) ∘ fun b => b.updBind 2 1 fun x => { x with bytes := 16, complete := true }), 0,
      2, 1, by decide +kernel⟩⟩

theorem witness_TierArrivals :
    (∃ s : State, ∃ dt : Nat, ∃ r : RxMark, ∃ rest : List RxMark, let b := s.hall.elapse dt; isRoot b.dxs.role = false ∧ ∃ j, ∃ sn,
      InboxHead b .dxs .done r rest ∧ j = bits r.mark.obj.toNat 7 0 ∧
      placeArrival (nget pairReset b.hub.dones j) (expandTag (b.job j).sn r.mark.tag) = .at_ sn) ∧
    (∃ s : State, ∃ dt : Nat, ∃ r : RxMark, ∃ rest : List RxMark, let b := s.hall.elapse dt; isRoot b.dxs.role = false ∧ ∃ g, ∃ sn,
      InboxHead b .dxs .arrive r rest ∧ g = r.mark.obj.toNat ∧ b.gaValid g = true ∧ b.wrongStream g r.port true = false ∧ b.gaKind g = 0 ∧
      placeArrival (nget pairReset b.hub.ga g) (expandTag (b.job (b.gaJob g)).sn r.mark.tag) = .at_ sn ∧ let o := (b.inst g sn).openAt sn;
      o.outcome = 0) ∧
    (∃ s : State, ∃ dt : Nat, ∃ r : RxMark, ∃ rest : List RxMark, let b := s.hall.elapse dt; isRoot b.dxs.role = false ∧ ∃ g, ∃ sn, ∃ p,
      InboxHead b .dxs .count r rest ∧ g = r.mark.obj.toNat ∧ b.gaValid g = true ∧ b.wrongStream g r.port false = false ∧ (b.gaKind g = 1 ∨
      b.gaKind g = 2) ∧ placeArrival (nget pairReset b.hub.ga g) (expandTag (b.job (b.gaJob g)).sn r.mark.tag) = .at_ sn ∧
      b.upPortOf = some p ∧ let o := (b.inst g sn).openAt sn; o.outcome = 0) ∧
    (∃ s : State, ∃ dt : Nat, ∃ r : RxMark, ∃ rest : List RxMark, let b := s.hall.elapse dt; isRoot b.dxs.role = false ∧
      InboxHead b .dxs .complete r rest) :=
  ⟨⟨W (wIn .dxs 0 0 ⟨.done, 18, 4, 99, 2⟩ ∘ wJob 18 (fun x => { x with sn := 4, gone := true }) ∘ wUp .dxs 3 ∘ wHall .tier), 0, ⟨0, 0,
    ⟨.done, 18, 4, 99, 2⟩, false⟩, [], by decide +kernel, 18, 4, by decide +kernel⟩,
    ⟨W (wIn .dxs 0 0 ⟨.arrive, 7, 4, 99, 2⟩ ∘ wJob 18 (fun x => { x with sn := 4, gone := true }) ∘ wGa 7 0x80001200 2 2 ∘ wUp .dxs 3 ∘
      wHall .tier), 0, ⟨0, 0, ⟨.arrive, 7, 4, 99, 2⟩, false⟩, [], by decide +kernel, 7, 4, by decide +kernel⟩,
    ⟨W (wIn .dxs 0 0 ⟨.count, 7, 4, 99, 1⟩ ∘ wJob 18 (fun x => { x with sn := 4, gone := true }) ∘ wGa 7 0x80001201 2 2 ∘ wUp .dxs 3 ∘
      wHall .tier), 0, ⟨0, 0, ⟨.count, 7, 4, 99, 1⟩, false⟩, [], by decide +kernel, 7, 4, 3, by decide +kernel⟩,
    ⟨W (wIn .dxs 0 0 ⟨.complete, 7, 4, 99, 1⟩ ∘ wJob 18 (fun x => { x with sn := 4, gone := true }) ∘ wGa 7 0x80001201 2 2 ∘ wUps [(.dxs,
      0), (.dxs, 1)] ∘ wInst 7 4 (fun i => { i with live := true, sn := 4, recv := 5, held := 3 }) ∘ wUp .dxs 3 ∘ wHall .tier), 0, ⟨0, 0,
      ⟨.complete, 7, 4, 99, 1⟩, false⟩, [], by decide +kernel⟩⟩

theorem witness_StrayArrivals :
    (∃ s : State, ∃ dt : Nat, ∃ r : RxMark, ∃ rest : List RxMark, let b := s.hall.elapse dt; let g := r.mark.obj.toNat;
      InboxHead b .dxs .arrive r rest ∧ b.gaValid g = false) ∧
    (∃ s : State, ∃ dt : Nat, ∃ r : RxMark, ∃ rest : List RxMark, let b := s.hall.elapse dt; let g := r.mark.obj.toNat;
      InboxHead b .dxs .arrive r rest ∧ b.gaValid g = true ∧ b.wrongStream g r.port true = true) ∧
    (∃ s : State, ∃ dt : Nat, ∃ r : RxMark, ∃ rest : List RxMark, let b := s.hall.elapse dt; let g := r.mark.obj.toNat;
      let put := placeArrival (nget pairReset b.hub.ga g) (expandTag (b.job (b.gaJob g)).sn r.mark.tag); InboxHead b .dxs .arrive r rest ∧
      b.gaValid g = true ∧ b.wrongStream g r.port true = false ∧ (b.job (b.gaJob g)).stopped = false ∧ put = .stale) ∧
    (∃ s : State, ∃ dt : Nat, ∃ r : RxMark, ∃ rest : List RxMark, let b := s.hall.elapse dt; let g := r.mark.obj.toNat;
      let put := placeArrival (nget pairReset b.hub.ga g) (expandTag (b.job (b.gaJob g)).sn r.mark.tag); InboxHead b .dxs .arrive r rest ∧
      b.gaValid g = true ∧ b.wrongStream g r.port true = false ∧ (b.job (b.gaJob g)).stopped = false ∧ put = .ahead) :=
  ⟨⟨W (wIn .dxs 0 0 ⟨.arrive, 7, 4, 99, 2⟩ ∘ wUp .dxs 3 ∘ wHall .tier), 0, ⟨0, 0, ⟨.arrive, 7, 4, 99, 2⟩, false⟩, [], by decide +kernel⟩,
    ⟨W (wIn .dxs 0 0 ⟨.arrive, 7, 4, 99, 2⟩ ∘ wGa 7 0x80001201 2 2 ∘ wUp .dxs 3 ∘ wHall .tier), 0, ⟨0, 0, ⟨.arrive, 7, 4, 99, 2⟩, false⟩,
      [], by decide +kernel⟩,
    ⟨W (wIn .dxs 0 0 ⟨.arrive, 7, 4, 99, 2⟩ ∘ wJob 18 (fun x => { x with sn := 4, gone := true }) ∘ wGa 7 0x80001200 2 2 ∘
      wInst 7 6 (fun _ => freshInst 6) ∘ wUp .dxs 3 ∘ wHall .tier), 0, ⟨0, 0, ⟨.arrive, 7, 4, 99, 2⟩, false⟩, [], by decide +kernel⟩,
    ⟨W (wIn .dxs 0 0 ⟨.arrive, 7, 9, 99, 2⟩ ∘ wJob 18 (fun x => { x with sn := 4, gone := true }) ∘ wGa 7 0x80001200 2 2 ∘
      wInst 7 6 (fun _ => freshInst 6) ∘ wUp .dxs 3 ∘ wHall .tier), 0, ⟨0, 0, ⟨.arrive, 7, 9, 99, 2⟩, false⟩, [], by decide +kernel⟩⟩

theorem witness_RootDecides :
    (∃ s : State, ∃ dt : Nat, let b := s.hall.elapse dt; isRoot b.dxs.role = true ∧ ∃ r, ∃ rest, ∃ j, ∃ sn, InboxHead b .dxs .done r rest ∧
      j = bits r.mark.obj.toNat 7 0 ∧ (b.job j).stopped = false ∧
      placeArrival (nget pairReset b.hub.dones j) (expandTag (b.job j).sn r.mark.tag) = .at_ sn) ∧
    (∃ s : State, ∃ dt : Nat, let b := s.hall.elapse dt; isRoot b.dxs.role = true ∧ ∃ r, ∃ rest, ∃ g, ∃ sn,
      InboxHead b .dxs .arrive r rest ∧ g = r.mark.obj.toNat ∧ b.gaValid g = true ∧ b.wrongStream g r.port true = false ∧
      (b.job (b.gaJob g)).stopped = false ∧ b.gaKind g = 0 ∧
      placeArrival (nget pairReset b.hub.ga g) (expandTag (b.job (b.gaJob g)).sn r.mark.tag) = .at_ sn) ∧
    (∃ s : State, ∃ dt : Nat, let b := s.hall.elapse dt; isRoot b.dxs.role = true ∧ ∃ g, ∃ slot, b.actingRoot = true ∧ b.gaValid g = true ∧
      b.gaKind g = 0 ∧ (b.job (b.gaJob g)).stopped = false ∧ let i := b.inst g slot; i.live = true ∧ i.outcome = 0 ∧ i.due ≠ 0 ∧
      i.sn % 2 = slot % 2 ∧ b.gathReads g = false) ∧
    (∃ s : State, ∃ dt : Nat, let b := s.hall.elapse dt; isRoot b.dxs.role = true ∧ ∃ g, ∃ slot, ∃ d, b.actingRoot = true ∧
      b.gaValid g = true ∧ b.gaKind g = 3 ∧ (b.job (b.gaJob g)).stopped = false ∧ let i := b.inst g slot; i.live = true ∧ i.outcome = 0 ∧
      i.due = 0 ∧ i.sn % 2 = slot % 2 ∧ b.gathReads g = false ∧ b.deadlineAt g i.sn = some d ∧
      d + (b.reg .dxs Reg.GA_SETTLE g).toNat * 65536 < b.ht .dxs ∧ ((∀ r ∈ b.dxs.node.inbox, r.mark.kind = .arrive ∨ r.mark.kind = .count →
      r.mark.obj.toNat = g → d + (b.reg .dxs Reg.GA_SETTLE g).toNat * 65536 < r.time))) :=
  ⟨⟨W (wIn .dxs 0 0 ⟨.done, 18, 4, 99, 2⟩ ∘ wJob 18 (fun x => { x with sn := 4, gone := true }) ∘ wAct), 0, by decide +kernel, ⟨0, 0,
    ⟨.done, 18, 4, 99, 2⟩, false⟩, [], 18, 4, by decide +kernel⟩,
    ⟨W (wIn .dxs 0 0 ⟨.arrive, 7, 4, 99, 2⟩ ∘ wJob 18 (fun x => { x with sn := 4, gone := true }) ∘ wGa 7 0x80001200 2 2 ∘ wAct), 0,
      by decide +kernel, ⟨0, 0, ⟨.arrive, 7, 4, 99, 2⟩, false⟩, [], 7, 4, by decide +kernel⟩,
    ⟨W (wJob 18 (fun x => { x with sn := 4, gone := true }) ∘ wGa 7 0x80001200 2 2 ∘ wUps [(.dxs, 0), (.dxs, 1)] ∘
      wInst 7 4 (fun i => { freshInst 4 with recv := 2, due := 1, dstamp := 77 }) ∘ wAct), 0, by decide +kernel, 7, 4, by decide +kernel⟩,
    ⟨W (wClk .dxs (fun c => { c with ht := 2 ^ 64 }) ∘ wJob 18 (fun x => { x with sn := 4, gone := true }) ∘ wGa 7 0x80001203 2 2 ∘
      wSt .dxs 2 .lost ∘ wUps [(.dxs, 0), (.dxs, 1)] ∘ wInst 7 4 (fun i => freshInst 4) ∘ wAct), 0, by decide +kernel, 7, 4, 0,
      by decide +kernel⟩⟩

theorem witness_GoPasses :
    (∃ s : State, ∃ dt : Nat, ∃ r : RxMark, ∃ rest : List RxMark, let b := s.hall.elapse dt; isTriad b.dxs.role = false ∧
      InboxHead b .dxs .go r rest) :=
  ⟨W (wIn .dxs 0 0 ⟨.go, 18, 5, 99, 0⟩ ∘ wJob 18 (fun x => { x with sn := 4, gone := true }) ∘ wGa 7 0x80001200 2 2 ∘ wUps [(.dxs, 0),
    (.dxs, 1)] ∘ wInst 7 3 (fun i => freshInst 3) ∘ wUp .dxs 3 ∘ wHall .tier), 0, ⟨0, 0, ⟨.go, 18, 5, 99, 0⟩, false⟩, [],
    by decide +kernel⟩

theorem witness_FoldMessages :
    (∃ s : State, ∃ dt : Nat, let b := s.hall.elapse dt; ∃ p, ∃ ss, ∃ rest, ∃ s0, ∃ d, ∃ o, ∃ who, ∃ span, ∃ form, ∃ data,
      findFold b.dxs.node.rxSheets = some (p, ss, rest) ∧ ss.head? = some s0 ∧ b.gdef s0.obj = some d ∧ b.foldOp s0.obj = some o ∧
      foldMessage ss = some (who, span, form, data)) ∧
    (∃ s : State, ∃ dt : Nat, let b := s.hall.elapse dt; ∃ g, ∃ sl, ∃ p, ∃ t, (b.inst g sl).live = true ∧
      ((b.inst g sl).leafDue.find? fun e => e.1 == p && !e.2.2) = some (p, t, false) ∧ t + (b.reg .dxs Reg.DXS_FD_WAIT).toNat ≤ b.now ∧
      b.leafHere g (b.inst g sl).sn p = false) ∧
    (∃ s : State, ∃ dt : Nat, let b := s.hall.elapse dt; ∃ g, ∃ sl, ∃ d, ∃ o, ∃ v, isRoot b.dxs.role = true ∧ b.gdef g = some d ∧
      b.foldOp g = some o ∧ let sn := (b.inst g sl).sn;
      (b.hub.fd.formed.any fun f => f.gid == g && f.sn == sn && f.complete && !f.ready) = true ∧ b.nodeValue d o g sn 0 d.n = some v) ∧
    (∃ s : State, ∃ dt : Nat, let b := s.hall.elapse dt; b.dxs.hub.fd.waiters = []) ∧
    (∃ s : State, ∃ dt : Nat, let b := s.hall.elapse dt; ∃ mb, b.dxs.hub.fd.waiters = [mb]) :=
  ⟨⟨W (wFold ∘ wJob 18 (fun x => { x with sn := 4, gone := true }) ∘ wSheet .dxs 0 ⟨1, 0, true, true, 16, 7, 4, leBytes 8 0 ++
    leBytes 8 0⟩ ∘ wAct), 0, 0, [⟨1, 0, true, true, 16, 7, 4, leBytes 8 0 ++ leBytes 8 0⟩], [], ⟨1, 0, true, true, 16, 7, 4, leBytes 8 0 ++
    leBytes 8 0⟩, (((W (wFold ∘ wJob 18 (fun x => { x with sn := 4, gone := true }) ∘ wSheet .dxs 0 ⟨1, 0, true, true, 16, 7, 4,
    leBytes 8 0 ++ leBytes 8 0⟩ ∘ wAct)).hall.elapse 0).gdef 7).getD ⟨[], [], [], 0, [], []⟩, (((W (wFold ∘
    wJob 18 (fun x => { x with sn := 4, gone := true }) ∘ wSheet .dxs 0 ⟨1, 0, true, true, 16, 7, 4, leBytes 8 0 ++ leBytes 8 0⟩ ∘
    wAct)).hall.elapse 0).foldOp 7).getD ⟨0, 0, 0, false, false, 0, 0, 0, 0⟩, 0, 0, 0, leBytes 8 0, by decide +kernel⟩,
    ⟨W (wFold ∘ wJob 18 (fun x => { x with sn := 4, gone := true }) ∘ wReg .dxs Reg.DXS_FD_WAIT 0 0 ∘
      wInst 7 4 (fun i => { freshInst 4 with leafDue := [(0, 0, false)] }) ∘ wAct), 0, 7, 4, 0, 0, by decide +kernel⟩,
    ⟨W (wFold ∘ wJob 18 (fun x => { x with sn := 4, gone := true }) ∘ wUps [(.dxs, 0)] ∘ wInst 7 4 (fun i => freshInst 4) ∘
      wHub (fun h => { h with fd := { h.fd with msgs := [⟨7, 4, 0, 1, leBytes 8 0, []⟩, ⟨7, 4, 1, 2, leBytes 8 0, []⟩], formed := [⟨7, 4, 0, 2, 0, [], 0, false⟩] } }) ∘
      wAct), 0, 7, 4, (((W (wFold ∘ wJob 18 (fun x => { x with sn := 4, gone := true }) ∘ wUps [(.dxs, 0)] ∘
      wInst 7 4 (fun i => freshInst 4) ∘
      wHub (fun h => { h with fd := { h.fd with msgs := [⟨7, 4, 0, 1, leBytes 8 0, []⟩, ⟨7, 4, 1, 2, leBytes 8 0, []⟩], formed := [⟨7, 4, 0, 2, 0, [], 0, false⟩] } }) ∘
      wAct)).hall.elapse 0).gdef 7).getD ⟨[], [], [], 0, [], []⟩, (((W (wFold ∘ wJob 18 (fun x => { x with sn := 4, gone := true }) ∘
      wUps [(.dxs, 0)] ∘ wInst 7 4 (fun i => freshInst 4) ∘
      wHub (fun h => { h with fd := { h.fd with msgs := [⟨7, 4, 0, 1, leBytes 8 0, []⟩, ⟨7, 4, 1, 2, leBytes 8 0, []⟩], formed := [⟨7, 4, 0, 2, 0, [], 0, false⟩] } }) ∘
      wAct)).hall.elapse 0).foldOp 7).getD ⟨0, 0, 0, false, false, 0, 0, 0, 0⟩, ((((W (wFold ∘
      wJob 18 (fun x => { x with sn := 4, gone := true }) ∘ wUps [(.dxs, 0)] ∘ wInst 7 4 (fun i => freshInst 4) ∘
      wHub (fun h => { h with fd := { h.fd with msgs := [⟨7, 4, 0, 1, leBytes 8 0, []⟩, ⟨7, 4, 1, 2, leBytes 8 0, []⟩], formed := [⟨7, 4, 0, 2, 0, [], 0, false⟩] } }) ∘
      wAct)).hall.elapse 0).gdef 7).bind fun d => (((W (wFold ∘ wJob 18 (fun x => { x with sn := 4, gone := true }) ∘ wUps [(.dxs, 0)] ∘
      wInst 7 4 (fun i => freshInst 4) ∘
      wHub (fun h => { h with fd := { h.fd with msgs := [⟨7, 4, 0, 1, leBytes 8 0, []⟩, ⟨7, 4, 1, 2, leBytes 8 0, []⟩], formed := [⟨7, 4, 0, 2, 0, [], 0, false⟩] } }) ∘
      wAct)).hall.elapse 0).foldOp 7).bind fun o => ((W (wFold ∘ wJob 18 (fun x => { x with sn := 4, gone := true }) ∘ wUps [(.dxs, 0)] ∘
      wInst 7 4 (fun i => freshInst 4) ∘
      wHub (fun h => { h with fd := { h.fd with msgs := [⟨7, 4, 0, 1, leBytes 8 0, []⟩, ⟨7, 4, 1, 2, leBytes 8 0, []⟩], formed := [⟨7, 4, 0, 2, 0, [], 0, false⟩] } }) ∘
      wAct)).hall.elapse 0).nodeValue d o 7 4 0 2).getD [], by decide +kernel⟩,
    ⟨State.reset, 0, by decide +kernel⟩,
    ⟨W (wHub (fun h => { h with fd := { h.fd with recalled := 2, waiters := [3] } })), 0, 3, by decide +kernel⟩⟩

theorem witness_FoldEngines :
    (∃ s : State, ∃ dt : Nat, ∃ e : Nat, let b := s.hall.elapse dt; ∃ t, (b.eng e).run = some t) ∧
    (∃ s : State, ∃ dt : Nat, ∃ e : Nat, let b := s.hall.elapse dt; wbit (b.reg .dxs Reg.DXS_FD_CTRL) 0 = true ∧ e < 32 ∧
      b.engOn e = true ∧ (b.eng e).queue = [] ∧ (b.eng e).run = none ∧ (∃ i, i < 32 ∧ (b.eng i).queue ≠ [])) ∧
    (∃ s : State, ∃ dt : Nat, ∃ e : Nat, let b := s.hall.elapse dt; e < 32 ∧ wbit (b.reg .dxs Reg.DXS_FD_CTRL) 1 = true ∧
      (b.eng e).katFail = false ∧ ((∀ i, i < 32 → (b.eng i).queue = [] ∧ (b.eng i).run = none))) ∧
    (∃ s : State, ∃ dt : Nat, ∃ e : Nat, let b := s.hall.elapse dt; e < 32 ∧ wbit (b.reg .dxs Reg.DXS_FD_CTRL) 1 = true ∧
      (b.eng e).katFail = false ∧ (∃ i, i < 32 ∧ ((b.eng i).queue ≠ [] ∨ (b.eng i).run ≠ none))) :=
  ⟨⟨W (wFold ∘ wReg .dxs Reg.DXS_FD_ENG_EN 0 0xFFFFFFFF ∘ wReg .dxs Reg.DXS_FD_CTRL 0 3 ∘
    wHub (fun h => { h with fd := { h.fd with formed := [⟨7, 4, 0, 2, 2, [], 0, false⟩], engines := [(2, { Engine.reset with run := some ⟨7, 4, 0, 2, 0⟩, queue := [⟨7, 4, 0, 2, 1⟩] })] } }) ∘
    wAct), 0, 2, ⟨7, 4, 0, 2, 0⟩, by decide +kernel⟩,
    ⟨W (wReg .dxs Reg.DXS_FD_ENG_EN 0 0xFFFFFFFF ∘ wReg .dxs Reg.DXS_FD_CTRL 0 3 ∘
      wHub (fun h => { h with fd := { h.fd with engines := [(2, { Engine.reset with run := some ⟨7, 4, 0, 2, 0⟩, queue := [⟨7, 4, 0, 2, 1⟩] })] } }) ∘
      wAct), 0, 5, by decide +kernel⟩,
    ⟨W (wReg .dxs Reg.DXS_FD_ENG_EN 0 0xFFFFFFFF ∘ wReg .dxs Reg.DXS_FD_CTRL 0 3), 0, 31, by decide +kernel⟩,
    ⟨W (wReg .dxs Reg.DXS_FD_ENG_EN 0 0xFFFFFFFF ∘ wReg .dxs Reg.DXS_FD_CTRL 0 3 ∘
      wHub (fun h => { h with fd := { h.fd with engines := [(2, { Engine.reset with run := some ⟨7, 4, 0, 2, 0⟩, queue := [⟨7, 4, 0, 2, 1⟩] })] } })),
      0, 5, by decide +kernel⟩⟩

theorem witness_FolioWords :
    (∃ s : State, ∃ dt : Nat, ∃ j : Nat, ∃ w : Nat, let b := s.hall.elapse dt; Issues b j Op.nop w) ∧
    (∃ s : State, ∃ dt : Nat, ∃ j : Nat, ∃ w : Nat, let b := s.hall.elapse dt; Issues b j Op.branch w) ∧
    (∃ s : State, ∃ dt : Nat, ∃ j : Nat, ∃ w : Nat, let b := s.hall.elapse dt; Issues b j Op.movi w) ∧
    (∃ s : State, ∃ dt : Nat, ∃ j : Nat, ∃ w : Nat, let b := s.hall.elapse dt; let x := b.job j; ∃ v, ∃ f, Issues b j Op.calc w ∧
      calcOp (subOf w) (x.word (waOf w)) (x.word (wbOf w)) = (v, f)) ∧
    (∃ s : State, ∃ dt : Nat, ∃ j : Nat, ∃ w : Nat, let b := s.hall.elapse dt; Issues b j Op.get w) ∧
    (∃ s : State, ∃ dt : Nat, ∃ j : Nat, ∃ w : Nat, let b := s.hall.elapse dt; Issues b j Op.note w) ∧
    (∃ s : State, ∃ dt : Nat, ∃ j : Nat, ∃ w : Nat, let b := s.hall.elapse dt; Issues b j Op.assert w) ∧
    (∃ s : State, ∃ dt : Nat, ∃ j : Nat, ∃ w : Nat, let b := s.hall.elapse dt; Issues b j Op.waitt w) ∧
    (∃ s : State, ∃ dt : Nat, ∃ j : Nat, let b := s.hall.elapse dt; let x := b.job j; ∃ t, x.wait = .time t ∧ t ≤ count64 (b.ht .dxs)) ∧
    (∃ s : State, ∃ dt : Nat, ∃ j : Nat, ∃ w : Nat, let b := s.hall.elapse dt; Issues b j Op.waitg w ∧
      b.hasGath j (bits (immOf w) 15 0) = true) ∧
    (∃ s : State, ∃ dt : Nat, ∃ j : Nat, let b := s.hall.elapse dt; let x := b.job j; ∃ g, ∃ sn, x.wait = .gath g sn ∧
      b.gathDecided g sn = true) :=
  ⟨⟨W (wProg (word Op.nop 0 0 0 0 0 0) fun x => x), 0, 18, (word Op.nop 0 0 0 0 0 0), by decide +kernel⟩,
    ⟨W (wProg (word Op.branch 0 0 0 0 0 7) fun x => x), 0, 18, (word Op.branch 0 0 0 0 0 7), by decide +kernel⟩,
    ⟨W (wProg (word Op.movi 3 0 0 1 0 99) fun x => x), 0, 18, (word Op.movi 3 0 0 1 0 99), by decide +kernel⟩,
    ⟨W (wProg (word Op.calc 3 1 2 9 0 0) fun x => x), 0, 18, (word Op.calc 3 1 2 9 0 0), (calcOp (subOf (word Op.calc 3 1 2 9 0 0)) 2 3).1,
      (calcOp (subOf (word Op.calc 3 1 2 9 0 0)) 2 3).2, by decide +kernel⟩,
    ⟨W (wProg (word Op.get 3 0 0 1 0 0) fun x => x), 0, 18, (word Op.get 3 0 0 1 0 0), by decide +kernel⟩,
    ⟨W (wProg (word Op.note 0 4 0 0 0 77) fun x => x), 0, 18, (word Op.note 0 4 0 0 0 77), by decide +kernel⟩,
    ⟨W (wProg (word Op.assert 0 0 0 1 0 0) fun x => x), 0, 18, (word Op.assert 0 0 0 1 0 0), by decide +kernel⟩,
    ⟨W (wProg (word Op.waitt 0 5 0 0 0 0) fun x => x), 0, 18, (word Op.waitt 0 5 0 0 0 0), by decide +kernel⟩,
    ⟨W (wProg (word Op.nop 0 0 0 0 0 0) fun x => { x with wait := .time 6 }), 0, 18, 6, by decide +kernel⟩,
    ⟨W (wFold ∘ wProg (word Op.waitg 0 0 0 0 0 7) fun x => x), 0, 18, (word Op.waitg 0 0 0 0 0 7), by decide +kernel⟩,
    ⟨W (wInst 7 4 (fun i => { freshInst 4 with outcome := 1 }) ∘ wFold ∘
      wProg (word Op.nop 0 0 0 0 0 0) fun x => { x with wait := .gath 7 4 }), 0, 18, 7, 4, by decide +kernel⟩⟩

theorem witness_ProgramFaults :
    (∃ s : State, ∃ dt : Nat, ∃ j : Nat, let b := s.hall.elapse dt; let x := b.job j; b.canIssue j = true ∧ x.len ≤ x.pc) ∧
    (∃ s : State, ∃ dt : Nat, ∃ j : Nat, let b := s.hall.elapse dt; let x := b.job j; b.canIssue j = true ∧ x.pc < x.len ∧
      opOf (b.progWord j) = Op.calc ∧ x.prologue = false ∧ x.ipf ≤ x.seg) ∧
    (∃ s : State, ∃ dt : Nat, ∃ j : Nat, ∃ w : Nat, let b := s.hall.elapse dt; b.canIssue j = true ∧ Issues b j Op.waitg w ∧
      b.hasGath j (bits (immOf w) 15 0) = false) ∧
    (∃ s : State, ∃ dt : Nat, ∃ j : Nat, ∃ w : Nat, let b := s.hall.elapse dt; let x := b.job j; b.canIssue j = true ∧
      Issues b j Op.cutoff w ∧ x.orderOk Op.cutoff = false) ∧
    (∃ s : State, ∃ dt : Nat, ∃ j : Nat, ∃ w : Nat, let b := s.hall.elapse dt; let x := b.job j; b.canIssue j = true ∧
      Issues b j Op.form w ∧ x.sess = false) :=
  ⟨⟨W (wProg (word Op.nop 0 0 0 0 0 0) fun x => { x with pc := 9 }), 0, 18, by decide +kernel⟩,
    ⟨W (wProg (word Op.calc 0 0 0 0 0 0) fun x => { x with seg := 100 }), 0, 18, by decide +kernel⟩,
    ⟨W (wProg (word Op.waitg 0 0 0 0 0 9) fun x => x), 0, 18, (word Op.waitg 0 0 0 0 0 9), by decide +kernel⟩,
    ⟨W (wProg (word Op.cutoff 0 0 0 0 0 0) fun x => { x with prologue := true }), 0, 18, (word Op.cutoff 0 0 0 0 0 0), by decide +kernel⟩,
    ⟨W (wProg (word Op.form 0 0 0 0 0 0) fun x => { x with ran := [Op.cutoff] }), 0, 18, (word Op.form 0 0 0 0 0 0), by decide +kernel⟩⟩

theorem witness_FolioVaries :
    (∃ s : State, ∃ dt : Nat, ∃ j : Nat, ∃ w : Nat, let b := s.hall.elapse dt; let x := b.job j; Issues b j Op.stamp w ∧ x.reads = false) ∧
    (∃ s : State, ∃ dt : Nat, ∃ j : Nat, ∃ w : Nat, let b := s.hall.elapse dt; let x := b.job j; Issues b j Op.live w ∧ x.reads = false) ∧
    (∃ s : State, ∃ dt : Nat, ∃ j : Nat, ∃ w : Nat, let b := s.hall.elapse dt; let x := b.job j; Issues b j Op.testg w ∧ x.reads = false ∧
      b.hasGath j (bits (immOf w) 15 0) = true) ∧
    (∃ s : State, ∃ dt : Nat, ∃ j : Nat, ∃ w : Nat, let b := s.hall.elapse dt; let x := b.job j; ∃ e, Issues b j Op.stamp w ∧
      x.reads = true ∧ b.nextEntry j = some e ∧ entryGood e = true ∧ isGathEntry e = false ∧ entryMatches e Op.stamp x.pc x.sn = true) :=
  ⟨⟨W (wProg (word Op.stamp 3 0 0 1 0 0) fun x => { x with record := true }), 0, 18, (word Op.stamp 3 0 0 1 0 0), by decide +kernel⟩,
    ⟨W (wProg (word Op.live 3 0 0 1 0 0) fun x => x), 0, 18, (word Op.live 3 0 0 1 0 0), by decide +kernel⟩,
    ⟨W (wFold ∘ wProg (word Op.testg 3 0 0 0 0 7) fun x => x), 0, 18, (word Op.testg 3 0 0 0 0 7), by decide +kernel⟩,
    ⟨W (wReg .dxs (chanReg .dxs 4 0) 0 0x80000000 ∘ wReg .dxs Reg.FS_C_LOG_SIZE 18 4096 ∘ wReg .dxs Reg.FS_C_LOG_HEAD 18 32 ∘
      wHub (fun h => { h with host := memWriteN h.host 0 (logEntry Op.stamp 18 0 4 55 true []) }) ∘
      wProg (word Op.stamp 3 0 0 1 0 0) fun x => { x with replay := true }), 0, 18, (word Op.stamp 3 0 0 1 0 0),
      logEntry Op.stamp 18 0 4 55 true [], by decide +kernel⟩⟩

theorem witness_FolioChanges :
    (∃ s : State, ∃ dt : Nat, ∃ j : Nat, ∃ w : Nat, let b := s.hall.elapse dt; Issues b j Op.oppoint w) ∧
    (∃ s : State, ∃ dt : Nat, ∃ j : Nat, ∃ w : Nat, let b := s.hall.elapse dt; let x := b.job j; Issues b j Op.applyat w ∧
      (x.unsent x.sn).length < 16) ∧
    (∃ s : State, ∃ dt : Nat, ∃ j : Nat, ∃ w : Nat, let b := s.hall.elapse dt; let x := b.job j; Issues b j Op.seed w ∧
      (x.unsent x.sn).length < 16) ∧
    (∃ s : State, ∃ dt : Nat, ∃ j : Nat, ∃ w : Nat, let b := s.hall.elapse dt; let x := b.job j; Issues b j Op.ckpt w ∧
      (x.unsent x.sn).length < 16) ∧
    (∃ s : State, ∃ dt : Nat, ∃ j : Nat, ∃ w : Nat, let b := s.hall.elapse dt; let x := b.job j; Issues b j Op.seed w ∧ 2 ≤ aheadOf w ∧
      16 ≤ (x.unsent x.sn).length) :=
  ⟨⟨W (wProg (word Op.oppoint 0 0 0 0 2 3) fun x => x), 0, 18, (word Op.oppoint 0 0 0 0 2 3), by decide +kernel⟩,
    ⟨W (wProg (word Op.applyat 0 0 0 0 1 3) fun x => x), 0, 18, (word Op.applyat 0 0 0 0 1 3), by decide +kernel⟩,
    ⟨W (wProg (word Op.seed 0 0 0 3 2 3) fun x => x), 0, 18, (word Op.seed 0 0 0 3 2 3), by decide +kernel⟩,
    ⟨W (wProg (word Op.ckpt 3 0 0 3 2 3) fun x => x), 0, 18, (word Op.ckpt 3 0 0 3 2 3), by decide +kernel⟩,
    ⟨W (wProg (word Op.seed 0 0 0 3 2 3) fun x => { x with recs := List.replicate 16 ⟨2, 0, 6, 0, 0⟩ }), 0, 18, (word Op.seed 0 0 0 3 2 3),
      by decide +kernel⟩⟩

theorem witness_SegmentSequence :
    (∃ s : State, ∃ dt : Nat, ∃ j : Nat, ∃ w : Nat, let b := s.hall.elapse dt; Issues b j Op.cutoff w ∧ InSequence b j Op.cutoff) ∧
    (∃ s : State, ∃ dt : Nat, ∃ j : Nat, let b := s.hall.elapse dt; let x := b.job j; b.runsJob j = true ∧ x.active = true ∧
      x.stopped = false ∧ x.wait = .cutoff ∧ b.doneSet j = true ∧ b.reportHere j = true ∧ x.ftStaged = []) ∧
    (∃ s : State, ∃ dt : Nat, ∃ j : Nat, ∃ w : Nat, let b := s.hall.elapse dt; let x := b.job j; ∃ i, Issues b j Op.retire w ∧
      InSequence b j Op.retire ∧ x.reads = false ∧ x.pend = [] ∧ b.jobSlots j = [i] ∧ (b.sess i).job = j ∧ (b.sess i).st = Sess.running ∧
      (b.takeReport j).1 = [] ∧ wdOf w < x.words.length) ∧
    (∃ s : State, ∃ dt : Nat, ∃ j : Nat, ∃ w : Nat, let b := s.hall.elapse dt; let x := b.job j; ∃ i, ∃ t, ∃ c, Issues b j Op.charge w ∧
      InSequence b j Op.charge ∧ b.jobSlots j = [i] ∧ b.jobTenants j = [t] ∧ let u := b.sess i; let T := b.tenant t; u.job = j ∧
      u.st = Sess.running ∧ u.rsv ≠ 0 ∧ u.tenant = t ∧ T.valid = true ∧ T.job = j ∧
      c = ((x.kept.find? fun e => e.1 == i).map Prod.snd).getD 0 ∧ wdOf w < x.words.length ∧ c < 2 ^ 64) ∧
    (∃ s : State, ∃ dt : Nat, ∃ j : Nat, ∃ w : Nat, let b := s.hall.elapse dt; let x := b.job j; ∃ i, ∃ t, Issues b j Op.admitOp w ∧
      InSequence b j Op.admitOp ∧ x.reads = false ∧ x.queue = [(i, t)] ∧ t ≤ b.admitUpTo j ∧ b.mayAdmit i = true ∧
      wdOf w < x.words.length) ∧
    (∃ s : State, ∃ dt : Nat, ∃ j : Nat, ∃ w : Nat, let b := s.hall.elapse dt; let x := b.job j; Issues b j Op.form w ∧
      InSequence b j Op.form ∧ x.replays = false) :=
  ⟨⟨W (wProg (word Op.cutoff 0 0 0 0 0 0) fun x => x), 0, 18, (word Op.cutoff 0 0 0 0 0 0), by decide +kernel⟩,
    ⟨W ((fun b => b.updDone 18 4 fun _ => { freshInst 4 with fwd := true, stamp := 77 }) ∘
      wProg (word Op.nop 0 0 0 0 0 0) fun x => { x with wait := .cutoff }), 0, 18, by decide +kernel⟩,
    ⟨W (wSess 9 (fun u => { u with st := Sess.running, job := 18, tenant := 2, rsv := 3, maxtok := 4, turnMax := 0 }) ∘
      wTen 2 (fun t => { t with valid := true, job := 18, bal := 20, cap := 25, refill := 3, rsv := 3 }) ∘
      wProg (word Op.retire 3 0 0 0 0 0) fun x => { x with sess := true, ran := [Op.cutoff] }), 0, 18, (word Op.retire 3 0 0 0 0 0), 9,
      by decide +kernel⟩,
    ⟨W (wSess 9 (fun u => { u with st := Sess.running, job := 18, tenant := 2, rsv := 3, maxtok := 4, turnMax := 0 }) ∘
      wTen 2 (fun t => { t with valid := true, job := 18, bal := 20, cap := 25, refill := 3, rsv := 3 }) ∘
      wProg (word Op.charge 3 0 0 0 0 0) fun x => { x with sess := true, ran := [Op.cutoff, Op.retire], kept := [(9, 2)] }), 0, 18,
      (word Op.charge 3 0 0 0 0 0), 9, 2, 2, by decide +kernel⟩,
    ⟨W (wSess 9 (fun u => { u with st := Sess.queued }) ∘
      wSess 9 (fun u => { u with st := Sess.running, job := 18, tenant := 2, rsv := 3, maxtok := 4, turnMax := 0 }) ∘
      wTen 2 (fun t => { t with valid := true, job := 18, bal := 20, cap := 25, refill := 3, rsv := 3 }) ∘
      wProg (word Op.admitOp 3 0 0 0 0 5) fun x => { x with sess := true, ran := [Op.cutoff, Op.retire, Op.charge], queue := [(9, 0)] }),
      0, 18, (word Op.admitOp 3 0 0 0 0 5), 9, 0, by decide +kernel⟩,
    ⟨W (wSess 9 (fun u => { u with st := Sess.running, job := 18, tenant := 2, rsv := 3, maxtok := 4, turnMax := 0 }) ∘
      wTen 2 (fun t => { t with valid := true, job := 18, bal := 20, cap := 25, refill := 3, rsv := 3 }) ∘
      wProg (word Op.form 3 0 0 0 0 0) fun x => { x with sess := true, ran := [Op.cutoff, Op.retire, Op.charge], evicts := [3], entries := [⟨9, 1, 2, 3, 4⟩] }),
      0, 18, (word Op.form 3 0 0 0 0 0), by decide +kernel⟩⟩

theorem witness_SegmentEnd :
    (∃ s : State, ∃ dt : Nat, ∃ j : Nat, ∃ w : Nat, let b := s.hall.elapse dt; let x := b.job j; Issues b j Op.commit w ∧
      InSequence b j Op.commit ∧ x.sess = false ∧ x.deferred = 0 ∧ x.prologue = false ∧ b.ht .dxs + decisionHold < x.nextLaunch.2.1) ∧
    (∃ s : State, ∃ dt : Nat, ∃ j : Nat, ∃ w : Nat, let b := s.hall.elapse dt; let x := b.job j; ∃ op, (op = Op.commit ∧ x.deferred ≠ 0 ∨
      op = Op.pause) ∧ Issues b j op w ∧ InSequence b j op ∧ x.sess = false ∧ x.record = false ∧ x.events = [] ∧ b.soloNow = true ∧
      x.endTimes.2.1 ≤ b.ht .dxs + decisionHold) ∧
    (∃ s : State, ∃ dt : Nat, ∃ j : Nat, ∃ w : Nat, let b := s.hall.elapse dt; let x := b.job j; Issues b j Op.halt w ∧ Op.cutoff ∈ x.ran ∧
      x.sess = false ∧ x.record = false ∧ x.events = [] ∧ b.soloNow = true ∧ b.evFits (32 * b.abortEvents j) = true ∧
      x.endTimes.2.1 ≤ b.ht .dxs + decisionHold) ∧
    (∃ s : State, ∃ dt : Nat, ∃ j : Nat, ∃ w : Nat, let b := s.hall.elapse dt; let x := b.job j; Issues b j Op.halt w ∧
      Op.cutoff ∉ x.ran) :=
  ⟨⟨W (wProg (word Op.commit 0 0 0 0 0 0) fun x => { x with ran := [Op.cutoff] }), 0, 18, (word Op.commit 0 0 0 0 0 0), by decide +kernel⟩,
    ⟨W (wClk .dxs (fun c => { c with ht := 2 ^ 78 }) ∘ wSt .dxs 2 .lost ∘
      wProg (word Op.commit 0 0 0 0 0 0) fun x => { x with ran := [Op.cutoff], deferred := 3 }), 0, 18, (word Op.commit 0 0 0 0 0 0),
      Op.commit, by decide +kernel⟩,
    ⟨W (wClk .dxs (fun c => { c with ht := 2 ^ 78 }) ∘ wSt .dxs 2 .lost ∘
      wProg (word Op.halt 0 0 0 0 0 5) fun x => { x with ran := [Op.cutoff] }), 0, 18, (word Op.halt 0 0 0 0 0 5), by decide +kernel⟩,
    ⟨W (wProg (word Op.halt 0 0 0 0 0 5) fun x => x), 0, 18, (word Op.halt 0 0 0 0 0 5), by decide +kernel⟩⟩

theorem witness_HandingOver :
    (∃ s : State, ∃ dt : Nat, ∃ j : Nat, ∃ p : Nat, ∃ d : Decision, let b := s.hall.elapse dt; let x := b.job j; x.dec = some d ∧
      d.dseq = none ∧ b.runsJob j = true ∧ x.stopped = false ∧ d.tgo ≤ b.ht .dxs + decisionHold ∧ b.logFits j (bytesOf d.logs) = true ∧
      b.evFits (b.evNeed j d) = true ∧ b.soloNow = false ∧ b.crossPort = some p ∧ (b.port .dxs p).st.discards = false) ∧
    (∃ s : State, ∃ dt : Nat, ∃ j : Nat, ∃ d : Decision, let b := s.hall.elapse dt; let x := b.job j; x.dec = some d ∧ d.dseq = none ∧
      b.runsJob j = true ∧ x.stopped = false ∧ d.tgo ≤ b.ht .dxs + decisionHold ∧ b.logFits j (bytesOf d.logs) = false) ∧
    (∃ s : State, ∃ dt : Nat, ∃ j : Nat, let b := s.hall.elapse dt; (b.job j).dec = none ∧ ∃ g, b.hub.path.gdecs = [g] ∧ g.dseq = none ∧
      b.gathLog g = [] ∧ b.actingRoot = true ∧ b.soloNow = false ∧ (b.job (b.gaJob g.gid)).stopped = false) ∧
    (∃ s : State, ∃ dt : Nat, ∃ j : Nat, let b := s.hall.elapse dt; (b.job j).dec = none ∧ ∃ e, b.hub.ss.evq = [e] ∧
      b.evReserved + 32 ≤ b.evRing.room 32 ∧ b.chanAble .dxs chanEvent = true) ∧
    (∃ s : State, ∃ dt : Nat, ∃ p : Nat, let b := s.hall.elapse dt; let q := b.port .dxs p; b.portRole p = roleCross ∧ p < 48 ∧
      b.actingRoot = true ∧ q.st = .down ∧ q.downAt + b.dwell .dxs p ≤ b.now ∧ ((∀ i ∈ b.portsOf roleCross, i ≠ p →
      (b.port .dxs i).st = .lost))) :=
  ⟨⟨W (wUp .dxs 2 ∘ wProg 0 fun x => { x with dec := some wDec }), 0, 18, 2, wDec, by decide +kernel⟩,
    ⟨W (wUp .dxs 2 ∘ wProg 0 fun x => { x with dec := some { wDec with logs := [[1]] } }), 0, 18, { wDec with logs := [[1]] },
      by decide +kernel⟩,
    ⟨W (wUp .dxs 2 ∘ wHub (fun h => { h with path := { h.path with gdecs := [⟨7, 4, 1, 77, none, 0⟩] } }) ∘ wFold ∘ wAct), 0, 18,
      by decide +kernel, ⟨7, 4, 1, 77, none, 0⟩, by decide +kernel⟩,
    ⟨W ((fun b => { b with sm := { b.sm with perst := true } }) ∘ wReg .dxs (chanReg .dxs chanEvent 0) 0 0x80000000 ∘
      wReg .dxs Reg.DXS_SS_EV_SIZE 0 4096 ∘ wHub (fun h => { h with ss := { h.ss with evq := [leBytes 32 5] } })), 0, 18,
      by decide +kernel, leBytes 32 5, by decide +kernel⟩,
    ⟨W (wNow 100000 ∘ wSt .dxs 2 .down ∘ wAct), 0, 2, by decide +kernel⟩⟩

theorem witness_DecisionExchange :
    (∃ s : State, ∃ dt : Nat, ∃ bs : List Byte, ∃ b' : Block, let b := s.hall.elapse dt; ∃ j, ∃ x, ∃ d, b.takeDecision true = some (bs,
      b') ∧ (b.hub.jobs.find? fun e => match e.2.dec with | some d => d.dseq == some (leAt bs 2 2) | none => false) = some (j, x) ∧
      (b.job j).dec = some d ∧ x.dec = some d ∧ b.actingRoot = true ∧ (b.job j).stopped = false) ∧
    (∃ s : State, ∃ dt : Nat, ∃ bs : List Byte, ∃ b' : Block, let b := s.hall.elapse dt; b.takeDecision false = some (bs, b') ∧
      isRoot b.dxs.role = true ∧ b.actingRoot = false ∧ let j := leAt bs 1 1; (b.job j).ftStaged = [] ∧ (b.job j).hold = false) :=
  ⟨⟨W (wSheets .dxs 2 (sheetsOf tDecision 18 5 false (decHeader 2 18 5 4 [])) ∘ wUps [(.dxs, 0), (.dxs, 1), (.dxs, 2)] ∘
    wProg 0 fun x => { x with dec := some { wDec with dseq := some 5, sentAt := 0 } }), 0,
    ((((W (wSheets .dxs 2 (sheetsOf tDecision 18 5 false (decHeader 2 18 5 4 [])) ∘ wUps [(.dxs, 0), (.dxs, 1), (.dxs, 2)] ∘
    wProg 0 fun x => { x with dec := some { wDec with dseq := some 5, sentAt := 0 } })).hall.elapse 0).takeDecision true).map Prod.fst).getD [],
    ((((W (wSheets .dxs 2 (sheetsOf tDecision 18 5 false (decHeader 2 18 5 4 [])) ∘ wUps [(.dxs, 0), (.dxs, 1), (.dxs, 2)] ∘
    wProg 0 fun x => { x with dec := some { wDec with dseq := some 5, sentAt := 0 } })).hall.elapse 0).takeDecision true).map Prod.snd).getD State.reset.hall,
    18, ((W (wSheets .dxs 2 (sheetsOf tDecision 18 5 false (decHeader 2 18 5 4 [])) ∘ wUps [(.dxs, 0), (.dxs, 1), (.dxs, 2)] ∘
    wProg 0 fun x => { x with dec := some { wDec with dseq := some 5, sentAt := 0 } })).hall.elapse 0).job 18,
    { wDec with dseq := some 5, sentAt := 0 }, by decide +kernel⟩,
    ⟨W (wSheets .dxs 2 (sheetsOf tDecision 18 5 false (decHeader 1 18 5 4 (leBytes 2 7 ++ leBytes 1 1 ++ leBytes 1 0 ++ leBytes 12 77))) ∘
      wUps [(.dxs, 0), (.dxs, 1), (.dxs, 2)] ∘ wFold ∘ wHall .rootB), 0,
      ((((W (wSheets .dxs 2 (sheetsOf tDecision 18 5 false (decHeader 1 18 5 4 (leBytes 2 7 ++ leBytes 1 1 ++ leBytes 1 0 ++
      leBytes 12 77))) ∘ wUps [(.dxs, 0), (.dxs, 1), (.dxs, 2)] ∘ wFold ∘
      wHall .rootB)).hall.elapse 0).takeDecision false).map Prod.fst).getD [],
      ((((W (wSheets .dxs 2 (sheetsOf tDecision 18 5 false (decHeader 1 18 5 4 (leBytes 2 7 ++ leBytes 1 1 ++ leBytes 1 0 ++
      leBytes 12 77))) ∘ wUps [(.dxs, 0), (.dxs, 1), (.dxs, 2)] ∘ wFold ∘
      wHall .rootB)).hall.elapse 0).takeDecision false).map Prod.snd).getD State.reset.hall, by decide +kernel⟩⟩

theorem witness_DueAtLaunch :
    (∃ s : State, ∃ dt : Nat, ∃ j : Nat, let b := s.hall.elapse dt; let x := b.job j; ∃ mask, ∃ k, ∃ w : Word, x.applyAt = some (mask, [(k,
      w)]) ∧ mask ≠ 0 ∧ x.tgo ≤ b.ht .dxs + 192 * 65536) ∧
    (∃ s : State, ∃ dt : Nat, ∃ j : Nat, let b := s.hall.elapse dt; let x := b.job j; isRoot b.dxs.role = true ∧ x.gone = true ∧
      x.tgo ≤ b.ht .dxs ∧ x.launched ≠ some x.sn ∧ x.applyAt = none ∧ x.reads = false) ∧
    (∃ s : State, ∃ dt : Nat, let b := s.hall.elapse dt; ∃ r, ∃ rs,
      (b.dxt.step.recs.filter fun r => r.rtype == 1 && r.folio == b.dxt.step.next) = r :: rs ∧ b.dxt.step.st = .armed ∧
      b.dxt.step.applyBegun = false ∧ b.dxt.node.regs.run = none ∧ b.dxt.step.go ≤ b.ht .dxt + 64 * (rs.length + 3) * 65536) :=
  ⟨⟨W (wProg 0 fun x => { x with applyAt := some (4, [(regKey 3 0x7008, 5)]) }), 0, 18, 4, regKey 3 0x7008, 5, by decide +kernel⟩,
    ⟨W (wProg 0 fun x => x), 0, 18, by decide +kernel⟩,
    ⟨W (wStep fun c => { c with st := .armed, next := 4, recs := [⟨1, 0, 4, 0x30002, 0⟩, ⟨1, 0, 4, 4, 0⟩] }), 0, ⟨1, 0, 4, 0x30002, 0⟩,
      [⟨1, 0, 4, 4, 0⟩], by decide +kernel⟩⟩

theorem witness_Sessions :
    (∃ s : State, ∃ dt : Nat, ∃ mb : Nat, ∃ r : List Byte, let b := s.hall.elapse dt; ∃ i, RecordReady b mb 1 r ∧
      b.tenantOk (cmdTenant r) (cmdJob r) = true ∧ b.jobTakes (cmdJob r) = none ∧ 0 < cmdMaxtok r ∧ 0 < cmdTurnMax r ∧ 0 < cmdTtl r ∧
      b.freeSlot = some i) ∧
    (∃ s : State, ∃ dt : Nat, ∃ mb : Nat, ∃ r : List Byte, let b := s.hall.elapse dt; let h := cmdHandle r; let slot := slotOf h;
      let x := b.sess slot; RecordReady b mb 2 r ∧ b.handleOk h = true ∧ b.jobTakes x.job = none ∧ x.st = Sess.open_ ∧ x.park = false ∧
      x.close = false ∧ (b.tenant x.tenant).frozen = false ∧ 0 < cmdMaxtok r ∧ 0 < cmdTurnMax r) ∧
    (∃ s : State, ∃ dt : Nat, ∃ mb : Nat, ∃ r : List Byte, let b := s.hall.elapse dt; let h := cmdHandle r; let slot := slotOf h;
      let x := b.sess slot; RecordReady b mb 3 r ∧ b.handleOk h = true ∧ b.jobTakes x.job = none ∧ x.st ≠ Sess.open_ ∧ x.cancel = false) ∧
    (∃ s : State, ∃ dt : Nat, ∃ mb : Nat, ∃ r : List Byte, let b := s.hall.elapse dt; let h := cmdHandle r; let slot := slotOf h;
      let x := b.sess slot; ∃ i, RecordReady b mb 4 r ∧ b.handleOk h = true ∧ b.jobTakes x.job = none ∧ x.st = Sess.open_ ∧
      noFlags x = true ∧ b.freeTicket = some i) ∧
    (∃ s : State, ∃ dt : Nat, ∃ mb : Nat, ∃ r : List Byte, let b := s.hall.elapse dt; let h := cmdHandle r; ∃ i, RecordReady b mb 5 r ∧
      b.ticketOk h = true ∧ b.ht .dxs < (b.ticket (h % 2 ^ 22)).expiry ∧ b.jobTakes (cmdJob r) = none ∧
      b.tenantOk (b.ticket (h % 2 ^ 22)).tenant (cmdJob r) = true ∧ b.freeSlot = some i) ∧
    (∃ s : State, ∃ dt : Nat, ∃ mb : Nat, ∃ r : List Byte, let b := s.hall.elapse dt; let h := cmdHandle r; let slot := slotOf h;
      let x := b.sess slot; RecordReady b mb 6 r ∧ bit (leAt r 1 1) 1 = false ∧ b.handleOk h = true ∧ b.jobTakes x.job = none ∧
      x.st = Sess.open_ ∧ noFlags x = true) ∧
    (∃ s : State, ∃ dt : Nat, ∃ mb : Nat, ∃ r : List Byte, let b := s.hall.elapse dt; let h := cmdHandle r; RecordReady b mb 6 r ∧
      bit (leAt r 1 1) 1 = true ∧ b.ticketOk h = true ∧ b.ht .dxs < (b.ticket (h % 2 ^ 22)).expiry ∧
      (b.job (b.ticket (h % 2 ^ 22)).job).stopped = false ∧ (b.job (b.ticket (h % 2 ^ 22)).job).hold = false ∧
      (b.job (b.ticket (h % 2 ^ 22)).job).replays = false) :=
  ⟨⟨W (wRec 3 (cmdRec 1 0 (9) 2 18 4 1 (List.replicate 12 0) 5 6) ∘
    wTen 2 (fun t => { t with valid := true, job := 18, bal := 20, cap := 25, refill := 3, rsv := 3 }) ∘ wSJob (fun x => x) ∘ wAct), 0, 3,
    (cmdRec 1 0 (9) 2 18 4 1 (List.replicate 12 0) 5 6), 0, by decide +kernel⟩,
    ⟨W (wRec 3 (cmdRec 2 0 (9) 2 18 4 1 (List.replicate 12 0) 5 6) ∘
      wTen 2 (fun t => { t with valid := true, job := 18, bal := 20, cap := 25, refill := 3, rsv := 3 }) ∘
      wSess 9 (fun u => { u with st := Sess.open_, job := 18, tenant := 2, maxtok := 4, turnMax := 8 }) ∘ wSJob (fun x => x) ∘ wAct), 0, 3,
      (cmdRec 2 0 (9) 2 18 4 1 (List.replicate 12 0) 5 6), by decide +kernel⟩,
    ⟨W (wRec 3 (cmdRec 3 0 (9) 2 18 4 1 (List.replicate 12 0) 5 6) ∘ wUp .dxs 2 ∘
      wTen 2 (fun t => { t with valid := true, job := 18, bal := 20, cap := 25, refill := 3, rsv := 3 }) ∘
      wSess 9 (fun u => { u with st := Sess.queued, job := 18, tenant := 2, maxtok := 4, turnMax := 8 }) ∘ wSJob (fun x => x) ∘ wAct), 0,
      3, (cmdRec 3 0 (9) 2 18 4 1 (List.replicate 12 0) 5 6), by decide +kernel⟩,
    ⟨W (wRec 3 (cmdRec 4 0 (9) 2 18 4 1 (List.replicate 12 0) 5 6) ∘ wReg .dxs Reg.DXS_SS_PARK_CFG 0 16 ∘
      wTen 2 (fun t => { t with valid := true, job := 18, bal := 20, cap := 25, refill := 3, rsv := 3 }) ∘
      wSess 9 (fun u => { u with st := Sess.open_, job := 18, tenant := 2, maxtok := 4, turnMax := 8 }) ∘ wSJob (fun x => x) ∘ wAct), 0, 3,
      (cmdRec 4 0 (9) 2 18 4 1 (List.replicate 12 0) 5 6), 0, by decide +kernel⟩,
    ⟨W (wRec 3 (cmdRec 5 0 (2 ^ 22 + 5) 2 18 4 1 (List.replicate 12 0) 5 6) ∘
      (fun b => b.each (List.range 16) fun b c => wReg .dxs (chanReg .dxs c 0) 0 0x80000000 b) ∘ wReg .dxs Reg.DXS_SS_PARK_CFG 0 16 ∘
      wTick 5 (fun t => { t with gen := 1, st := 2, expiry := 10 ^ 9, tenant := 2, job := 18 }) ∘
      wTen 2 (fun t => { t with valid := true, job := 18, bal := 20, cap := 25, refill := 3, rsv := 3 }) ∘ wSJob (fun x => x) ∘ wAct), 0,
      3, (cmdRec 5 0 (2 ^ 22 + 5) 2 18 4 1 (List.replicate 12 0) 5 6), 0, by decide +kernel⟩,
    ⟨W (wRec 3 (cmdRec 6 0 (9) 2 18 4 1 (List.replicate 12 0) 5 6) ∘
      wTen 2 (fun t => { t with valid := true, job := 18, bal := 20, cap := 25, refill := 3, rsv := 3 }) ∘
      wSess 9 (fun u => { u with st := Sess.open_, job := 18, tenant := 2, maxtok := 4, turnMax := 8 }) ∘ wSJob (fun x => x) ∘ wAct), 0, 3,
      (cmdRec 6 0 (9) 2 18 4 1 (List.replicate 12 0) 5 6), by decide +kernel⟩,
    ⟨W (wRec 3 (cmdRec 6 2 (2 ^ 22 + 5) 2 18 4 1 (List.replicate 12 0) 5 6) ∘
      (fun b => b.each (List.range 16) fun b c => wReg .dxs (chanReg .dxs c 0) 0 0x80000000 b) ∘ wReg .dxs Reg.DXS_SS_PARK_CFG 0 16 ∘
      wTick 5 (fun t => { t with gen := 1, st := 2, expiry := 10 ^ 9, tenant := 2, job := 18 }) ∘
      wTen 2 (fun t => { t with valid := true, job := 18, bal := 20, cap := 25, refill := 3, rsv := 3 }) ∘ wSJob (fun x => x) ∘ wAct), 0,
      3, (cmdRec 6 2 (2 ^ 22 + 5) 2 18 4 1 (List.replicate 12 0) 5 6), by decide +kernel⟩⟩

theorem witness_TenantsAndQueries :
    (∃ s : State, ∃ dt : Nat, ∃ mb : Nat, ∃ r : List Byte, let b := s.hall.elapse dt; let h := cmdHandle r; let x := b.sess (slotOf h);
      RecordReady b mb 7 r ∧ leAt r 1 1 = 0 ∧ b.handleOk h = true ∧ (b.job x.job).stopped = false) ∧
    (∃ s : State, ∃ dt : Nat, ∃ mb : Nat, ∃ r : List Byte, let b := s.hall.elapse dt; let h := cmdHandle r; RecordReady b mb 7 r ∧
      leAt r 1 1 = 2 ∧ b.ticketOk h = true ∧ b.ht .dxs < (b.ticket (h % 2 ^ 22)).expiry ∧
      (b.job (b.ticket (h % 2 ^ 22)).job).stopped = false) ∧
    (∃ s : State, ∃ dt : Nat, ∃ mb : Nat, ∃ r : List Byte, let b := s.hall.elapse dt; let t := cmdTenant r; let y := b.tenant t;
      RecordReady b mb 7 r ∧ bit (leAt r 1 1) 0 = true ∧ y.valid = true ∧ (b.job y.job).stopped = false) ∧
    (∃ s : State, ∃ dt : Nat, ∃ mb : Nat, ∃ r : List Byte, let b := s.hall.elapse dt; let t := cmdTenant r; let j := cmdJob r;
      let y := b.tenant t; RecordReady b mb 8 r ∧ bit (leAt r 1 1) 1 = false ∧ b.jobTakes j = none ∧ y.valid = false) ∧
    (∃ s : State, ∃ dt : Nat, ∃ mb : Nat, ∃ r : List Byte, let b := s.hall.elapse dt; let t := cmdTenant r; let j := cmdJob r;
      RecordReady b mb 8 r ∧ bit (leAt r 1 1) 1 = false ∧ b.jobTakes j = none ∧ b.tenantOk t j = true ∧ ((b.job j).st = .loaded ∨
      (b.job j).st = .paused)) ∧
    (∃ s : State, ∃ dt : Nat, ∃ mb : Nat, ∃ r : List Byte, let b := s.hall.elapse dt; let t := cmdTenant r; let j := cmdJob r;
      RecordReady b mb 8 r ∧ bit (leAt r 1 1) 1 = false ∧ b.jobTakes j = none ∧ b.tenantOk t j = true ∧ (b.job j).st ≠ .loaded ∧
      (b.job j).st ≠ .paused) ∧
    (∃ s : State, ∃ dt : Nat, ∃ mb : Nat, ∃ r : List Byte, let b := s.hall.elapse dt; let t := cmdTenant r; let j := cmdJob r;
      let y := b.tenant t; RecordReady b mb 8 r ∧ bit (leAt r 1 1) 1 = true ∧ b.jobTakes j = none ∧ b.tenantOk t j = true ∧ y.live = 0 ∧
      ((b.job j).st = .loaded ∨ (b.job j).st = .paused)) ∧
    (∃ s : State, ∃ dt : Nat, ∃ mb : Nat, ∃ r : List Byte, let b := s.hall.elapse dt; let t := cmdTenant r; let j := cmdJob r;
      let y := b.tenant t; RecordReady b mb 8 r ∧ bit (leAt r 1 1) 1 = true ∧ b.jobTakes j = none ∧ b.tenantOk t j = true ∧ y.live = 0 ∧
      (b.job j).st ≠ .loaded ∧ (b.job j).st ≠ .paused) :=
  ⟨⟨W (wRec 3 (cmdRec 7 0 (9) 2 18 4 1 (List.replicate 12 0) 5 6) ∘
    wTen 2 (fun t => { t with valid := true, job := 18, bal := 20, cap := 25, refill := 3, rsv := 3 }) ∘
    wSess 9 (fun u => { u with st := Sess.open_, job := 18, tenant := 2, maxtok := 4, turnMax := 8 }) ∘ wSJob (fun x => x) ∘ wAct), 0, 3,
    (cmdRec 7 0 (9) 2 18 4 1 (List.replicate 12 0) 5 6), by decide +kernel⟩,
    ⟨W (wRec 3 (cmdRec 7 2 (2 ^ 22 + 5) 2 18 4 1 (List.replicate 12 0) 5 6) ∘
      (fun b => b.each (List.range 16) fun b c => wReg .dxs (chanReg .dxs c 0) 0 0x80000000 b) ∘ wReg .dxs Reg.DXS_SS_PARK_CFG 0 16 ∘
      wTick 5 (fun t => { t with gen := 1, st := 2, expiry := 10 ^ 9, tenant := 2, job := 18 }) ∘
      wTen 2 (fun t => { t with valid := true, job := 18, bal := 20, cap := 25, refill := 3, rsv := 3 }) ∘ wSJob (fun x => x) ∘ wAct), 0,
      3, (cmdRec 7 2 (2 ^ 22 + 5) 2 18 4 1 (List.replicate 12 0) 5 6), by decide +kernel⟩,
    ⟨W (wRec 3 (cmdRec 7 1 (9) 2 18 4 1 (List.replicate 12 0) 5 6) ∘
      wTen 2 (fun t => { t with valid := true, job := 18, bal := 20, cap := 25, refill := 3, rsv := 3 }) ∘ wSJob (fun x => x) ∘ wAct), 0,
      3, (cmdRec 7 1 (9) 2 18 4 1 (List.replicate 12 0) 5 6), by decide +kernel⟩,
    ⟨W (wRec 3 (cmdRec 8 1 (9) 2 18 4 1 (leBytes 8 30 ++ leBytes 4 7) 40 0) ∘ wSJob (fun x => x) ∘ wAct), 0, 3,
      (cmdRec 8 1 (9) 2 18 4 1 (leBytes 8 30 ++ leBytes 4 7) 40 0), by decide +kernel⟩,
    ⟨W (wRec 3 (cmdRec 8 0 (9) 2 18 4 1 (leBytes 8 30 ++ leBytes 4 7) 40 0) ∘
      wTen 2 (fun t => { t with valid := true, job := 18, bal := 20, cap := 25, refill := 3, rsv := 3 }) ∘
      wSJob (fun x => { x with st := .paused }) ∘ wAct), 0, 3, (cmdRec 8 0 (9) 2 18 4 1 (leBytes 8 30 ++ leBytes 4 7) 40 0),
      by decide +kernel⟩,
    ⟨W (wRec 3 (cmdRec 8 0 (9) 2 18 4 1 (leBytes 8 30 ++ leBytes 4 7) 40 0) ∘
      wTen 2 (fun t => { t with valid := true, job := 18, bal := 20, cap := 25, refill := 3, rsv := 3 }) ∘ wSJob (fun x => x) ∘ wAct), 0,
      3, (cmdRec 8 0 (9) 2 18 4 1 (leBytes 8 30 ++ leBytes 4 7) 40 0), by decide +kernel⟩,
    ⟨W (wRec 3 (cmdRec 8 2 (9) 2 18 4 1 (List.replicate 12 0) 5 6) ∘
      wTen 2 (fun t => { t with valid := true, job := 18, bal := 20, cap := 25, refill := 3, rsv := 3 }) ∘
      wSJob (fun x => { x with st := .loaded }) ∘ wAct), 0, 3, (cmdRec 8 2 (9) 2 18 4 1 (List.replicate 12 0) 5 6), by decide +kernel⟩,
    ⟨W (wRec 3 (cmdRec 8 2 (9) 2 18 4 1 (List.replicate 12 0) 5 6) ∘
      wTen 2 (fun t => { t with valid := true, job := 18, bal := 20, cap := 25, refill := 3, rsv := 3 }) ∘ wSJob (fun x => x) ∘ wAct), 0,
      3, (cmdRec 8 2 (9) 2 18 4 1 (List.replicate 12 0) 5 6), by decide +kernel⟩⟩

theorem witness_SessionRefusals :
    (∃ s : State, ∃ dt : Nat, ∃ mb : Nat, ∃ r : List Byte, let b := s.hall.elapse dt; RecordReady b mb 1 r ∧
      b.tenantOk (cmdTenant r) (cmdJob r) = false) ∧
    (∃ s : State, ∃ dt : Nat, ∃ mb : Nat, ∃ r : List Byte, let b := s.hall.elapse dt; let h := cmdHandle r; ∃ c, ∃ k, (c,
      k) ∈ [(Instr.admitCmd dt mb, 2), (Instr.cancel dt mb, 3), (Instr.park dt mb, 4), (Instr.close dt mb, 6)] ∧ RecordReady b mb k r ∧
      bit (leAt r 1 1) 1 = false ∧ b.handleOk h = false) ∧
    (∃ s : State, ∃ dt : Nat, ∃ mb : Nat, ∃ r : List Byte, let b := s.hall.elapse dt; let h := cmdHandle r; let x := b.sess (slotOf h);
      ∃ c, ∃ k, (c, k) ∈ [(Instr.admitCmd dt mb, 2), (Instr.cancel dt mb, 3), (Instr.park dt mb, 4), (Instr.close dt mb, 6)] ∧
      RecordReady b mb k r ∧ bit (leAt r 1 1) 1 = false ∧ b.handleOk h = true ∧ (b.job x.job).st = .halted) ∧
    (∃ s : State, ∃ dt : Nat, ∃ mb : Nat, ∃ r : List Byte, let b := s.hall.elapse dt; let h := cmdHandle r; let x := b.sess (slotOf h);
      ∃ c, ∃ k, (c, k) ∈ [(Instr.admitCmd dt mb, 2), (Instr.cancel dt mb, 3), (Instr.park dt mb, 4), (Instr.close dt mb, 6)] ∧
      RecordReady b mb k r ∧ bit (leAt r 1 1) 1 = false ∧ b.handleOk h = true ∧ (b.job x.job).loaded = true ∧ (b.job x.job).sess = true ∧
      (b.job x.job).st ≠ .halted ∧ (b.job x.job).stopped = false ∧ (b.job x.job).hold = false ∧ (b.job x.job).replays = true) ∧
    (∃ s : State, ∃ dt : Nat, ∃ mb : Nat, ∃ r : List Byte, let b := s.hall.elapse dt; let h := cmdHandle r; let x := b.sess (slotOf h);
      RecordReady b mb 3 r ∧ b.handleOk h = true ∧ b.jobTakes x.job = none ∧ x.st = Sess.open_) ∧
    (∃ s : State, ∃ dt : Nat, ∃ mb : Nat, ∃ r : List Byte, let b := s.hall.elapse dt; let h := cmdHandle r; let x := b.sess (slotOf h);
      RecordReady b mb 3 r ∧ b.handleOk h = true ∧ b.jobTakes x.job = none ∧ x.st ≠ Sess.open_ ∧ x.cancel = true) ∧
    (∃ s : State, ∃ dt : Nat, ∃ mb : Nat, ∃ r : List Byte, let b := s.hall.elapse dt; let h := cmdHandle r; RecordReady b mb 5 r ∧
      b.ticketOk h = true ∧ (b.ticket (h % 2 ^ 22)).expiry ≤ b.ht .dxs) ∧
    (∃ s : State, ∃ dt : Nat, ∃ mb : Nat, ∃ r : List Byte, let b := s.hall.elapse dt; mb < 16 ∧ b.hub.bn.boot = 1 ∧ b.own mb = Own.posted ∧
      ((∀ m, m < 16 → m ≠ mb → b.own m ≠ Own.posted)) ∧ b.pageAt mb 8 1 = 1 ∧ b.pageAt mb 16 4 = 0 ∧ 1 ≤ b.nrec mb ∧ b.nrec mb ≤ 64 ∧
      b.actingRoot = true ∧ r = b.page mb 64 48 ∧ 1 ≤ leAt r 0 1 ∧ leAt r 0 1 ≤ 5 ∧ leAt r 1 1 ≠ 0) ∧
    (∃ s : State, ∃ dt : Nat, ∃ mb : Nat, ∃ r : List Byte, let b := s.hall.elapse dt; let h := cmdHandle r; RecordReady b mb 6 r ∧
      bit (leAt r 1 1) 1 = true ∧ let current := b.ticketOk h && decide (b.ht .dxs < (b.ticket (h % 2 ^ 22)).expiry); current = false) ∧
    (∃ s : State, ∃ dt : Nat, ∃ mb : Nat, ∃ r : List Byte, let b := s.hall.elapse dt; let h := cmdHandle r; RecordReady b mb 6 r ∧
      bit (leAt r 1 1) 1 = true ∧ let current := b.ticketOk h && decide (b.ht .dxs < (b.ticket (h % 2 ^ 22)).expiry); current = true) ∧
    (∃ s : State, ∃ dt : Nat, ∃ mb : Nat, ∃ r : List Byte, let b := s.hall.elapse dt; let h := cmdHandle r; RecordReady b mb 6 r ∧
      bit (leAt r 1 1) 1 = false ∧ b.handleOk h = true) ∧
    (∃ s : State, ∃ dt : Nat, ∃ mb : Nat, ∃ r : List Byte, let b := s.hall.elapse dt; let h := cmdHandle r; RecordReady b mb 7 r ∧
      bit (leAt r 1 1) 0 = false ∧
      let known := if bit (leAt r 1 1) 1 then b.ticketOk h && decide (b.ht .dxs < (b.ticket (h % 2 ^ 22)).expiry) else b.handleOk h;
      known = false) ∧
    (∃ s : State, ∃ dt : Nat, ∃ mb : Nat, ∃ r : List Byte, let b := s.hall.elapse dt; let h := cmdHandle r; RecordReady b mb 7 r ∧
      bit (leAt r 1 1) 0 = false ∧
      let known := if bit (leAt r 1 1) 1 then b.ticketOk h && decide (b.ht .dxs < (b.ticket (h % 2 ^ 22)).expiry) else b.handleOk h;
      known = true) ∧
    (∃ s : State, ∃ dt : Nat, ∃ mb : Nat, ∃ r : List Byte, let b := s.hall.elapse dt; RecordReady b mb 7 r ∧ bit (leAt r 1 1) 0 = true) :=
  ⟨⟨W (wRec 3 (cmdRec 1 0 (9) 2 18 4 1 (List.replicate 12 0) 5 6) ∘ wSJob (fun x => x) ∘ wAct), 0, 3,
    (cmdRec 1 0 (9) 2 18 4 1 (List.replicate 12 0) 5 6), by decide +kernel⟩,
    ⟨W (wRec 3 (cmdRec 2 0 (9) 2 18 4 1 (List.replicate 12 0) 5 6) ∘ wSJob (fun x => x) ∘ wAct), 0, 3,
      (cmdRec 2 0 (9) 2 18 4 1 (List.replicate 12 0) 5 6), .admitCmd 0 3, 2, by decide +kernel⟩,
    ⟨W (wRec 3 (cmdRec 6 0 (9) 2 18 4 1 (List.replicate 12 0) 5 6) ∘
      wTen 2 (fun t => { t with valid := true, job := 18, bal := 20, cap := 25, refill := 3, rsv := 3 }) ∘
      wSess 9 (fun u => { u with st := Sess.open_, job := 18, tenant := 2, maxtok := 4, turnMax := 8 }) ∘
      wSJob (fun x => { x with st := .halted }) ∘ wAct), 0, 3, (cmdRec 6 0 (9) 2 18 4 1 (List.replicate 12 0) 5 6), .close 0 3, 6,
      by decide +kernel⟩,
    ⟨W (wRec 3 (cmdRec 4 0 (9) 2 18 4 1 (List.replicate 12 0) 5 6) ∘
      wTen 2 (fun t => { t with valid := true, job := 18, bal := 20, cap := 25, refill := 3, rsv := 3 }) ∘
      wSess 9 (fun u => { u with st := Sess.open_, job := 18, tenant := 2, maxtok := 4, turnMax := 8 }) ∘
      wSJob (fun x => { x with replay := true }) ∘ wAct), 0, 3, (cmdRec 4 0 (9) 2 18 4 1 (List.replicate 12 0) 5 6), .park 0 3, 4,
      by decide +kernel⟩,
    ⟨W (wRec 3 (cmdRec 3 0 (9) 2 18 4 1 (List.replicate 12 0) 5 6) ∘
      wTen 2 (fun t => { t with valid := true, job := 18, bal := 20, cap := 25, refill := 3, rsv := 3 }) ∘
      wSess 9 (fun u => { u with st := Sess.open_, job := 18, tenant := 2, maxtok := 4, turnMax := 8 }) ∘ wSJob (fun x => x) ∘ wAct), 0, 3,
      (cmdRec 3 0 (9) 2 18 4 1 (List.replicate 12 0) 5 6), by decide +kernel⟩,
    ⟨W (wRec 3 (cmdRec 3 0 (9) 2 18 4 1 (List.replicate 12 0) 5 6) ∘
      wTen 2 (fun t => { t with valid := true, job := 18, bal := 20, cap := 25, refill := 3, rsv := 3 }) ∘
      wSess 9 (fun u => { u with st := Sess.running, job := 18, tenant := 2, maxtok := 4, turnMax := 8, cancel := true }) ∘
      wSJob (fun x => x) ∘ wAct), 0, 3, (cmdRec 3 0 (9) 2 18 4 1 (List.replicate 12 0) 5 6), by decide +kernel⟩,
    ⟨W (wRec 3 (cmdRec 5 0 (2 ^ 22 + 5) 2 18 4 1 (List.replicate 12 0) 5 6) ∘
      wTick 5 (fun t => { t with gen := 1, st := 2, expiry := 0, tenant := 2, job := 18 }) ∘ wSJob (fun x => x) ∘ wAct), 0, 3,
      (cmdRec 5 0 (2 ^ 22 + 5) 2 18 4 1 (List.replicate 12 0) 5 6), by decide +kernel⟩,
    ⟨W ((fun b => (((b.setPage 3 64 (cmdRec 2 4 (9) 2 18 4 1 (List.replicate 12 0) 5 6)).setPage 3 8 [1, 1]).setOwn 3 Own.posted)) ∘
      wReg .dxs Reg.DXS_SS_CTRL 0 1 ∘ wAct), 0, 3, (cmdRec 2 4 (9) 2 18 4 1 (List.replicate 12 0) 5 6), by decide +kernel⟩,
    ⟨W (wRec 3 (cmdRec 6 2 (2 ^ 22 + 5) 2 18 4 1 (List.replicate 12 0) 5 6) ∘
      wTick 5 (fun t => { t with gen := 1, st := 2, expiry := 0, tenant := 2, job := 18 }) ∘ wSJob (fun x => x) ∘ wAct), 0, 3,
      (cmdRec 6 2 (2 ^ 22 + 5) 2 18 4 1 (List.replicate 12 0) 5 6), by decide +kernel⟩,
    ⟨W (wRec 3 (cmdRec 6 2 (2 ^ 22 + 5) 2 18 4 1 (List.replicate 12 0) 5 6) ∘
      wTick 5 (fun t => { t with gen := 1, st := 2, expiry := 1000000000, tenant := 2, job := 18 }) ∘ wSJob (fun x => x) ∘ wAct), 0, 3,
      (cmdRec 6 2 (2 ^ 22 + 5) 2 18 4 1 (List.replicate 12 0) 5 6), by decide +kernel⟩,
    ⟨W (wRec 3 (cmdRec 6 0 (9) 2 18 4 1 (List.replicate 12 0) 5 6) ∘
      wTen 2 (fun t => { t with valid := true, job := 18, bal := 20, cap := 25, refill := 3, rsv := 3 }) ∘
      wSess 9 (fun u => { u with st := Sess.open_, job := 18, tenant := 2, maxtok := 4, turnMax := 8 }) ∘ wSJob (fun x => x) ∘ wAct), 0, 3,
      (cmdRec 6 0 (9) 2 18 4 1 (List.replicate 12 0) 5 6), by decide +kernel⟩,
    ⟨W (wRec 3 (cmdRec 7 0 (9) 2 18 4 1 (List.replicate 12 0) 5 6) ∘ wSJob (fun x => x) ∘ wAct), 0, 3,
      (cmdRec 7 0 (9) 2 18 4 1 (List.replicate 12 0) 5 6), by decide +kernel⟩,
    ⟨W (wRec 3 (cmdRec 7 2 (2 ^ 22 + 5) 2 18 4 1 (List.replicate 12 0) 5 6) ∘
      wTick 5 (fun t => { t with gen := 1, st := 2, expiry := 1000000000, tenant := 2, job := 18 }) ∘ wSJob (fun x => x) ∘ wAct), 0, 3,
      (cmdRec 7 2 (2 ^ 22 + 5) 2 18 4 1 (List.replicate 12 0) 5 6), by decide +kernel⟩,
    ⟨W (wRec 3 (cmdRec 7 1 (9) 2 18 4 1 (List.replicate 12 0) 5 6) ∘ wSJob (fun x => x) ∘ wAct), 0, 3,
      (cmdRec 7 1 (9) 2 18 4 1 (List.replicate 12 0) 5 6), by decide +kernel⟩⟩

theorem witness_KillsReportsEvictions :
    (∃ s : State, ∃ dt : Nat, let b := s.hall.elapse dt; let u := b.dxs.hub.ss; ∃ k, ∃ rest, u.kills = k :: rest ∧ b.killHeld k = false ∧
      (u.killAt = 0 ∨ u.killAt + b.killGap ≤ b.now)) ∧
    (∃ s : State, ∃ dt : Nat, let b := s.hall.elapse dt; ∃ r, ∃ rest, InboxHead b .dxs .kill r rest ∧ isRoot b.dxs.role = true ∧
      b.actingRoot = false ∧ b.portRole r.port = roleCross) ∧
    (∃ s : State, ∃ dt : Nat, let b := s.hall.elapse dt; ∃ r, ∃ rest, InboxHead b .dxs .kill r rest ∧ isRoot b.dxs.role = false) ∧
    (∃ s : State, ∃ dt : Nat, let b := s.hall.elapse dt; ∃ job, ∃ tag, b.jobPorts job ≠ [] ∧ ((∀ p ∈ b.jobPorts job,
      (b.reportSheets p job tag).isSome = true)) ∧ ∃ p, isRoot b.dxs.role = false ∧ b.upPortOf = some p) ∧
    (∃ s : State, ∃ dt : Nat, let b := s.hall.elapse dt; ∃ job, ∃ tag, b.jobPorts job ≠ [] ∧ ((∀ p ∈ b.jobPorts job,
      (b.reportSheets p job tag).isSome = true)) ∧ b.actingRoot = true) ∧
    (∃ s : State, ∃ dt : Nat, let b := s.hall.elapse dt; ∃ job, ∃ tag, b.jobPorts job ≠ [] ∧ ((∀ p ∈ b.jobPorts job,
      (b.reportSheets p job tag).isSome = true)) ∧ ∃ p, isRoot b.dxs.role = true ∧ b.actingRoot = false ∧ b.crossPort = some p) ∧
    (∃ s : State, ∃ dt : Nat, let b := s.hall.elapse dt; let u := b.dxs.hub.ss; b.actingRoot = true ∧
      b.ht .dxs / (1000000 * 65536) ≠ u.evictMs ∧ let es := u.tickets.filter fun e => b.evictable e.2; es.length ≤ maxEvict) :=
  ⟨⟨W (wUps [(.dxs, 0), (.dxs, 1)] ∘ wHub (fun h => { h with ss := { h.ss with kills := [⟨9, 4, 77⟩] } }) ∘ wAct), 0, ⟨9, 4, 77⟩, [],
    by decide +kernel⟩,
    ⟨W (wIn .dxs 2 0 ⟨.kill, 1, 2, 3, 4⟩ ∘ wHall .rootB), 0, ⟨2, 0, ⟨.kill, 1, 2, 3, 4⟩, false⟩, [], by decide +kernel⟩,
    ⟨W (wUp .dxs 1 ∘ wIn .dxs 3 0 ⟨.kill, 1, 2, 3, 4⟩ ∘ wHall .tier), 0, ⟨3, 0, ⟨.kill, 1, 2, 3, 4⟩, false⟩, [], by decide +kernel⟩,
    ⟨W (wUps [(.dxs, 2), (.dxs, 3)] ∘ wSheets .dxs 0 (reportSheets 18 4 []) ∘ wSheets .dxs 1 (reportSheets 18 4 []) ∘ wHall .tier), 0, 18,
      4, by decide +kernel, by decide +kernel, 3, by decide +kernel⟩,
    ⟨W (wUps [(.dxs, 2), (.dxs, 3)] ∘ wSheets .dxs 0 (reportSheets 18 4 []) ∘ wSheets .dxs 1 (reportSheets 18 4 []) ∘ wAct), 0, 18, 4,
      by decide +kernel⟩,
    ⟨W (wUps [(.dxs, 2), (.dxs, 3)] ∘ wSheets .dxs 0 (reportSheets 18 4 []) ∘ wSheets .dxs 1 (reportSheets 18 4 []) ∘ wHall .rootB), 0, 18,
      4, by decide +kernel, by decide +kernel, 2, by decide +kernel⟩,
    ⟨W (wTick 5 (fun t => { t with gen := 1, st := 2, expiry := 0, tenant := 2, job := 18 }) ∘
      wClk .dxs (fun c => { c with ht := 2 ^ 75 }) ∘ wSJob (fun x => x) ∘ wAct), 0, by decide +kernel⟩⟩

theorem witness_FaultReports :
    (∃ s : State, ∃ dt : Nat, let b := s.hall.elapse dt; ∃ r, ∃ rest, InboxHead b .dxt .fault r rest) ∧
    (∃ s : State, ∃ dt : Nat, let b := s.hall.elapse dt; ∃ r, ∃ rest, InboxHead b .dxs .fault r rest ∧ r.port ≠ ownPort ∧
      let ofNode := bit r.mark.arg.toNat 15; let cause := bits r.mark.arg.toNat 7 0;
      let key := (b2n ofNode * 65536 + r.mark.obj.toNat, cause, r.mark.stamp.toNat); b.dxs.node.forwarded.contains key = true) ∧
    (∃ s : State, ∃ dt : Nat, let b := s.hall.elapse dt; ∃ r, ∃ rest, InboxHead b .dxs .fault r rest ∧ r.port ≠ ownPort ∧
      let ofNode := bit r.mark.arg.toNat 15; let cause := bits r.mark.arg.toNat 7 0;
      let key := (b2n ofNode * 65536 + r.mark.obj.toNat, cause, r.mark.stamp.toNat); b.dxs.node.forwarded.contains key = false ∧
      isTriad b.dxs.role = false) ∧
    (∃ s : State, ∃ dt : Nat, let b := s.hall.elapse dt; ∃ r, ∃ rest, InboxHead b .dxs .fault r rest ∧ r.port ≠ ownPort ∧
      let ofNode := bit r.mark.arg.toNat 15; let origin := if ofNode then Part.dxs r.mark.obj.toNat else b.dieNamed r.mark.obj.toNat;
      let cause := bits r.mark.arg.toNat 7 0; let key := (b2n ofNode * 65536 + r.mark.obj.toNat, cause, r.mark.stamp.toNat);
      b.dxs.node.forwarded.contains key = false ∧ isRoot b.dxs.role = true ∧ scopeOf cause origin.isNode = .info) ∧
    (∃ s : State, ∃ dt : Nat, let b := s.hall.elapse dt; ∃ r, ∃ rest, InboxHead b .dxs .fault r rest ∧ r.port ≠ ownPort ∧
      let ofNode := bit r.mark.arg.toNat 15; let origin := if ofNode then Part.dxs r.mark.obj.toNat else b.dieNamed r.mark.obj.toNat;
      let cause := bits r.mark.arg.toNat 7 0; let port := bits r.mark.arg.toNat 14 8;
      let key := (b2n ofNode * 65536 + r.mark.obj.toNat, cause, r.mark.stamp.toNat); b.dxs.node.forwarded.contains key = false ∧
      isTriad b.dxs.role = true ∧ scopeOf cause origin.isNode = .self ∧ ((∀ e ∈ b.dxs.hub.fq.evidence, e.cause ≠ cause ∨
      e.about ≠ some origin ∨ e.end1 ≠ origin ∨ e.port ≠ port))) ∧
    (∃ s : State, ∃ dt : Nat, let b := s.hall.elapse dt; ∃ r, ∃ rest, InboxHead b .dxs .fault r rest ∧ r.port ≠ ownPort ∧
      let ofNode := bit r.mark.arg.toNat 15; let cause := bits r.mark.arg.toNat 7 0;
      let key := (b2n ofNode * 65536 + r.mark.obj.toNat, cause, r.mark.stamp.toNat); b.dxs.node.forwarded.contains key = false ∧
      isTriad b.dxs.role = true ∧ cause = Cause.pathUp) ∧
    (∃ s : State, ∃ dt : Nat, let b := s.hall.elapse dt; b.faultHeld .dxs Cause.selfReport noPort = false) ∧
    (∃ s : State, ∃ dt : Nat, let b := s.hall.elapse dt; b.faultHeld .dxt Cause.selfReport noPort = false) ∧
    (∃ s : State, ∃ dt : Nat, let b := s.hall.elapse dt; b.faultHeld .dxs Cause.selfReport noPort = true) ∧
    (∃ s : State, ∃ dt : Nat, let b := s.hall.elapse dt; ∃ sd, ∃ p, (b.port sd p).st = .up ∧ (b.port sd p).rx.hbMiss = false ∧
      b.hbPairs sd ≤ (b.port sd p).rx.sinceIdle) :=
  ⟨⟨W (wIn .dxt 0 0 ⟨.fault, 4101, 0, 99, 5⟩ ∘ id), 0, ⟨0, 0, ⟨.fault, 4101, 0, 99, 5⟩, false⟩, [], by decide +kernel⟩,
    ⟨W (wIn .dxs 0 0 ⟨.fault, 4101, 0, 99, 5⟩ ∘ (fun b => b.updNode .dxs fun n => { n with forwarded := [(4101, 5, 99)] }) ∘ wAct), 0, ⟨0,
      0, ⟨.fault, 4101, 0, 99, 5⟩, false⟩, [], by decide +kernel⟩,
    ⟨W (wIn .dxs 0 0 ⟨.fault, 4101, 0, 99, 5⟩ ∘ wUp .dxs 3 ∘ wHall .tier), 0, ⟨0, 0, ⟨.fault, 4101, 0, 99, 5⟩, false⟩, [],
      by decide +kernel⟩,
    ⟨W (wIn .dxs 0 0 ⟨.fault, 4101, 0, 99, 64⟩ ∘ wUp .dxs 2 ∘ wAct), 0, ⟨0, 0, ⟨.fault, 4101, 0, 99, 64⟩, false⟩, [], by decide +kernel⟩,
    ⟨W (wIn .dxs 0 0 ⟨.fault, 4101, 0, 99, 5⟩ ∘ wReg .dxs Reg.DXS_FQ_QUORUM 0 1 ∘ wAct), 0, ⟨0, 0, ⟨.fault, 4101, 0, 99, 5⟩, false⟩, [],
      by decide +kernel⟩,
    ⟨W (wIn .dxs 0 0 ⟨.fault, 4101, 0, 99, 260⟩ ∘ wReg .dxs Reg.DXS_FQ_QUORUM 0 1 ∘
      wHub (fun h => { h with fq := { h.fq with evidence := [⟨1, none, ⟨false, 4101⟩, 1, 0⟩] } }) ∘ wAct), 0, ⟨0, 0, ⟨.fault, 4101, 0, 99,
      260⟩, false⟩, [], by decide +kernel⟩,
    ⟨W (wUp .dxs 2 ∘ wAct), 0, by decide +kernel⟩,
    ⟨W (wUp .dxt 1), 0, by decide +kernel⟩,
    ⟨W (wNow 5 ∘ (fun b => b.noteRaised .dxs Cause.selfReport noPort)), 0, by decide +kernel⟩,
    ⟨W (wPort .dxt 1 fun q => { q with st := .up, rx := { q.rx with sinceIdle := 256 } }), 0, .dxt, 1, by decide +kernel⟩⟩

theorem witness_VotesAndVerdicts :
    (∃ s : State, ∃ dt : Nat, let b := s.hall.elapse dt; ∃ r, ∃ rest, InboxHead b .dxs .vote r rest ∧ isTriad b.dxs.role = true) ∧
    (∃ s : State, ∃ dt : Nat, let b := s.hall.elapse dt; isTriad b.dxs.role = true) ∧
    (∃ s : State, ∃ dt : Nat, let b := s.hall.elapse dt; let q := b.dxs.hub.fq; ∃ isNode, ∃ subj, ∃ v, let x : Part := ⟨isNode, subj⟩;
      b.votesOn x = [v] ∧ b.recorder (some x) = true ∧ b.faulty x = false ∧ v.since + b.loneTo ≤ b.now ∧ ((∀ d ∈ q.due, d.1 ≠ x)) ∧
      b.presentVoters.length = 2) ∧
    (∃ s : State, ∃ dt : Nat, let b := s.hall.elapse dt; let q := b.dxs.hub.fq; ∃ isNode, ∃ subj, ∃ v, let x : Part := ⟨isNode, subj⟩;
      b.votesOn x = [v] ∧ b.recorder (some x) = true ∧ b.faulty x = false ∧ v.since + b.loneTo ≤ b.now ∧ ((∀ d ∈ q.due, d.1 ≠ x)) ∧
      b.presentVoters.length = 3 ∧ x ∉ q.disputed) ∧
    (∃ s : State, ∃ dt : Nat, let b := s.hall.elapse dt; let q := b.dxs.hub.fq; ∃ isNode, ∃ subj, ∃ kind, let x : Part := ⟨isNode, subj⟩;
      (q.due.find? fun d => d.1 == x) = some (x, kind) ∧ kind = Vk.disputed) ∧
    (∃ s : State, ∃ dt : Nat, let b := s.hall.elapse dt; let q := b.dxs.hub.fq; ∃ isNode, ∃ subj, ∃ kind, let x : Part := ⟨isNode, subj⟩;
      (q.due.find? fun d => d.1 == x) = some (x, kind) ∧ ∃ v, kind = Vk.faulty ∧ v < 3 ∧ v ≠ b.dxs.role.voter ∧ b.voterPresent v = true ∧
      x ≠ Part.dxs v) ∧
    (∃ s : State, ∃ dt : Nat, let b := s.hall.elapse dt; let q := b.dxs.hub.fq; ∃ isNode, ∃ subj, ∃ kind, let x : Part := ⟨isNode, subj⟩;
      (q.due.find? fun d => d.1 == x) = some (x, kind) ∧
      let noOther := ∀ v, v < 3 → v ≠ b.dxs.role.voter → bit (b.reg .dxs Reg.DXS_FQ_QUORUM).toNat v = false ∨ x = Part.dxs v; ∃ r,
      kind = Vk.faulty ∧ noOther ∧ q.acts = [] ∧ b.recOfPart x = some r) ∧
    (∃ s : State, ∃ dt : Nat, let b := s.hall.elapse dt; let q := b.dxs.hub.fq; ∃ isNode, ∃ subj, ∃ kind, let x : Part := ⟨isNode, subj⟩;
      (q.due.find? fun d => d.1 == x) = some (x, kind) ∧
      let noOther := ∀ v, v < 3 → v ≠ b.dxs.role.voter → bit (b.reg .dxs Reg.DXS_FQ_QUORUM).toNat v = false ∨ x = Part.dxs v;
      kind = Vk.faulty ∧ noOther ∧ q.acts = [] ∧ x = Part.dxs b.otherRoot ∧ isRoot b.dxs.role = true) ∧
    (∃ s : State, ∃ dt : Nat, let b := s.hall.elapse dt; ∃ r, ∃ rest, InboxHead b .dxs .fence r rest) ∧
    (∃ s : State, ∃ dt : Nat, let b := s.hall.elapse dt; ∃ w : Word, isRoot b.dxs.role = true ∧
      let j := (b.reg .dxs Reg.DXS_FQ_JOBSEL).toNat; (∃ c ∈ (b.job j).slots, c.epoch ≠ 0 ∧ c.fits = true ∧ c.epoch % 2 ^ 32 = w.toNat)) :=
  ⟨⟨W (wIn .dxs 2 0 ⟨.vote, 4101, 0, 99, 6⟩ ∘ wAct), 0, ⟨2, 0, ⟨.vote, 4101, 0, 99, 6⟩, false⟩, [], by decide +kernel⟩,
    ⟨W (wAct), 0, by decide +kernel⟩,
    ⟨W (wNow (10 ^ 9) ∘ wHub (fun h => { h with fq := { h.fq with votes := [⟨1, ⟨false, 4101⟩, 0, 0, 0⟩] } }) ∘
      wReg .dxs Reg.DXS_FQ_QUORUM 0 3 ∘ wAct), 0, false, 4101, ⟨1, ⟨false, 4101⟩, 0, 0, 0⟩, by decide +kernel⟩,
    ⟨W (wNow (10 ^ 9) ∘ wHub (fun h => { h with fq := { h.fq with votes := [⟨1, ⟨false, 4101⟩, 0, 0, 0⟩] } }) ∘ wAct), 0, false, 4101, ⟨1,
      ⟨false, 4101⟩, 0, 0, 0⟩, by decide +kernel⟩,
    ⟨W (wHub (fun h => { h with fq := { h.fq with due := [(⟨false, 4101⟩, Vk.disputed)] } }) ∘ wAct), 0, false, 4101, Vk.disputed,
      by decide +kernel⟩,
    ⟨W (wHub (fun h => { h with fq := { h.fq with due := [(⟨false, 4101⟩, Vk.faulty)] } }) ∘ wSJob (fun x => x) ∘ wAct), 0, false, 4101,
      Vk.faulty, by decide +kernel, 2, by decide +kernel⟩,
    ⟨W (wHub (fun h => { h with fq := { h.fq with due := [(⟨false, 4101⟩, Vk.faulty)] } }) ∘ wReg .dxs Reg.DXS_FQ_QUORUM 0 1 ∘
      wReg .dxs Reg.DXS_FQ_J_SEALED 18 6 ∘ wSJob (fun x => x) ∘ wAct), 0, false, 4101, Vk.faulty, by decide +kernel, 0, by decide +kernel⟩,
    ⟨W (wHub (fun h => { h with fq := { h.fq with due := [(⟨true, 0⟩, Vk.faulty)] } }) ∘ wReg .dxs Reg.DXS_FQ_QUORUM 0 3 ∘ wHall .rootB),
      0, true, 0, Vk.faulty, by decide +kernel⟩,
    ⟨W (wUp .dxs 0 ∘ wIn .dxs 2 0 ⟨.fence, 0, 0, 0, 7⟩ ∘ wHall .rootB), 0, ⟨2, 0, ⟨.fence, 0, 0, 0, 7⟩, false⟩, [], by decide +kernel⟩,
    ⟨W (wReg .dxs Reg.DXS_FQ_JOBSEL 0 18 ∘ wSJob (fun x => { x with slots := [⟨6, true, 0, 0, false⟩] }) ∘ wAct), 0, 6, by decide +kernel⟩⟩

set_option maxRecDepth 8000 in
theorem witness_JobCommands :
    (∃ s : State, ∃ dt : Nat, ∃ mb : Nat, let b := s.hall.elapse dt; let j := b.cmdJob mb; let bs := b.buf mb;
      let is cmd := Commanded b mb cmd; ∃ base, ∃ unready, is Cmd.jobLoad ∧ b.chanAble .dxs chanMbox = true ∧ b.checkLoad j bs = .ok base ∧
      b.diesUnready j unready = false) ∧
    (∃ s : State, ∃ dt : Nat, ∃ mb : Nat, let b := s.hall.elapse dt; let j := b.cmdJob mb; let bs := b.buf mb;
      let is cmd := Commanded b mb cmd; ∃ base, ∃ unready, is Cmd.jobLoad ∧ b.chanAble .dxs chanMbox = true ∧ b.checkLoad j bs = .ok base ∧
      b.diesUnready j unready = true) ∧
    (∃ s : State, ∃ dt : Nat, ∃ mb : Nat, let b := s.hall.elapse dt; let j := b.cmdJob mb; let x := b.job j;
      let is cmd := Commanded b mb cmd; is Cmd.jobStart ∧ x.st = .loaded) ∧
    (∃ s : State, ∃ dt : Nat, ∃ mb : Nat, let b := s.hall.elapse dt; let j := b.cmdJob mb; let x := b.job j;
      let is cmd := Commanded b mb cmd; is Cmd.jobStart ∧ x.st ≠ .loaded) ∧
    (∃ s : State, ∃ dt : Nat, ∃ mb : Nat, let b := s.hall.elapse dt; let j := b.cmdJob mb; let x := b.job j;
      let is cmd := Commanded b mb cmd; is Cmd.jobPause ∧ b.isAccepted mb = false ∧ x.active = true ∧ x.stopped = false) ∧
    (∃ s : State, ∃ dt : Nat, ∃ mb : Nat, let b := s.hall.elapse dt; let j := b.cmdJob mb; let x := b.job j;
      let is cmd := Commanded b mb cmd; is Cmd.jobPause ∧ b.isAccepted mb = true ∧ x.stopped = false ∧ x.st = .paused) ∧
    (∃ s : State, ∃ dt : Nat, ∃ mb : Nat, let b := s.hall.elapse dt; let j := b.cmdJob mb; let x := b.job j;
      let is cmd := Commanded b mb cmd; is Cmd.jobPause ∧ b.isAccepted mb = false ∧ (x.active = false ∨ x.stopped = true)) ∧
    (∃ s : State, ∃ dt : Nat, ∃ mb : Nat, let b := s.hall.elapse dt; let j := b.cmdJob mb; let x := b.job j;
      let is cmd := Commanded b mb cmd; is Cmd.jobResume ∧ x.st = .paused ∧ x.stopped = false ∧ b.binding j = false ∧
      let logs := if x.resumed.logging then x.logs else []; ∃ p, b.runsJob j = true ∧ b.soloNow = false ∧ b.crossPort = some p ∧
      (b.port .dxs p).st.discards = false ∧ b.logFits j (bytesOf logs) = true ∧ b.evFits (32 * x.events.length) = true) ∧
    (∃ s : State, ∃ dt : Nat, ∃ mb : Nat, let b := s.hall.elapse dt; let j := b.cmdJob mb; let x := b.job j;
      let is cmd := Commanded b mb cmd; is Cmd.jobUnload ∧ (x.active = false ∨ x.stopped = true)) ∧
    (∃ s : State, ∃ dt : Nat, ∃ mb : Nat, let b := s.hall.elapse dt; let j := b.cmdJob mb; let x := b.job j;
      let is cmd := Commanded b mb cmd; ∃ held, ∃ lacking, is Cmd.jobSave ∧ x.st = .paused ∧ x.stopped = false ∧
      b.egressOpen j held = false ∧ b.undecided j = false ∧ b.undelivered j lacking = false ∧ b.chanAble .dxs chanMbox = true ∧
      let img := b.jobImage j x.folio; img.length ≤ b.pageAt mb 28 4) ∧
    (∃ s : State, ∃ dt : Nat, ∃ mb : Nat, let b := s.hall.elapse dt; let j := b.cmdJob mb; let x := b.job j;
      let is cmd := Commanded b mb cmd; ∃ held, is Cmd.jobSave ∧ x.st = .paused ∧ x.stopped = false ∧ b.egressOpen j held = true) ∧
    (∃ s : State, ∃ dt : Nat, ∃ mb : Nat, let b := s.hall.elapse dt; let j := b.cmdJob mb; let x := b.job j;
      let is cmd := Commanded b mb cmd; ∃ held, ∃ lacking, is Cmd.jobSave ∧ x.st = .paused ∧ x.stopped = false ∧
      b.egressOpen j held = false ∧ (b.undecided j = true ∨ b.undelivered j lacking = true)) ∧
    (∃ s : State, ∃ dt : Nat, ∃ mb : Nat, let b := s.hall.elapse dt; let j := b.cmdJob mb; let bs := b.buf mb;
      let is cmd := Commanded b mb cmd; ∃ base, ∃ ss, ∃ geoms, is Cmd.jobRestore ∧ b.isAccepted mb = false ∧
      b.chanAble .dxs chanMbox = true ∧ let prog := bs.take (b.arg mb 0 4); let img := bs.drop (b.arg mb 0 4);
      b.checkLoad j prog = .ok base ∧ imageSections img = some ss ∧ b.imageRefused j prog img ss geoms = none) ∧
    (∃ s : State, ∃ dt : Nat, ∃ mb : Nat, let b := s.hall.elapse dt; (b.takenCmd mb = some Cmd.jobRestore ∨
      b.takenCmd mb = some Cmd.jobRestart) ∧ b.isAccepted mb = true) ∧
    (∃ s : State, ∃ dt : Nat, ∃ mb : Nat, let b := s.hall.elapse dt; let j := b.cmdJob mb; let is cmd := Commanded b mb cmd; ∃ i, ∃ pos,
      ∃ r, ∃ geoms, ∃ unready, is Cmd.jobRestart ∧ b.isAccepted mb = false ∧ b.pairs mb = [(i, pos)] ∧ b.recAtPos pos = some r ∧
      b.restartRefused j [(i, pos)] geoms unready = none) ∧
    (∃ s : State, ∃ dt : Nat, ∃ mb : Nat, let b := s.hall.elapse dt; let j := b.cmdJob mb; let x := b.job j;
      let is cmd := Commanded b mb cmd; is Cmd.restoreDone ∧ x.rst.st = .restoring ∧ ((∀ i ∈ b.indices mb, i ∈ b.jobDies j)) ∧
      let left := x.rst.left.filter fun i => !(b.indices mb).contains i; (left ≠ [] ∨ x.rst.expelled ≠ [])) ∧
    (∃ s : State, ∃ dt : Nat, ∃ mb : Nat, let b := s.hall.elapse dt; let j := b.cmdJob mb; let x := b.job j;
      let is cmd := Commanded b mb cmd; is Cmd.restoreDone ∧ x.rst.st = .restoring ∧ ((∀ i ∈ b.indices mb, i ∈ b.jobDies j)) ∧
      let left := x.rst.left.filter fun i => !(b.indices mb).contains i; ∃ c, ∃ img, ∃ ss, left = [] ∧ x.rst.expelled = [] ∧
      b.target j = some (c, img) ∧ imageSections img = some ss) ∧
    (∃ s : State, ∃ dt : Nat, ∃ mb : Nat, let b := s.hall.elapse dt; b.copying mb = true ∧ b.isAccepted mb = false) :=
  ⟨⟨W ((fun b => wCmd Cmd.jobLoad ([]) ([]) (wProgImage) b) ∘ wHall2), 0, 3, 0, [], by decide +kernel, by decide +kernel,
    except_ok (by decide +kernel), by decide +kernel⟩,
    ⟨W ((fun b => wCmd Cmd.jobLoad ([]) ([]) (wProgImage) b) ∘ wHall2), 0, 3, 0, [4101], by decide +kernel, by decide +kernel,
      except_ok (by decide +kernel), by decide +kernel⟩,
    ⟨W ((fun b => wCmd Cmd.jobStart ([]) ([]) ([]) b) ∘ wJob 18 (fun x => { x with st := .loaded }) ∘ wHall2), 0, 3, by decide +kernel⟩,
    ⟨W ((fun b => wCmd Cmd.jobStart ([]) ([]) ([]) b) ∘ wJob 18 (fun x => { x with st := .running }) ∘ wHall2), 0, 3, by decide +kernel⟩,
    ⟨W ((fun b => wCmd Cmd.jobPause ([]) ([]) ([]) b) ∘ wJob 18 (fun x => { x with st := .running }) ∘ wHall2), 0, 3, by decide +kernel⟩,
    ⟨W ((fun b => wCmd Cmd.jobPause ([]) ([]) ([]) b) ∘ (fun b => b.updBn fun n => { n with accepted := [(3, 1)] }) ∘
      wJob 18 (fun x => { x with st := .paused, sn := 4, gone := true }) ∘ wHall2), 0, 3, by decide +kernel⟩,
    ⟨W ((fun b => wCmd Cmd.jobPause ([]) ([]) ([]) b) ∘ wJob 18 (fun x => { x with st := .paused }) ∘ wHall2), 0, 3, by decide +kernel⟩,
    ⟨W ((fun b => wCmd Cmd.jobResume ([]) ([]) ([]) b) ∘ wUp .dxs 2 ∘
      wPort .dxs 2 (fun q => { q with sh := { q.sh with credit := [64, 64, 64, 64] } }) ∘
      wJob 18 (fun x => { x with st := .paused, sn := 4, gone := true }) ∘ wHall2), 0, 3, by decide +kernel, by decide +kernel,
      by decide +kernel, by decide +kernel, 2, by decide +kernel⟩,
    ⟨W ((fun b => wCmd Cmd.jobUnload ([]) ([]) ([]) b) ∘ wJob 18 (fun x => { x with st := .paused, sn := 4, gone := true }) ∘ wHall2), 0,
      3, by decide +kernel⟩,
    ⟨W ((fun b => wCmd Cmd.jobSave ([]) ([]) (List.replicate 2000 0) b) ∘
      wJob 18 (fun x => { x with st := .paused, sn := 4, gone := true }) ∘ wHall2), 0, 3, [], [], by decide +kernel⟩,
    ⟨W ((fun b => wCmd Cmd.jobSave ([]) ([]) (List.replicate 2000 0) b) ∘
      wJob 18 (fun x => { x with st := .paused, sn := 4, gone := true }) ∘ wHall2), 0, 3, [4101], by decide +kernel⟩,
    ⟨W ((fun b => wCmd Cmd.jobSave ([]) ([]) (List.replicate 2000 0) b) ∘
      wJob 18 (fun x => { x with st := .paused, sn := 4, gone := true }) ∘
      wInst 7 4 (fun i => { i with live := true, sn := 4, outcome := 1 }) ∘ wFold ∘ wHall2), 0, 3, [], [(7, 4101)], by decide +kernel⟩,
    ⟨W ((fun b => wCmd Cmd.jobRestore (leBytes 4 wProgImage.length) ([]) (wProgImage ++ wSaved) b) ∘ wHall2), 0, 3, 0,
      (imageSections wSaved).getD [], [], by decide +kernel, by decide +kernel, by decide +kernel, except_ok (by decide +kernel),
      by decide +kernel⟩,
    ⟨W ((fun b => b.updBn fun n => { n with accepted := [(3, 1)] }) ∘
      (fun b => wCmd Cmd.jobRestore (leBytes 4 wProgImage.length) ([]) (wProgImage ++ wSaved) b) ∘ wHall2), 0, 3, by decide +kernel⟩,
    ⟨W ((fun b => wCmd Cmd.jobRestart (leBytes 4 1) (leBytes 4 4102 ++ leBytes 4 0x030B1B06) ([]) b) ∘
      (fun b => { b with dxs := { b.dxs with hub := { b.dxs.hub with bn := { b.dxs.hub.bn with topo := some { wTopo with dies := [⟨0x030B1B05, 4101, 18, true, 0xFFFF⟩, ⟨0x030B1B06, 4102, 18, false, 0xFFFF⟩] } } } } }) ∘
      wJob 18 (fun x => { x with st := .halted, rst := { x.rst with st := .stopped, expelled := [4102] } }) ∘ wHall2), 0, 3, 4102,
      51059462, 1, [], [], by decide +kernel⟩,
    ⟨W ((fun b => wCmd Cmd.restoreDone (leBytes 4 1) (leBytes 2 4102) ([]) b) ∘
      wJob 18 (fun x => { x with rst := { x.rst with st := .restoring, left := [4101, 4102], exposed := [4101, 4102] } }) ∘ wHall2), 0, 3,
      by decide +kernel⟩,
    ⟨W ((fun b => wCmd Cmd.restoreDone (leBytes 4 1) (leBytes 2 4102) ([]) b) ∘ wReg .dxs Reg.DXS_FQ_J_TARGET 18 6 ∘
      wReg .dxs Reg.DXS_FQ_J_CK_SLOT 18 4096 ∘
      wJob 18 (fun x => { x with slots := [⟨6, true, 0, 0, true⟩], rst := { x.rst with st := .restoring, left := [4102], exposed := [4102] } }) ∘
      (fun b => b.updHub fun h => { h with host := memWriteN h.host 0 (wSaved) }) ∘ wHall2), 0, 3, by decide +kernel, by decide +kernel,
      by decide +kernel, ⟨6, true, 0, 0, true⟩, wSaved, (imageSections wSaved).getD [], by decide +kernel⟩,
    ⟨W ((fun b => b.updBn fun n => { n with rem := [⟨1, 0, 0, 0, 0, 1, [], .copy 3, none, none, none⟩] }) ∘
      (fun b => wCmd Cmd.jobLoad ([]) ([]) ([]) b) ∘ wHall2), 0, 3, by decide +kernel⟩⟩

set_option maxRecDepth 8000 in
theorem witness_HallCommands :
    (∃ s : State, ∃ dt : Nat, ∃ mb : Nat, let b := s.hall.elapse dt; mb < 16 ∧ b.hub.bn.boot = 1 ∧ b.own mb = Own.posted ∧ ((∀ m, m < 16 →
      m ≠ mb → b.own m ≠ Own.posted)) ∧ let cmd := b.pageAt mb 16 2; let cls := b.pageAt mb 8 1;
      let bare := b.pageAt mb 9 1 = 0 ∧ b.pageAt mb 19 1 = 0; cls = 0 ∧ bare ∧ cmd ≠ 0 ∧ cmd ≤ Cmd.status ∧ b.actingRoot = true ∧
      b.cmdBusy mb = false) ∧
    (∃ s : State, ∃ dt : Nat, ∃ mb : Nat, let b := s.hall.elapse dt; mb < 16 ∧ b.hub.bn.boot = 1 ∧ b.own mb = Own.posted ∧ ((∀ m, m < 16 →
      m ≠ mb → b.own m ≠ Own.posted)) ∧ let cmd := b.pageAt mb 16 2; let cls := b.pageAt mb 8 1;
      let bare := b.pageAt mb 9 1 = 0 ∧ b.pageAt mb 19 1 = 0; cls = 0 ∧ bare ∧ cmd ≠ 0 ∧ cmd < Cmd.status ∧ cmd ≠ Cmd.remote ∧
      b.actingRoot = false) ∧
    (∃ s : State, ∃ dt : Nat, ∃ mb : Nat, let b := s.hall.elapse dt; mb < 16 ∧ b.hub.bn.boot = 1 ∧ b.own mb = Own.posted ∧ ((∀ m, m < 16 →
      m ≠ mb → b.own m ≠ Own.posted)) ∧ let cls := b.pageAt mb 8 1; cls = 1 ∧ b.pageAt mb 16 4 = 0 ∧ 1 ≤ b.nrec mb ∧ b.nrec mb ≤ 64 ∧
      b.actingRoot = true ∧ recBad (b.page mb 64 48) = false) ∧
    (∃ s : State, ∃ dt : Nat, ∃ mb : Nat, let b := s.hall.elapse dt; ∃ off, mb < 16 ∧ off < 4096 ∧ b.sm.perst = true ∧
      b.sm.powered = true ∧ b.sm.prst = true ∧ (b.own mb = Own.host ∨ b.own mb = Own.done)) ∧
    (∃ s : State, ∃ dt : Nat, ∃ mb : Nat, let b := s.hall.elapse dt; ∃ off, mb < 16 ∧ off < 4096 ∧ b.sm.perst = true ∧
      b.sm.powered = true ∧ b.sm.prst = true ∧ (b.own mb = Own.posted ∨ b.own mb = Own.taken)) ∧
    (∃ s : State, ∃ dt : Nat, ∃ mb : Nat, let b := s.hall.elapse dt; let is cmd := Commanded b mb cmd; is Cmd.status) ∧
    (∃ s : State, ∃ dt : Nat, ∃ mb : Nat, let b := s.hall.elapse dt; let is cmd := Commanded b mb cmd; let bs := b.buf mb;
      is Cmd.topoLoad ∧ b.loadedJobs = [] ∧ b.chanAble .dxs chanMbox = true ∧ topoIntact bs = true ∧ (topoOf bs).consistent = true ∧
      b.recMatches (topoOf bs) = true) ∧
    (∃ s : State, ∃ dt : Nat, ∃ mb : Nat, let b := s.hall.elapse dt; let is cmd := Commanded b mb cmd; ∃ p, is Cmd.reinstate ∧
      b.reinstated mb = some p ∧ b.answersAgain p = true) ∧
    (∃ s : State, ∃ dt : Nat, ∃ mb : Nat, let b := s.hall.elapse dt; let is cmd := Commanded b mb cmd; is Cmd.handback ∧
      b.dxs.role = .rootB ∧ b.actingRoot = true ∧ b.partnerLocked = true) ∧
    (∃ s : State, ∃ dt : Nat, ∃ mb : Nat, let b := s.hall.elapse dt; let is cmd := Commanded b mb cmd; is Cmd.handback ∧
      (b.dxs.role ≠ .rootB ∨ b.actingRoot = false ∨ b.partnerLocked = false)) ∧
    (∃ s : State, ∃ dt : Nat, let b := s.hall.elapse dt; ∃ role, isRoot b.dxs.role = true ∧ b.dxs.root.roleDue = some role) ∧
    (∃ s : State, ∃ dt : Nat, let b := s.hall.elapse dt; b.dxs.role = .rootA ∧ b.actingRoot = false ∧ (b.clk .dxs).lock = .locked) ∧
    (∃ s : State, ∃ dt : Nat, let b := s.hall.elapse dt; b.dxs.role = .rootA ∧ b.actingRoot = false ∧ (b.clk .dxs).lock ≠ .locked) ∧
    (∃ s : State, ∃ dt : Nat, ∃ mb : Nat, let b := s.hall.elapse dt; let is cmd := Commanded b mb cmd; is Cmd.funcReinit ∧
      let f := b.pageAt mb 32 1; let p := b.pageAt mb 33 1; f = 1 ∧ p < 48) ∧
    (∃ s : State, ∃ dt : Nat, ∃ mb : Nat, let b := s.hall.elapse dt; let is cmd := Commanded b mb cmd; is Cmd.funcReinit ∧
      let f := b.pageAt mb 32 1; f = 2 ∧ ((∀ j ∈ b.loadedJobs, (b.job j).sess = false ∨ (b.job j).active = false))) ∧
    (∃ s : State, ∃ dt : Nat, ∃ mb : Nat, let b := s.hall.elapse dt; let is cmd := Commanded b mb cmd; is Cmd.funcReinit ∧
      let f := b.pageAt mb 32 1; f = 3) ∧
    (∃ s : State, ∃ dt : Nat, ∃ mb : Nat, let b := s.hall.elapse dt; let is cmd := Commanded b mb cmd; is Cmd.funcReinit ∧
      let f := b.pageAt mb 32 1; f = 4) ∧
    (∃ s : State, ∃ dt : Nat, ∃ mb : Nat, let b := s.hall.elapse dt; let is cmd := Commanded b mb cmd; is Cmd.ptpConfig ∧
      ptpArgsOk (b.page mb 32 32) = true ∧ b.ptpClash (b.pageAt mb 32 1) = false) ∧
    (∃ s : State, ∃ dt : Nat, ∃ mb : Nat, let b := s.hall.elapse dt; let is cmd := Commanded b mb cmd; is Cmd.remote ∧
      b.dxs.hub.bn.rem = [] ∧ let op := b.pageAt mb 32 1 % 4; let kind := b.pageAt mb 33 1; let count := b.pageAt mb 34 2;
      let addr := b.pageAt mb 40 4; op ≠ 0 ∧ kind ≤ 2 ∧ 1 ≤ count ∧ count ≤ 55 ∧ (op = 3 → count = 2) ∧ addr % 4 = 0) ∧
    (∃ s : State, ∃ dt : Nat, ∃ mb : Nat, let b := s.hall.elapse dt; let is cmd := Commanded b mb cmd; is Cmd.gatherDefine ∧
      let d := b.page mb 64 32; let l := listsOf d (b.page mb 96 4000); let g := leAt d 0 2;
      let x : GDef := ⟨d, sortNat (b.membersOf d l), sortNat l.dests, 0, [], []⟩; gdCount d ≤ inlineMax ∧ b.gatherRefused d l = none ∧
      b.foldRefused g x = none ∧ b.blocksShort g x = 0) ∧
    (∃ s : State, ∃ dt : Nat, ∃ mb : Nat, let b := s.hall.elapse dt; let is cmd := Commanded b mb cmd; is Cmd.gatherDefine ∧
      let d := b.page mb 64 32; let l := listsOf d (b.page mb 96 4000); let g := leAt d 0 2;
      let x : GDef := ⟨d, sortNat (b.membersOf d l), sortNat l.dests, 0, [], []⟩; gdCount d ≤ inlineMax ∧ b.gatherRefused d l = none ∧
      b.foldRefused g x = none ∧ 0 < b.blocksShort g x) ∧
    (∃ s : State, ∃ dt : Nat, ∃ mb : Nat, let b := s.hall.elapse dt; let is cmd := Commanded b mb cmd; is Cmd.foldDefine ∧
      let i := b.pageAt mb 32 2; let d := b.page mb 64 32; b.descRefused i d = none) :=
  ⟨⟨W ((fun b => wPage Own.posted 0 (Cmd.jobSave) 18 3 ([]) ([]) [] b) ∘ wHall2), 0, 3, by decide +kernel⟩,
    ⟨W ((fun b => wPage Own.posted 0 (Cmd.jobSave) 18 3 ([]) ([]) [] b) ∘ wHall .rootB), 0, 3, by decide +kernel⟩,
    ⟨W ((fun b => ((b.setPage 3 16 (leBytes 4 0)).setPage 3 9 [1])) ∘
      (fun b => wPage Own.posted 1 (0) 0 3 ([]) (cmdRec 2 0 9 2 18 4 1 (leBytes 12 0) 5 6) [] b) ∘ wHall2), 0, 3, by decide +kernel⟩,
    ⟨W (wOn ∘ (fun b => wPage Own.host 0 (0) 18 3 ([]) ([]) [] b) ∘ wHall2), 0, 3, 33, by decide +kernel⟩,
    ⟨W (wOn ∘ (fun b => wPage Own.posted 0 (0) 18 3 ([]) ([]) [] b) ∘ wHall2), 0, 3, 33, by decide +kernel⟩,
    ⟨W ((fun b => wCmd Cmd.status ([]) ([]) ([]) b) ∘ wHall2), 0, 3, by decide +kernel⟩,
    ⟨W ((fun b => wCmd Cmd.topoLoad ([]) ([]) (wTable [wNode 0 1 0, wNode 1 1 1, wNode 2 2 0]) b) ∘ wFlash 0xFFF000 (wNode 0 1 0) ∘
      wHall2), 0, 3, by decide +kernel⟩,
    ⟨W ((fun b => wCmd Cmd.reinstate (leBytes 2 0 ++ leBytes 2 4102 ++ leBytes 4 0x030B1B06) ([]) ([]) b) ∘
      (fun b => b.updFq fun q => { q with badRecs := [1] }) ∘ wHall2), 0, 3, ⟨false, 4102⟩, by decide +kernel⟩,
    ⟨W ((fun b => wCmd Cmd.handback ([]) ([]) ([]) b) ∘ wUp .dxs 2 ∘
      wPort .dxs 2 (fun q => { q with rx := { q.rx with lock := LockState.locked.code } }) ∘ wRoot (fun r => { r with acting := true }) ∘
      wHall .rootB), 0, 3, by decide +kernel⟩,
    ⟨W ((fun b => wCmd Cmd.handback ([]) ([]) ([]) b) ∘ wRoot (fun r => { r with acting := true }) ∘ wHall .rootB), 0, 3,
      by decide +kernel⟩,
    ⟨W (wRoot (fun r => { r with roleDue := some false }) ∘ wAct), 0, false, by decide +kernel⟩,
    ⟨W (wLock .dxs .locked ∘ wHall .rootA), 0, by decide +kernel⟩,
    ⟨W (wHall .rootA), 0, by decide +kernel⟩,
    ⟨W ((fun b => wCmd Cmd.funcReinit (leBytes 1 1 ++ leBytes 1 2) ([]) ([]) b) ∘ wUp .dxs 2 ∘ wHall2), 0, 3, by decide +kernel⟩,
    ⟨W ((fun b => wCmd Cmd.funcReinit (leBytes 1 2) ([]) ([]) b) ∘ wHall2), 0, 3, by decide +kernel⟩,
    ⟨W ((fun b => wCmd Cmd.funcReinit (leBytes 1 3) ([]) ([]) b) ∘ wHall2), 0, 3, by decide +kernel⟩,
    ⟨W ((fun b => wCmd Cmd.funcReinit (leBytes 1 4) ([]) ([]) b) ∘ (fun b => b.updChan .dxs 4 fun c => { c with st := .halted }) ∘ wHall2),
      0, 3, by decide +kernel⟩,
    ⟨W ((fun b => wCmd Cmd.ptpConfig (leBytes 1 2 ++ leBytes 1 1) ([]) ([]) b) ∘ wHall2), 0, 3, by decide +kernel⟩,
    ⟨W ((fun b => wCmd Cmd.remote (leBytes 1 1 ++ leBytes 1 0 ++ leBytes 2 4 ++ leBytes 4 77 ++ leBytes 4 64) ([]) ([]) b) ∘ wHall2), 0, 3,
      by decide +kernel⟩,
    ⟨W ((fun b => wCmd Cmd.gatherDefine ([]) (leBytes 2 9 ++ leBytes 1 0 ++ leBytes 1 18 ++ leBytes 4 2 ++ leBytes 24 0) ([]) b) ∘
      wReg .dxs Reg.GA_RANGE 18 (4 * 65536 + 8) ∘ wJob 18 (fun x => { x with st := .loaded }) ∘ wHall2), 0, 3, by decide +kernel⟩,
    ⟨W ((fun b => wCmd Cmd.gatherDefine ([]) (leBytes 2 9 ++ leBytes 1 4 ++ leBytes 1 18 ++ leBytes 4 2 ++ leBytes 16 0 ++ leBytes 4 5 ++
      leBytes 4 0) ([]) b) ∘ (fun b => b.updNode .dxs fun n => { n with dma := { n.dma with lent := 6144 } }) ∘
      wReg .dxs Reg.GA_RANGE 18 (4 * 65536 + 8) ∘ wReg .dxs Reg.DXS_FD_D_OP 5 0x80000000 ∘ wReg .dxs Reg.DXS_FD_D_ROWS 5 1 ∘
      wReg .dxs Reg.DXS_FD_D_COLS 5 16 ∘ wReg .dxs Reg.DXS_FD_D_D 5 2 ∘ wJob 18 (fun x => { x with st := .loaded }) ∘ wHall2), 0, 3,
      by decide +kernel⟩,
    ⟨W ((fun b => wCmd Cmd.foldDefine (leBytes 2 9) (withCrc (leBytes 1 0 ++ leBytes 1 0 ++ leBytes 1 0 ++ leBytes 1 0 ++ leBytes 1 0 ++
      leBytes 1 0 ++ leBytes 2 0 ++ leBytes 4 1 ++ leBytes 4 16 ++ leBytes 12 0)) ([]) b) ∘ wHall2), 0, 3, by decide +kernel⟩⟩

theorem witness_RemoteAccess :
    (∃ s : State, ∃ dt : Nat, let b := s.hall.elapse dt; ∃ sd, ∃ r, ∃ rest, (b.node sd).rxSheets = r :: rest ∧ r.sheet.typ = tRemoteReq ∧
      r.port ≠ ownPort ∧ let q := remReq r; q.op = 1 ∧ b.reqInWindow sd q = true) ∧
    (∃ s : State, ∃ dt : Nat, let b := s.hall.elapse dt; ∃ sd, ∃ r, ∃ rest, (b.node sd).rxSheets = r :: rest ∧ r.sheet.typ = tRemoteReq ∧
      r.port ≠ ownPort ∧ let q := remReq r; q.op = 1 ∧ b.reqInWindow sd q = false) ∧
    (∃ s : State, ∃ dt : Nat, let b := s.hall.elapse dt; ∃ sd, ∃ r, ∃ rest, (b.node sd).rxSheets = r :: rest ∧ r.sheet.typ = tRemoteReq ∧
      r.port ≠ ownPort ∧ let q := remReq r; q.op = 2 ∧ b.reqInWindow sd q = true ∧ (¬(sd = .dxs ∧ (q.addr = copyAddr ∨
      isTriad b.dxs.role = true ∧ q.addr = verdictAddr ∧ q.count = 8)))) ∧
    (∃ s : State, ∃ dt : Nat, let b := s.hall.elapse dt; ∃ sd, ∃ r, ∃ rest, (b.node sd).rxSheets = r :: rest ∧ r.sheet.typ = tRemoteReq ∧
      r.port ≠ ownPort ∧ let q := remReq r; q.op = 2 ∧ b.reqInWindow sd q = true ∧ sd = .dxs ∧ isTriad b.dxs.role = true ∧
      q.addr = verdictAddr ∧ q.count = 8) ∧
    (∃ s : State, ∃ dt : Nat, let b := s.hall.elapse dt; ∃ sd, ∃ r, ∃ rest, (b.node sd).rxSheets = r :: rest ∧ r.sheet.typ = tRemoteReq ∧
      r.port ≠ ownPort ∧ let q := remReq r; q.op = 2 ∧ b.reqInWindow sd q = true ∧ sd = .dxs ∧ q.addr = copyAddr ∧
      let ws := q.words.take q.count; let i k := (ws.getD k 0).toNat;
      let bs := ((ws.drop 4).flatMap fun w => leBytes 4 w.toNat).take (i 2); i 3 = 0 ∧ bs.length < i 2) ∧
    (∃ s : State, ∃ dt : Nat, let b := s.hall.elapse dt; ∃ sd, ∃ r, ∃ rest, (b.node sd).rxSheets = r :: rest ∧ r.sheet.typ = tRemoteReq ∧
      r.port ≠ ownPort ∧ let q := remReq r; q.op = 2 ∧ b.reqInWindow sd q = true ∧ sd = .dxs ∧ q.addr = copyAddr ∧
      let ws := q.words.take q.count; let i k := (ws.getD k 0).toNat;
      let bs := ((ws.drop 4).flatMap fun w => leBytes 4 w.toNat).take (i 2); i 3 = 0 ∧ bs.length = i 2 ∧ i 0 = Ck.gdef) ∧
    (∃ s : State, ∃ dt : Nat, let b := s.hall.elapse dt; ∃ sd, ∃ r, ∃ rest, (b.node sd).rxSheets = r :: rest ∧ r.sheet.typ = tRemoteReq ∧
      r.port ≠ ownPort ∧ let q := remReq r; q.op = 3 ∧ b.reqInWindow sd q = true) ∧
    (∃ s : State, ∃ dt : Nat, let b := s.hall.elapse dt; ∃ r, ∃ rest, InboxHead b .dxs .remote r rest ∧ ((∀ x ∈ b.dxs.node.rxSheets,
      x.sheet.typ ≠ tRemoteRsp)) ∧ let st := bits r.mark.arg.toNat 7 0; ∃ t, ∃ mb, b.dxs.hub.bn.rem = [t] ∧ t.tag = r.mark.obj.toNat ∧
      t.sentAt ≠ none ∧ t.for_ = .mailbox mb ∧ t.op ≠ 1 ∧ st ≠ 3) ∧
    (∃ s : State, ∃ dt : Nat, let b := s.hall.elapse dt; ∃ r, ∃ rest, InboxHead b .dxs .remote r rest ∧ ((∀ x ∈ b.dxs.node.rxSheets,
      x.sheet.typ ≠ tRemoteRsp)) ∧ let st := bits r.mark.arg.toNat 7 0; ∃ t, ∃ mb, b.dxs.hub.bn.rem = [t] ∧ t.tag = r.mark.obj.toNat ∧
      t.sentAt ≠ none ∧ t.for_ = .mailbox mb ∧ ∃ ws, t.op = 1 ∧ st = 0 ∧ t.got = some ws ∧ ws.length = t.count) ∧
    (∃ s : State, ∃ dt : Nat, let b := s.hall.elapse dt; ∃ r, ∃ rest, InboxHead b .dxs .remote r rest ∧ ((∀ x ∈ b.dxs.node.rxSheets,
      x.sheet.typ ≠ tRemoteRsp)) ∧ let st := bits r.mark.arg.toNat 7 0; ∃ t, ∃ seq, b.dxs.hub.bn.rem = [t] ∧ t.tag = r.mark.obj.toNat ∧
      t.sentAt ≠ none ∧ t.for_ = .verdict seq ∧ t.op = 2 ∧ st = 0 ∧ ∃ x, ∃ c, ∃ rec_, b.dxs.hub.fq.acts = [(seq, .fault x c)] ∧
      b.recOfPart x = some rec_) ∧
    (∃ s : State, ∃ dt : Nat, let b := s.hall.elapse dt; ∃ r, ∃ rest, InboxHead b .dxs .remote r rest ∧ ((∀ x ∈ b.dxs.node.rxSheets,
      x.sheet.typ ≠ tRemoteRsp)) ∧ let st := bits r.mark.arg.toNat 7 0; ∃ t, ∃ seq, b.dxs.hub.bn.rem = [t] ∧ t.tag = r.mark.obj.toNat ∧
      t.sentAt ≠ none ∧ t.for_ = .verdict seq ∧ t.op = 2 ∧ st = 0 ∧ ∃ j, ∃ i, ∃ c, b.dxs.hub.fq.acts = [(seq, .seal j i c.epoch)] ∧
      (b.job j).slots[i]? = some c ∧ c.epoch ≠ 0) ∧
    (∃ s : State, ∃ dt : Nat, let b := s.hall.elapse dt; ∃ r, ∃ rest, InboxHead b .dxs .remote r rest ∧ ((∀ x ∈ b.dxs.node.rxSheets,
      x.sheet.typ ≠ tRemoteRsp)) ∧ let st := bits r.mark.arg.toNat 7 0; ∃ t, ∃ seq, b.dxs.hub.bn.rem = [t] ∧ t.tag = r.mark.obj.toNat ∧
      t.sentAt ≠ none ∧ t.for_ = .verdict seq ∧ t.op = 2 ∧ st = 0 ∧ ∃ j, b.dxs.hub.fq.acts = [(seq, .jobLost j)]) ∧
    (∃ s : State, ∃ dt : Nat, let b := s.hall.elapse dt; ∃ r, ∃ rest, InboxHead b .dxs .remote r rest ∧ ((∀ x ∈ b.dxs.node.rxSheets,
      x.sheet.typ ≠ tRemoteRsp)) ∧ let st := bits r.mark.arg.toNat 7 0; ∃ t, ∃ seq, b.dxs.hub.bn.rem = [t] ∧ t.tag = r.mark.obj.toNat ∧
      t.sentAt ≠ none ∧ t.for_ = .verdict seq ∧ t.op = 2 ∧ st = 0 ∧ ∃ j, ∃ e, b.dxs.hub.fq.acts = [(seq, .fallback j e)]) ∧
    (∃ s : State, ∃ dt : Nat, let b := s.hall.elapse dt; ∃ r, ∃ rest, InboxHead b .dxs .remote r rest ∧ ((∀ x ∈ b.dxs.node.rxSheets,
      x.sheet.typ ≠ tRemoteRsp)) ∧ ∃ t, ∃ mb, b.dxs.hub.bn.rem = [t] ∧ t.tag = r.mark.obj.toNat ∧ t.sentAt ≠ none ∧ t.for_ = .copy mb ∧
      t.op = 2 ∧ b.own mb = Own.taken ∧ b.isAccepted mb = false) ∧
    (∃ s : State, ∃ dt : Nat, let b := s.hall.elapse dt; ∃ r, ∃ rest, InboxHead b .dxs .remote r rest ∧ ((∀ x ∈ b.dxs.node.rxSheets,
      x.sheet.typ ≠ tRemoteRsp)) ∧ ((∀ t ∈ b.dxs.hub.bn.rem, t.tag ≠ r.mark.obj.toNat ∨ t.sentAt = none))) ∧
    (∃ s : State, ∃ dt : Nat, let b := s.hall.elapse dt; ∃ t, ∃ a, b.dxs.hub.bn.rem = [t] ∧ t.sentAt = some a ∧ a + b.remoteTo ≤ b.now) ∧
    (∃ s : State, ∃ dt : Nat, let b := s.hall.elapse dt; ∃ m, ∃ b', b.actingRoot = true ∧ b.takeMessage .dxs tLog = some (m, b') ∧
      let q := b.trendRing; let next := if q.size - (q.head + 96) < 96 then 0 else q.head + 96; leAt m.bytes 0 1 = lkTrend ∧
      leAt m.bytes 4 2 = 1 ∧ 96 ≤ q.size - q.head ∧ next ≠ (if q.size - q.tail < 96 then 0 else q.tail) ∧
      b.chanAble .dxs chanTrend = true) ∧
    (∃ s : State, ∃ dt : Nat, let b := s.hall.elapse dt; ∃ m, ∃ b', b.actingRoot = true ∧ b.takeMessage .dxs tLog = some (m, b') ∧
      leAt m.bytes 0 1 ≠ lkTrend) ∧
    (∃ s : State, ∃ dt : Nat, let b := s.hall.elapse dt; ∃ x, ∃ rest, ∃ p, b.logWaiting = x :: rest ∧ b.logPort = some p ∧
      x.since + 1000000000 ≤ b.now) :=
  ⟨⟨W ((fun b => b.updNode .dxs fun n => { n with rxSheets := [(⟨0, { typ := tRemoteReq, chan := 3, first := true, last := true, len := 64, obj := 77, tag := 4, body := leBytes 2 1 ++ leBytes 2 2 ++ leBytes 4 0 ++ leBytes 4 4096 ++ leBytes 4 0 ++ ([]).flatMap (leBytes 4) }, false⟩ : RxSheet)] }) ∘
    wUp .dxs 0 ∘ wAct), 0, .dxs, (⟨0,
    { typ := tRemoteReq, chan := 3, first := true, last := true, len := 64, obj := 77, tag := 4, body := leBytes 2 1 ++ leBytes 2 2 ++ leBytes 4 0 ++ leBytes 4 4096 ++ leBytes 4 0 ++ ([]).flatMap (leBytes 4) },
    false⟩ : RxSheet), [], by decide +kernel⟩,
    ⟨W ((fun b => b.updNode .dxs fun n => { n with rxSheets := [(⟨0, { typ := tRemoteReq, chan := 3, first := true, last := true, len := 64, obj := 77, tag := 4, body := leBytes 2 1 ++ leBytes 2 2 ++ leBytes 4 0 ++ leBytes 4 (2^22) ++ leBytes 4 0 ++ ([]).flatMap (leBytes 4) }, false⟩ : RxSheet)] }) ∘
      wUp .dxs 0 ∘ wAct), 0, .dxs, (⟨0,
      { typ := tRemoteReq, chan := 3, first := true, last := true, len := 64, obj := 77, tag := 4, body := leBytes 2 1 ++ leBytes 2 2 ++ leBytes 4 0 ++ leBytes 4 (2^22) ++ leBytes 4 0 ++ ([]).flatMap (leBytes 4) },
      false⟩ : RxSheet), [], by decide +kernel⟩,
    ⟨W ((fun b => b.updNode .dxs fun n => { n with rxSheets := [(⟨0, { typ := tRemoteReq, chan := 3, first := true, last := true, len := 64, obj := 77, tag := 4, body := leBytes 2 2 ++ leBytes 2 1 ++ leBytes 4 0 ++ leBytes 4 Reg.FT_JOBSEL ++ leBytes 4 0 ++ ([5]).flatMap (leBytes 4) }, false⟩ : RxSheet)] }) ∘
      wUp .dxs 0 ∘ wAct), 0, .dxs, (⟨0,
      { typ := tRemoteReq, chan := 3, first := true, last := true, len := 64, obj := 77, tag := 4, body := leBytes 2 2 ++ leBytes 2 1 ++ leBytes 4 0 ++ leBytes 4 Reg.FT_JOBSEL ++ leBytes 4 0 ++ ([5]).flatMap (leBytes 4) },
      false⟩ : RxSheet), [], by decide +kernel⟩,
    ⟨W ((fun b => b.updNode .dxs fun n => { n with rxSheets := [(⟨0, { typ := tRemoteReq, chan := 3, first := true, last := true, len := 64, obj := 77, tag := 4, body := leBytes 2 2 ++ leBytes 2 8 ++ leBytes 4 0 ++ leBytes 4 verdictAddr ++ leBytes 4 0 ++ ([1,2,3,4,5,6,7,8]).flatMap (leBytes 4) }, false⟩ : RxSheet)] }) ∘
      wUp .dxs 0 ∘ wAct), 0, .dxs, (⟨0,
      { typ := tRemoteReq, chan := 3, first := true, last := true, len := 64, obj := 77, tag := 4, body := leBytes 2 2 ++ leBytes 2 8 ++ leBytes 4 0 ++ leBytes 4 verdictAddr ++ leBytes 4 0 ++ ([1,2,3,4,5,6,7,8]).flatMap (leBytes 4) },
      false⟩ : RxSheet), [], by decide +kernel⟩,
    ⟨W ((fun b => b.updNode .dxs fun n => { n with rxSheets := [(⟨0, { typ := tRemoteReq, chan := 3, first := true, last := true, len := 64, obj := 77, tag := 4, body := leBytes 2 2 ++ leBytes 2 5 ++ leBytes 4 0 ++ leBytes 4 copyAddr ++ leBytes 4 0 ++ ([1,9,8,0,77]).flatMap (leBytes 4) }, false⟩ : RxSheet)] }) ∘
      wUp .dxs 0 ∘ wAct), 0, .dxs, (⟨0,
      { typ := tRemoteReq, chan := 3, first := true, last := true, len := 64, obj := 77, tag := 4, body := leBytes 2 2 ++ leBytes 2 5 ++ leBytes 4 0 ++ leBytes 4 copyAddr ++ leBytes 4 0 ++ ([1,9,8,0,77]).flatMap (leBytes 4) },
      false⟩ : RxSheet), [], by decide +kernel⟩,
    ⟨W ((fun b => b.updNode .dxs fun n => { n with rxSheets := [(⟨0, { typ := tRemoteReq, chan := 3, first := true, last := true, len := 64, obj := 77, tag := 4, body := leBytes 2 2 ++ leBytes 2 16 ++ leBytes 4 0 ++ leBytes 4 copyAddr ++ leBytes 4 0 ++ ([1,9,48,0,0x12040009,2,0,0,0,0,5,0,0,0,0,0]).flatMap (leBytes 4) }, false⟩ : RxSheet)] }) ∘
      wUp .dxs 0 ∘ wAct), 0, .dxs, (⟨0,
      { typ := tRemoteReq, chan := 3, first := true, last := true, len := 64, obj := 77, tag := 4, body := leBytes 2 2 ++ leBytes 2 16 ++ leBytes 4 0 ++ leBytes 4 copyAddr ++ leBytes 4 0 ++ ([1,9,48,0,0x12040009,2,0,0,0,0,5,0,0,0,0,0]).flatMap (leBytes 4) },
      false⟩ : RxSheet), [], by decide +kernel⟩,
    ⟨W ((fun b => b.updNode .dxs fun n => { n with rxSheets := [(⟨0, { typ := tRemoteReq, chan := 3, first := true, last := true, len := 64, obj := 77, tag := 4, body := leBytes 2 3 ++ leBytes 2 2 ++ leBytes 4 0 ++ leBytes 4 Reg.SP_EPOCH ++ leBytes 4 0 ++ ([1,2]).flatMap (leBytes 4) }, false⟩ : RxSheet)] }) ∘
      wUp .dxs 0 ∘ wAct), 0, .dxs, (⟨0,
      { typ := tRemoteReq, chan := 3, first := true, last := true, len := 64, obj := 77, tag := 4, body := leBytes 2 3 ++ leBytes 2 2 ++ leBytes 4 0 ++ leBytes 4 Reg.SP_EPOCH ++ leBytes 4 0 ++ ([1,2]).flatMap (leBytes 4) },
      false⟩ : RxSheet), [], by decide +kernel⟩,
    ⟨W (wIn .dxs 2 0 ⟨.remote, 77, 0, 0, 256⟩ ∘
      (fun b => b.updBn fun n => { n with rem := [(⟨77, 2, 0, 4, 64, 1, [], .mailbox 3, some 0, none, none⟩ : RemTx)] }) ∘
      (fun b => wCmd Cmd.remote ([]) ([]) ([]) b) ∘ wHall2), 0, ⟨2, 0, ⟨.remote, 77, 0, 0, 256⟩, false⟩, [], by decide +kernel,
      by decide +kernel, (⟨77, 2, 0, 4, 64, 1, [], .mailbox 3, some 0, none, none⟩ : RemTx), 3, by decide +kernel⟩,
    ⟨W (wIn .dxs 2 0 ⟨.remote, 77, 0, 0, 256⟩ ∘
      (fun b => b.updBn fun n => { n with rem := [(⟨77, 1, 0, 4, 64, 1, [], .mailbox 3, some 0, some [w32 5], none⟩ : RemTx)] }) ∘
      (fun b => wCmd Cmd.remote ([]) ([]) ([]) b) ∘ wHall2), 0, ⟨2, 0, ⟨.remote, 77, 0, 0, 256⟩, false⟩, [], by decide +kernel,
      by decide +kernel, (⟨77, 1, 0, 4, 64, 1, [], .mailbox 3, some 0, some [w32 5], none⟩ : RemTx), 3, by decide +kernel,
      by decide +kernel, by decide +kernel, by decide +kernel, [w32 5], by decide +kernel⟩,
    ⟨W (wHub (fun h => { h with fq := { h.fq with acts := [⟨5, .fault ⟨false, 4101⟩ 3⟩] } }) ∘
      wSJob (fun x => { x with slots := [⟨6, true, 0, 0, false⟩] }) ∘ wIn .dxs 2 0 ⟨.remote, 77, 0, 0, 0⟩ ∘
      (fun b => b.updBn fun n => { n with rem := [(⟨77, 2, 0, 4, 64, 8, [], .verdict 5, some 0, none, none⟩ : RemTx)] }) ∘
      (fun b => wCmd Cmd.remote ([]) ([]) ([]) b) ∘ wHall2), 0, ⟨2, 0, ⟨.remote, 77, 0, 0, 0⟩, false⟩, [], by decide +kernel,
      by decide +kernel, (⟨77, 2, 0, 4, 64, 8, [], .verdict 5, some 0, none, none⟩ : RemTx), 5, by decide +kernel, by decide +kernel,
      by decide +kernel, by decide +kernel, by decide +kernel, by decide +kernel, ⟨false, 4101⟩, 3, 0, by decide +kernel⟩,
    ⟨W (wHub (fun h => { h with fq := { h.fq with acts := [⟨5, .seal 18 0 6⟩] } }) ∘
      wSJob (fun x => { x with slots := [⟨6, true, 0, 0, false⟩] }) ∘ wIn .dxs 2 0 ⟨.remote, 77, 0, 0, 0⟩ ∘
      (fun b => b.updBn fun n => { n with rem := [(⟨77, 2, 0, 4, 64, 8, [], .verdict 5, some 0, none, none⟩ : RemTx)] }) ∘
      (fun b => wCmd Cmd.remote ([]) ([]) ([]) b) ∘ wHall2), 0, ⟨2, 0, ⟨.remote, 77, 0, 0, 0⟩, false⟩, [], by decide +kernel,
      by decide +kernel, (⟨77, 2, 0, 4, 64, 8, [], .verdict 5, some 0, none, none⟩ : RemTx), 5, by decide +kernel, by decide +kernel,
      by decide +kernel, by decide +kernel, by decide +kernel, by decide +kernel, 18, 0, ⟨6, true, 0, 0, false⟩, by decide +kernel⟩,
    ⟨W (wHub (fun h => { h with fq := { h.fq with acts := [⟨5, .jobLost 18⟩] } }) ∘
      wSJob (fun x => { x with slots := [⟨6, true, 0, 0, false⟩] }) ∘ wIn .dxs 2 0 ⟨.remote, 77, 0, 0, 0⟩ ∘
      (fun b => b.updBn fun n => { n with rem := [(⟨77, 2, 0, 4, 64, 8, [], .verdict 5, some 0, none, none⟩ : RemTx)] }) ∘
      (fun b => wCmd Cmd.remote ([]) ([]) ([]) b) ∘ wHall2), 0, ⟨2, 0, ⟨.remote, 77, 0, 0, 0⟩, false⟩, [], by decide +kernel,
      by decide +kernel, (⟨77, 2, 0, 4, 64, 8, [], .verdict 5, some 0, none, none⟩ : RemTx), 5, by decide +kernel, by decide +kernel,
      by decide +kernel, by decide +kernel, by decide +kernel, by decide +kernel, 18, by decide +kernel⟩,
    ⟨W (wHub (fun h => { h with fq := { h.fq with acts := [⟨5, .fallback 18 3⟩] } }) ∘
      wSJob (fun x => { x with slots := [⟨6, true, 0, 0, false⟩] }) ∘ wIn .dxs 2 0 ⟨.remote, 77, 0, 0, 0⟩ ∘
      (fun b => b.updBn fun n => { n with rem := [(⟨77, 2, 0, 4, 64, 8, [], .verdict 5, some 0, none, none⟩ : RemTx)] }) ∘
      (fun b => wCmd Cmd.remote ([]) ([]) ([]) b) ∘ wHall2), 0, ⟨2, 0, ⟨.remote, 77, 0, 0, 0⟩, false⟩, [], by decide +kernel,
      by decide +kernel, (⟨77, 2, 0, 4, 64, 8, [], .verdict 5, some 0, none, none⟩ : RemTx), 5, by decide +kernel, by decide +kernel,
      by decide +kernel, by decide +kernel, by decide +kernel, by decide +kernel, 18, 3, by decide +kernel⟩,
    ⟨W (wIn .dxs 2 0 ⟨.remote, 77, 0, 0, 0⟩ ∘
      (fun b => b.updBn fun n => { n with rem := [(⟨77, 2, 0, 4, 64, 1, [], .copy 3, some 0, none, none⟩ : RemTx)] }) ∘
      (fun b => wCmd Cmd.remote ([]) ([]) ([]) b) ∘ wHall2), 0, ⟨2, 0, ⟨.remote, 77, 0, 0, 0⟩, false⟩, [], by decide +kernel,
      by decide +kernel, (⟨77, 2, 0, 4, 64, 1, [], .copy 3, some 0, none, none⟩ : RemTx), 3, by decide +kernel⟩,
    ⟨W (wIn .dxs 2 0 ⟨.remote, 77, 0, 0, 256⟩ ∘
      (fun b => b.updBn fun n => { n with rem := [(⟨78, 2, 0, 4, 64, 1, [], .mailbox 3, some 0, none, none⟩ : RemTx)] }) ∘
      (fun b => wCmd Cmd.remote ([]) ([]) ([]) b) ∘ wHall2), 0, ⟨2, 0, ⟨.remote, 77, 0, 0, 256⟩, false⟩, [], by decide +kernel⟩,
    ⟨W (wNow (10 ^ 12) ∘
      (fun b => b.updBn fun n => { n with rem := [(⟨77, 2, 0, 4, 64, 1, [], .mailbox 3, some 0, none, none⟩ : RemTx)] }) ∘
      (fun b => wCmd Cmd.remote ([]) ([]) ([]) b) ∘ wHall2), 0, (⟨77, 2, 0, 4, 64, 1, [], .mailbox 3, some 0, none, none⟩ : RemTx), 0,
      by decide +kernel⟩,
    ⟨W (wSheets .dxs 2 (sheetsOf tLog 0 0 false (logBody lkTrend 7 (List.replicate 96 3))) ∘ wReg .dxs Reg.BN_TREND_SIZE 0 4096 ∘ wHall2),
      0, ((((W (wSheets .dxs 2 (sheetsOf tLog 0 0 false (logBody lkTrend 7 (List.replicate 96 3))) ∘ wReg .dxs Reg.BN_TREND_SIZE 0 4096 ∘
      wHall2)).hall.elapse 0).takeMessage .dxs tLog).get (by decide +kernel)).1,
      ((((W (wSheets .dxs 2 (sheetsOf tLog 0 0 false (logBody lkTrend 7 (List.replicate 96 3))) ∘ wReg .dxs Reg.BN_TREND_SIZE 0 4096 ∘
      wHall2)).hall.elapse 0).takeMessage .dxs tLog).get (by decide +kernel)).2, by decide +kernel⟩,
    ⟨W (wSheets .dxs 2 (sheetsOf tLog 0 0 false (logBody lkIst 7 (List.replicate 96 3))) ∘ wReg .dxs Reg.BN_TREND_SIZE 0 4096 ∘ wHall2), 0,
      ((((W (wSheets .dxs 2 (sheetsOf tLog 0 0 false (logBody lkIst 7 (List.replicate 96 3))) ∘ wReg .dxs Reg.BN_TREND_SIZE 0 4096 ∘
      wHall2)).hall.elapse 0).takeMessage .dxs tLog).get (by decide +kernel)).1,
      ((((W (wSheets .dxs 2 (sheetsOf tLog 0 0 false (logBody lkIst 7 (List.replicate 96 3))) ∘ wReg .dxs Reg.BN_TREND_SIZE 0 4096 ∘
      wHall2)).hall.elapse 0).takeMessage .dxs tLog).get (by decide +kernel)).2, by decide +kernel⟩,
    ⟨W (wNow (10 ^ 12) ∘ (fun b => b.updBn fun n => { n with logq := [⟨lkIst, [], 5⟩] }) ∘
      (fun b => b.sendMessage .dxs 2 tLog 0 0 false (logBody lkIst 0 [])) ∘ wUp .dxs 2 ∘ wHall .rootB), 0, ⟨lkIst, [], 5⟩, [], 2,
      by decide +kernel⟩⟩

set_option maxRecDepth 8000 in
theorem witness_BootAndUpkeep :
    (∃ s : State, ∃ dt : Nat, let b := s.hall.elapse dt; b.dxs.hub.bn.boot = 0 ∧ b.sm.powered = true ∧ b.sm.prst = true ∧
      (b.slotGood 0 = true ∨ b.slotGood 1 = true)) ∧
    (∃ s : State, ∃ dt : Nat, let b := s.hall.elapse dt; b.dxs.hub.bn.boot = 0 ∧ b.sm.powered = true ∧ b.sm.prst = true ∧
      b.slotGood 0 = false ∧ b.slotGood 1 = false) ∧
    (∃ s : State, ∃ dt : Nat, let b := s.hall.elapse dt; ∃ slice, b.dxs.hub.bn.boot = 1 ∧ topoIntact slice = true ∧
      b.recMatches (topoOf slice) = true) ∧
    (∃ s : State, ∃ dt : Nat, let b := s.hall.elapse dt; ∃ slice, b.dxs.hub.bn.boot = 1 ∧ topoIntact slice = true ∧
      b.recMatches (topoOf slice) = false) ∧
    (∃ s : State, ∃ dt : Nat, let b := s.hall.elapse dt; ∃ p, b.bring p = 1 ∧ (b.port .dxs p).st = .train ∧ (b.clk .dxs).lock = .locked ∧
      (b.clk .dxs).lockedAt + b.bringTo ≤ b.now) ∧
    (∃ s : State, ∃ dt : Nat, let b := s.hall.elapse dt; ∃ sd, ∃ lane, lane < nLanes sd ∧ b.isReg sd 1 1 Reg.IS_CTRL ≠ 0 ∧
      b.upPort sd (lane / 2) = true) ∧
    (∃ s : State, ∃ dt : Nat, let b := s.hall.elapse dt; ∃ sd, ∃ lane, lane < nLanes sd ∧ b.isReg sd 1 1 Reg.IS_CTRL ≠ 0 ∧
      b.upPort sd (lane / 2) = true) ∧
    (∃ s : State, ∃ dt : Nat, let b := s.hall.elapse dt; ∃ r, ∃ m, r < 64 ∧ m < 4 ∧ b.dxt.die.isDisabled r = false ∧
      b.isReg .dxt 2 2 Reg.IS_CTRL ≠ 0 ∧ b.repIdle r = true) ∧
    (∃ s : State, ∃ dt : Nat, let b := s.hall.elapse dt; ∃ p, b.dxs.hub.bn.boot = 1 ∧ b.topo.dies ≠ [] ∧ b.dxt.die.bring = .ready ∧ (∃ i,
      i < 48 ∧ (b.entryOf i).kind = 2 ∧ (b.entryOf i).nbr = ownRec) ∧ b.actingRoot = false ∧ b.logPort = some p) ∧
    (∃ s : State, ∃ dt : Nat, let b := s.hall.elapse dt; ∃ j, ∃ warns, b.actingRoot = true ∧ (b.job j).loaded = true ∧ let x := b.job j;
      let t := planTable x.table (b.projections j warns); let now := b.rf .dxs Reg.FT_PERIOD 23 0 j; let r := b.propRing; ∃ q,
      quantile999 x.pointSpans = some q ∧ let p := planPeriod q (tabMhz x.table x.oppNow) (tabMhz t x.oppNow); (padTo 128 x.table ≠ t ∨
      now < 100 * ((p : Int) - now).natAbs) ∧ 256 ≤ r.room 256 ∧ b.chanAble .dxs chanTrend = true) ∧
    (∃ s : State, ∃ dt : Nat, let b := s.hall.elapse dt; ∃ j, ∃ warns, b.actingRoot = true ∧ (b.job j).loaded = true ∧ let x := b.job j;
      let t := planTable x.table (b.projections j warns); let now := b.rf .dxs Reg.FT_PERIOD 23 0 j; ∃ q,
      quantile999 x.pointSpans = some q ∧ let p := planPeriod q (tabMhz x.table x.oppNow) (tabMhz t x.oppNow); padTo 128 x.table = t ∧
      100 * ((p : Int) - now).natAbs ≤ now) ∧
    (∃ s : State, ∃ dt : Nat, let b := s.hall.elapse dt; ∃ j, ∃ warns, b.actingRoot = true ∧ (b.job j).loaded = true ∧ let x := b.job j;
      let t := planTable x.table (b.projections j warns); let r := b.propRing; quantile999 x.pointSpans = none ∧ padTo 128 x.table ≠ t ∧
      256 ≤ r.room 256 ∧ b.chanAble .dxs chanTrend = true) ∧
    (∃ s : State, ∃ dt : Nat, let b := s.hall.elapse dt; ∃ g, ∃ w : Word, isRoot b.dxs.role = true ∧ PairReady b .dxs Reg.BN_PCOMMIT g w ∧
      let v := pairValue .dxs Reg.BN_PCOMMIT g; let j := fld v 7 0; ∃ y,
      (b.dxs.hub.bn.props.find? fun y => y.job == j && y.seq % 2 ^ 24 == fld v 31 8) = some y ∧ (b.job j).loaded = true ∧
      b.dxs.node.regs.run = none) ∧
    (∃ s : State, ∃ dt : Nat, let b := s.hall.elapse dt; ∃ g, ∃ w : Word, isRoot b.dxs.role = true ∧ PairReady b .dxs Reg.BN_PCOMMIT g w ∧
      let v := pairValue .dxs Reg.BN_PCOMMIT g; let j := fld v 7 0;
      (b.dxs.hub.bn.props.find? fun y => y.job == j && y.seq % 2 ^ 24 == fld v 31 8) = none) :=
  ⟨⟨W (wFlash 0xFFF000 (wNode 0 1 0) ∘ wOn), 0, by decide +kernel⟩,
    ⟨W (wFlash (flashSlot 0) [1] ∘ wFlash (flashSlot 1) [1] ∘ wFlash 0xFFF000 (wNode 0 1 0) ∘ wOn), 0, by decide +kernel⟩,
    ⟨W (wFlash 0xFFF000 (wNode 0 1 0) ∘ wAct), 0, (wTable [wNode 0 1 0]), by decide +kernel⟩,
    ⟨W (wFlash 0xFFF000 (wNode 3 1 0) ∘ wAct), 0, (wTable [wNode 0 1 0]), by decide +kernel⟩,
    ⟨W (wNow (10 ^ 12) ∘ wSt .dxs 2 .train ∘ wLock .dxs .locked ∘ (fun b => b.updBn fun n => { n with bring := [(2, 1)] }) ∘ wAct), 0, 2,
      by decide +kernel⟩,
    ⟨W (wUp .dxs 1 ∘ wReg .dxs 0xD000 0 7 ∘ wAct), 0, .dxs, 3, by decide +kernel⟩,
    ⟨W (wNow 77 ∘ wUp .dxs 1 ∘ wReg .dxs 0xD000 0 7 ∘ wAct), 0, .dxs, 3, by decide +kernel⟩,
    ⟨W (wNow 88 ∘ (fun b => b.updRegion 5 fun r => { r with ended := true }) ∘ wReg .dxt 0xC000 0 7), 0, 5, 2, by decide +kernel⟩,
    ⟨W (wUp .dxs 2 ∘ wReady ∘ wHall .rootB), 0, 2, by decide +kernel⟩,
    ⟨W (wReg .dxs Reg.BN_PROP_SIZE 0 4096 ∘
      wJob 18 (fun x => { x with st := .running, spans := [1966080000], table := leBytes 2 2000 ++ leBytes 1 0 ++ leBytes 1 1 ++ leBytes 4 700 ++ List.replicate 120 0 }) ∘
      wHall2), 0, 18, [], by decide +kernel, by decide +kernel, 1966080000, by decide +kernel⟩,
    ⟨W (wJob 18 (fun x => { x with st := .running, spans := [1966080000], table := leBytes 2 2000 ++ leBytes 1 0 ++ leBytes 1 1 ++ leBytes 4 700 ++ List.replicate 120 0 }) ∘
      wReg .dxs Reg.FT_PERIOD 18 30600 ∘ wHall2), 0, 18, [], by decide +kernel, by decide +kernel, 1966080000, by decide +kernel⟩,
    ⟨W (wReg .dxs Reg.BN_PROP_SIZE 0 4096 ∘
      (fun b => b.updBn fun n => { n with samples := [leBytes 4 0 ++ leBytes 4 0x030B1B05 ++ leBytes 12 77 ++ List.replicate 76 3] }) ∘
      wJob 18 (fun x => { x with st := .running, table := leBytes 2 2000 ++ leBytes 1 0 ++ leBytes 1 1 ++ leBytes 4 700 ++ List.replicate 120 0 }) ∘
      wHall2), 0, 18, [(4101, 7), (4102, 7)], by decide +kernel⟩,
    ⟨W ((fun b => b.updBn fun n => { n with props := [⟨9, 18, List.replicate 256 1⟩] }) ∘ wGuard .dxs Reg.BN_PCOMMIT 0x912 ∘
      wJob 18 (fun x => { x with st := .running }) ∘ wAct), 0, ⟨Reg.BN_PCOMMIT, 0, w32 0x912, 0⟩, cm 0x912, by decide +kernel,
      by decide +kernel, ⟨9, 18, List.replicate 256 1⟩, by decide +kernel⟩,
    ⟨W (wGuard .dxs Reg.BN_PCOMMIT 0x912 ∘ wJob 18 (fun x => { x with st := .running }) ∘ wAct), 0, ⟨Reg.BN_PCOMMIT, 0, w32 0x912, 0⟩,
      cm 0x912, by decide +kernel⟩⟩

theorem witness_Registers :
    (∃ be, be ≠ 15) ∧
    (∃ s : State, ∃ dt : Nat, ∃ sd : Side, let b := s.hall.elapse dt; ∃ off, ∃ be, let row := decodeReg b sd (off % windowSize sd / 4 * 4);
      be = 15 ∧ row = none) ∧
    (∃ s : State, ∃ dt : Nat, ∃ sd : Side, let b := s.hall.elapse dt; ∃ off, ∃ be, let row := decodeReg b sd (off % windowSize sd / 4 * 4);
      ∃ r, be = 15 ∧ row = some r ∧ (b.instOk sd r = false ∨ r.acc = .ro ∨ r.acc = .roc)) ∧
    (∃ s : State, ∃ dt : Nat, ∃ sd : Side, let b := s.hall.elapse dt; let c := (b.node sd).regs; ∃ off, ∃ be,
      let row := decodeReg b sd (off % windowSize sd / 4 * 4); ∃ r, be = 15 ∧ row = some r ∧ b.instOk sd r = true ∧ r.acc = .rws ∧
      c.run = none) ∧
    (∃ s : State, ∃ dt : Nat, ∃ sd : Side, let b := s.hall.elapse dt; let c := (b.node sd).regs; ∃ off, ∃ be,
      let row := decodeReg b sd (off % windowSize sd / 4 * 4); ∃ r, be = 15 ∧ row = some r ∧ b.instOk sd r = true ∧ r.acc = .rws ∧
      c.run ≠ none) ∧
    (∃ s : State, ∃ dt : Nat, ∃ sd : Side, ∃ w : Word, let b := s.hall.elapse dt; ∃ off, ∃ be,
      let row := decodeReg b sd (off % windowSize sd / 4 * 4); ∃ r, be = 15 ∧ row = some r ∧ b.instOk sd r = true ∧ r.acc = .rw ∧
      b.rwCommon sd r.off w = none ∧ (sd = .dxt → b.rwDie r.off w = none) ∧ (sd = .dxs → b.rwHub r.off (b.selIdx sd r) w = none)) ∧
    (∃ s : State, ∃ dt : Nat, ∃ sd : Side, let b := s.hall.elapse dt; let c := (b.node sd).regs; c.run = none) ∧
    (∃ s : State, ∃ dt : Nat, ∃ sd : Side, let b := s.hall.elapse dt; let c := (b.node sd).regs; c.run ≠ none ∧ c.queued = none) ∧
    (∃ s : State, ∃ dt : Nat, ∃ sd : Side, let b := s.hall.elapse dt; let c := (b.node sd).regs; c.run ≠ none ∧ c.queued ≠ none) ∧
    (∃ s : State, ∃ dt : Nat, ∃ sd : Side, let b := s.hall.elapse dt; let c := (b.node sd).regs; ∃ a, c.run = some a ∧ a.endAt ≤ b.now ∧
      c.due = [] ∧ c.queued = none ∧ ∃ r, a.verdict = some r) ∧
    (∃ s : State, ∃ dt : Nat, ∃ sd : Side, let b := s.hall.elapse dt; let c := (b.node sd).regs; ∃ a, c.run = some a ∧ a.endAt ≤ b.now ∧
      c.due = [] ∧ c.queued = none ∧ ∃ idx, ∃ off, ∃ x, a.verdict = none ∧ a.commits = [(regKey idx off, x)] ∧ off < 2 ^ 21 ∧
      off / 4096 ≠ 0 ∧ off / 4096 ≠ toPage sd ∧ off / 4096 ≠ dmPage sd ∧ off ∉ [Reg.SP_CTRL, Reg.TT_CTRL, Reg.RF_P_CFG, Reg.DXS_FD_CTRL,
      isBase .dxs + Reg.IS_CTRL, Reg.DXS_FD_ENG_EN] ∧ b.waitsLaunch sd (a.src == 1) (regKey idx off) = false ∧
      b.waitsCutoff sd (a.src == 1) (regKey idx off) = false) ∧
    (∃ s : State, ∃ dt : Nat, ∃ sd : Side, let b := s.hall.elapse dt; ∃ page, ∃ g, ∃ v, b.guard sd page = some g ∧
      g.openedAt + guardWindow sd < b.now ∧ pairOf sd g.off = some v) ∧
    (∃ s : State, ∃ dt : Nat, let b := s.hall.elapse dt; b.guard .dxs (Reg.SP_EPOCH / 4096) = none) ∧
    (∃ s : State, ∃ dt : Nat, ∃ w : Word, let b := s.hall.elapse dt; ∃ g, b.guard .dxs (Reg.SP_EPOCH / 4096) = some g ∧
      g.off = Reg.SP_EPOCH ∧ g.idx = b.guardIdx .dxs Reg.SP_EPOCH ∧ b.now ≤ g.openedAt + guardWindow .dxs ∧
      let m := guardMask .dxs Reg.SP_EPOCH; (g.w.toNat ^^^ w.toNat) &&& m = m) ∧
    (∃ s : State, ∃ dt : Nat, ∃ w : Word, let b := s.hall.elapse dt; ∃ g, b.guard .dxs (Reg.SP_EPOCH / 4096) = some g ∧
      g.off = Reg.SP_EPOCH ∧ g.idx = b.guardIdx .dxs Reg.SP_EPOCH ∧ b.now ≤ g.openedAt + guardWindow .dxs ∧
      let m := guardMask .dxs Reg.SP_EPOCH; (g.w.toNat ^^^ w.toNat) &&& m ≠ m) ∧
    (∃ s : State, ∃ dt : Nat, ∃ w : Word, let b := s.hall.elapse dt; ∃ g, PairReady b .dxs Reg.DXS_FQ_QUORUM g w) ∧
    (∃ s : State, ∃ dt : Nat, ∃ sd : Side, let b := s.hall.elapse dt; ∃ page, page < 32 ∧ bit (crcBlocks b sd) page = true ∧
      let crc := w32 (crc32c (b.crcInput sd page));
      let compared := wbit (b.reg sd Reg.CM_CRC_STALE) page = false ∧ wbit (b.reg sd Reg.CM_CRC_EN) page = true; compared ∧
      crc = b.reg sd Reg.CM_CFG_CRC_REF page) ∧
    (∃ s : State, ∃ dt : Nat, ∃ sd : Side, let b := s.hall.elapse dt; let c := (b.node sd).regs; ∃ page, page < 32 ∧
      bit (crcBlocks b sd) page = true ∧ let crc := w32 (crc32c (b.crcInput sd page)); let bad := nget crcBadZero c.crcBad page;
      let compared := wbit (b.reg sd Reg.CM_CRC_STALE) page = false ∧ wbit (b.reg sd Reg.CM_CRC_EN) page = true; compared ∧
      crc ≠ b.reg sd Reg.CM_CFG_CRC_REF page ∧ bad = 0) ∧
    (∃ s : State, ∃ dt : Nat, ∃ sd : Side, let b := s.hall.elapse dt; let c := (b.node sd).regs; ∃ page, page < 32 ∧
      bit (crcBlocks b sd) page = true ∧ let crc := w32 (crc32c (b.crcInput sd page)); let bad := nget crcBadZero c.crcBad page;
      let compared := wbit (b.reg sd Reg.CM_CRC_STALE) page = false ∧ wbit (b.reg sd Reg.CM_CRC_EN) page = true; compared ∧
      crc ≠ b.reg sd Reg.CM_CFG_CRC_REF page ∧ bad = 1) :=
  ⟨⟨3, by decide +kernel⟩,
    ⟨W (wAct), 0, .dxs, (2^20), 15, by decide +kernel⟩,
    ⟨W (wAct), 0, .dxs, Reg.BN_STATUS, 15,
      ((decodeReg ((W (wAct)).hall.elapse 0) .dxs (Reg.BN_STATUS % windowSize .dxs / 4 * 4)).get (by decide +kernel)), by decide +kernel⟩,
    ⟨W (wAct), 0, .dxs, Reg.SP_DWELL, 15,
      ((decodeReg ((W (wAct)).hall.elapse 0) .dxs (Reg.SP_DWELL % windowSize .dxs / 4 * 4)).get (by decide +kernel)), by decide +kernel⟩,
    ⟨W ((fun b => b.updRegs .dxs fun r => { r with run := some ⟨1, 0, none, [], 64⟩ }) ∘ wAct), 0, .dxs, Reg.SP_DWELL, 15,
      ((decodeReg ((W (wAct)).hall.elapse 0) .dxs (Reg.SP_DWELL % windowSize .dxs / 4 * 4)).get (by decide +kernel)), by decide +kernel⟩,
    ⟨W (wAct), 0, .dxs, w32 7, Reg.FT_JOBSEL, 15,
      ((decodeReg ((W (wAct)).hall.elapse 0) .dxs (Reg.FT_JOBSEL % windowSize .dxs / 4 * 4)).get (by decide +kernel)), by decide +kernel⟩,
    ⟨W (wAct), 0, .dxs, by decide +kernel⟩,
    ⟨W ((fun b => b.updRegs .dxs fun r => { r with run := some ⟨1, 0, none, [], 64⟩ }) ∘ wAct), 0, .dxs, by decide +kernel⟩,
    ⟨W ((fun b => b.updRegs .dxs fun r => { r with run := some ⟨1, 0, none, [], 64⟩, queued := some 4 }) ∘ wAct), 0, .dxs,
      by decide +kernel⟩,
    ⟨W (wNow 64 ∘ (fun b => b.updRegs .dxs fun r => { r with run := some ⟨1, 0, some ⟨6, 5, 4, 3⟩, [], 64⟩ }) ∘ wAct), 0, .dxs, ⟨1, 0,
      some ⟨6, 5, 4, 3⟩, [], 64⟩, by decide +kernel, by decide +kernel, by decide +kernel, by decide +kernel, ⟨6, 5, 4, 3⟩,
      by decide +kernel⟩,
    ⟨W (wNow 64 ∘ (fun b => b.updRegs .dxs fun r => { r with run := some ⟨1, 0, none, [(regKey 3 Reg.SP_DWELL, w32 99)], 64⟩ }) ∘ wAct), 0,
      .dxs, ⟨1, 0, none, [(regKey 3 Reg.SP_DWELL, w32 99)], 64⟩, by decide +kernel, by decide +kernel, by decide +kernel,
      by decide +kernel, 3, Reg.SP_DWELL, w32 99, by decide +kernel⟩,
    ⟨W (wNow (10 ^ 9) ∘ wGuard .dxs Reg.SP_EPOCH 5 ∘ wAct), 0, .dxs, (Reg.SP_EPOCH / 4096), ⟨Reg.SP_EPOCH,
      ((W wAct).hall.guardIdx .dxs Reg.SP_EPOCH), w32 5, 0⟩, Reg.SP_EPOCH, by decide +kernel⟩,
    ⟨W (wAct), 0, by decide +kernel⟩,
    ⟨W (wGuard .dxs Reg.SP_EPOCH 5 ∘ wAct), 0, cm 5, ⟨Reg.SP_EPOCH, ((W wAct).hall.guardIdx .dxs Reg.SP_EPOCH), w32 5, 0⟩,
      by decide +kernel⟩,
    ⟨W (wGuard .dxs Reg.SP_EPOCH 5 ∘ wAct), 0, cm 4, ⟨Reg.SP_EPOCH, ((W wAct).hall.guardIdx .dxs Reg.SP_EPOCH), w32 5, 0⟩,
      by decide +kernel⟩,
    ⟨W (wGuard .dxs Reg.DXS_FQ_QUORUM 3 ∘ wAct), 0, cm 3, ⟨Reg.DXS_FQ_QUORUM, 0, w32 3, 0⟩, by decide +kernel⟩,
    ⟨W (fun b => wReg .dxt Reg.CM_CFG_CRC_REF 2 (crc32c (b.crcInput .dxt 2)) (wReg .dxt Reg.CM_CRC_STALE 0 0 b)), 0, .dxt, 2,
      by decide +kernel⟩,
    ⟨W (wReg .dxt Reg.CM_CFG_CRC_REF 2 1 ∘ wReg .dxt Reg.CM_CRC_STALE 0 0 ∘ id), 0, .dxt, 2, by decide +kernel⟩,
    ⟨W ((fun b => b.updRegs .dxt fun r => { r with crcBad := [(2, 1)] }) ∘ wReg .dxt Reg.CM_CFG_CRC_REF 2 1 ∘
      wReg .dxt Reg.CM_CRC_STALE 0 0 ∘ id), 0, .dxt, 2, by decide +kernel⟩⟩

theorem witness_DmaChannels :
    (∃ sd : Side, ∃ ch : Nat, ch < nChans sd) ∧
    (∃ s : State, ∃ dt : Nat, ∃ sd : Side, ∃ ch : Nat, let b := s.hall.elapse dt; let x := b.chan sd ch; b.nextChan sd false = some ch ∧
      x.cur = none ∧ ∃ t, ∃ sp, ∃ a, ∃ l, ∃ rest, b.readDesc sd (b.tailAddr sd ch) = .run t ∧ t.src = (sp, a, l) :: rest ∧
      beyond sd sp a (burstLen a l) = false) ∧
    (∃ s : State, ∃ dt : Nat, ∃ sd : Side, ∃ ch : Nat, let b := s.hall.elapse dt; let x := b.chan sd ch; b.nextChan sd false = some ch ∧
      x.cur = none ∧ ∃ e, b.readDesc sd (b.tailAddr sd ch) = .skip e) ∧
    (∃ s : State, ∃ dt : Nat, ∃ sd : Side, ∃ ch : Nat, let b := s.hall.elapse dt; let x := b.chan sd ch; b.nextChan sd false = some ch ∧
      x.cur = none ∧ ∃ k, ∃ a, b.readDesc sd (b.tailAddr sd ch) = .bad k a) ∧
    (∃ s : State, ∃ dt : Nat, ∃ sd : Side, ∃ ch : Nat, let b := s.hall.elapse dt; let x := b.chan sd ch; ∃ t, ∃ sp, ∃ a, ∃ k,
      b.nextChan sd true = some ch ∧ x.cur = some t ∧ b.nextWrite sd ch = some (sp, a, k) ∧ beyond sd sp a k = false) ∧
    (∃ s : State, ∃ dt : Nat, ∃ sd : Side, ∃ ch : Nat, let b := s.hall.elapse dt; let x := b.chan sd ch; ∃ t, ∃ sp, ∃ a, ∃ k, ∃ rest,
      x.cur = some t ∧ t.rdOpen = (sp, a, k) :: rest ∧ t.flush < 2) ∧
    (∃ s : State, ∃ dt : Nat, ∃ sd : Side, ∃ ch : Nat, let b := s.hall.elapse dt; let x := b.chan sd ch; ∃ t, ∃ sp, ∃ a, ∃ bs : List Byte,
      ∃ rest, x.cur = some t ∧ t.wrOpen = (sp, a, bs) :: rest) ∧
    (∃ s : State, ∃ dt : Nat, ∃ sd : Side, ∃ ch : Nat, let b := s.hall.elapse dt; let x := b.chan sd ch; ∃ t, x.cur = some t ∧
      t.finished = true) ∧
    (∃ s : State, ∃ dt : Nat, ∃ sd : Side, ∃ ch : Nat, let b := s.hall.elapse dt; let x := b.chan sd ch; ∃ cause, ch < nChans sd ∧
      wbit (b.cReg sd ch 0) 31 = true ∧ x.runs = true ∧ (cause = 1 ∨ cause = 2 ∨ cause = 4)) ∧
    (∃ s : State, ∃ dt : Nat, ∃ sd : Side, ∃ ch : Nat, let b := s.hall.elapse dt; let x := b.chan sd ch; ∃ t, ∃ a, ∃ k, ∃ at_, sd = .dxs ∧
      x.cur = some t ∧ ((t.rdOpen.zip t.rdTimes).find? fun r => r.1.1 == 0) = some ((0, a, k), at_) ∧ at_ + 10000000 ≤ b.now) :=
  ⟨⟨.dxt, 2, by decide +kernel⟩,
    ⟨W ((fun b => (b.updChan .dxt 2 fun c => { c with st := .active }).sramWrite 0 (leBytes 8 4096 ++ leBytes 8 8192 ++ leBytes 4 64 ++
      leBytes 4 0 ++ leBytes 8 0)) ∘ wReg .dxt (chanReg .dxt 2 0x10) 0 1024 ∘ wReg .dxt (chanReg .dxt 2 0x14) 0 32 ∘
      wReg .dxt (chanReg .dxt 2 0) 0 0xC0000000), 0, .dxt, 2, by decide +kernel, by decide +kernel,
      (match ((W ((fun b => (b.updChan .dxt 2 fun c => { c with st := .active }).sramWrite 0 (leBytes 8 4096 ++ leBytes 8 8192 ++
      leBytes 4 64 ++ leBytes 4 0 ++ leBytes 8 0)) ∘ wReg .dxt (chanReg .dxt 2 0x10) 0 1024 ∘ wReg .dxt (chanReg .dxt 2 0x14) 0 32 ∘
      wReg .dxt (chanReg .dxt 2 0) 0 0xC0000000)).hall.elapse 0).readDesc .dxt 0 with | .run t => t | _ => ⟨[], [], 0, false, [], [], [],
      [], [], [], 0⟩), 0, 4096, 64, [], by decide +kernel⟩,
    ⟨W ((fun b => (b.updChan .dxt 2 fun c => { c with st := .active }).sramWrite 0 (leBytes 8 4096 ++ leBytes 8 8192 ++ leBytes 4 64 ++
      leBytes 4 256 ++ leBytes 8 0)) ∘ wReg .dxt (chanReg .dxt 2 0x10) 0 1024 ∘ wReg .dxt (chanReg .dxt 2 0x14) 0 32 ∘
      wReg .dxt (chanReg .dxt 2 0) 0 0xC0000000), 0, .dxt, 2, by decide +kernel, by decide +kernel, false, by decide +kernel⟩,
    ⟨W ((fun b => (b.updChan .dxt 2 fun c => { c with st := .active }).sramWrite 0 (leBytes 8 4096 ++ leBytes 8 8192 ++ leBytes 4 64 ++
      leBytes 4 512 ++ leBytes 8 0)) ∘ wReg .dxt (chanReg .dxt 2 0x10) 0 1024 ∘ wReg .dxt (chanReg .dxt 2 0x14) 0 32 ∘
      wReg .dxt (chanReg .dxt 2 0) 0 0xC0000000), 0, .dxt, 2, by decide +kernel, by decide +kernel, 3, 0, by decide +kernel⟩,
    ⟨W ((fun b => b.updChan .dxt 2 fun c => { c with cur := some ⟨[], [(0, 8192, 64)], 1, false, [], List.replicate 64 7, [], [], [], [], 0⟩ }) ∘
      (fun b => (b.updChan .dxt 2 fun c => { c with st := .active }).sramWrite 0 (leBytes 8 4096 ++ leBytes 8 8192 ++ leBytes 4 64 ++
      leBytes 4 0 ++ leBytes 8 0)) ∘ wReg .dxt (chanReg .dxt 2 0x10) 0 1024 ∘ wReg .dxt (chanReg .dxt 2 0x14) 0 32 ∘
      wReg .dxt (chanReg .dxt 2 0) 0 0xC0000000), 0, .dxt, 2, ⟨[], [(0, 8192, 64)], 1, false, [], List.replicate 64 7, [], [], [], [], 0⟩,
      0, 8192, 64, by decide +kernel⟩,
    ⟨W ((fun b => b.updChan .dxt 2 fun c => { c with cur := some ⟨[], [(0, 8192, 64)], 1, false, [], [], [(0, 4096, 64)], [], [], [0], 0⟩ }) ∘
      (fun b => (b.updChan .dxt 2 fun c => { c with st := .active }).sramWrite 0 (leBytes 8 4096 ++ leBytes 8 8192 ++ leBytes 4 64 ++
      leBytes 4 0 ++ leBytes 8 0)) ∘ wReg .dxt (chanReg .dxt 2 0x10) 0 1024 ∘ wReg .dxt (chanReg .dxt 2 0x14) 0 32 ∘
      wReg .dxt (chanReg .dxt 2 0) 0 0xC0000000), 0, .dxt, 2, ⟨[], [(0, 8192, 64)], 1, false, [], [], [(0, 4096, 64)], [], [], [0], 0⟩, 0,
      4096, 64, [], by decide +kernel⟩,
    ⟨W ((fun b => b.updChan .dxt 2 fun c => { c with cur := some ⟨[], [], 1, false, [], [], [], [(0, 8192, [1, 2, 3])], [(3, false)], [], 0⟩ }) ∘
      (fun b => (b.updChan .dxt 2 fun c => { c with st := .active }).sramWrite 0 (leBytes 8 4096 ++ leBytes 8 8192 ++ leBytes 4 64 ++
      leBytes 4 0 ++ leBytes 8 0)) ∘ wReg .dxt (chanReg .dxt 2 0x10) 0 1024 ∘ wReg .dxt (chanReg .dxt 2 0x14) 0 32 ∘
      wReg .dxt (chanReg .dxt 2 0) 0 0xC0000000), 0, .dxt, 2, ⟨[], [], 1, false, [], [], [], [(0, 8192, [1, 2, 3])], [(3, false)], [], 0⟩,
      0, 8192, [1, 2, 3], [], by decide +kernel⟩,
    ⟨W ((fun b => b.updChan .dxt 2 fun c => { c with cur := some ⟨[], [], 1, false, [], [], [], [], [], [], 0⟩ }) ∘
      (fun b => (b.updChan .dxt 2 fun c => { c with st := .active }).sramWrite 0 (leBytes 8 4096 ++ leBytes 8 8192 ++ leBytes 4 64 ++
      leBytes 4 0 ++ leBytes 8 0)) ∘ wReg .dxt (chanReg .dxt 2 0x10) 0 1024 ∘ wReg .dxt (chanReg .dxt 2 0x14) 0 32 ∘
      wReg .dxt (chanReg .dxt 2 0) 0 0xC0000000), 0, .dxt, 2, ⟨[], [], 1, false, [], [], [], [], [], [], 0⟩, by decide +kernel⟩,
    ⟨W ((fun b => b.updChan .dxt 2 fun c => { c with cur := some ⟨[], [(0, 8192, 64)], 1, false, [], [], [(0, 4096, 64)], [], [], [0], 0⟩ }) ∘
      (fun b => (b.updChan .dxt 2 fun c => { c with st := .active }).sramWrite 0 (leBytes 8 4096 ++ leBytes 8 8192 ++ leBytes 4 64 ++
      leBytes 4 0 ++ leBytes 8 0)) ∘ wReg .dxt (chanReg .dxt 2 0x10) 0 1024 ∘ wReg .dxt (chanReg .dxt 2 0x14) 0 32 ∘
      wReg .dxt (chanReg .dxt 2 0) 0 0xC0000000), 0, .dxt, 2, 2, by decide +kernel⟩,
    ⟨W (wNow (10 ^ 9) ∘
      (fun b => b.updChan .dxs 2 fun c => { c with cur := some ⟨[], [], 1, false, [], [], [(0, 4096, 64)], [], [], [0], 0⟩ }) ∘ wChans), 0,
      .dxs, 2, ⟨[], [], 1, false, [], [], [(0, 4096, 64)], [], [], [0], 0⟩, 4096, 64, 0, by decide +kernel⟩⟩

theorem witness_PowerAndReset :
    (∃ s : State, ∃ dt : Nat, let b := s.hall.elapse dt; let m := b.sm; m.prst = false ∧ m.powered = true ∧ m.hold = false ∧ ((∀ t,
      m.resetEnd = some t → t ≤ b.now))) ∧
    (∃ s : State, ∃ dt : Nat, let b := s.hall.elapse dt; let m := b.sm; m.prst = false ∧ (m.powered = false ∨ m.hold = true ∨ (∃ t,
      m.resetEnd = some t ∧ b.now < t))) ∧
    (∃ s : State, ∃ dt : Nat, let b := s.hall.elapse dt; let m := b.sm; m.powered = true) ∧
    (∃ s : State, ∃ dt : Nat, let b := s.hall.elapse dt; let m := b.sm; ∃ mv, m.mgmt = false ∧ m.powered = false ∧ 38500 < mv ∧
      mv ≤ 63000) ∧
    (∃ mv, (mv < 36000 ∨ 63000 < mv)) ∧
    (∃ mv, 36000 ≤ mv ∧ mv ≤ 63000) ∧
    (∃ s : State, ∃ dt : Nat, let b := s.hall.elapse dt; let m := b.sm; m.mgmt = true) ∧
    (∃ s : State, ∃ dt : Nat, let b := s.hall.elapse dt; let m := b.sm; m.mgmt = true ∧ m.powered = true) :=
  ⟨⟨W ((fun b => { b with sm := { b.sm with powered := true, prst := false, hold := false, resetEnd := none } }) ∘ id), 0,
    by decide +kernel⟩,
    ⟨W ((fun b => { b with sm := { b.sm with powered := true, prst := false, hold := true } }) ∘ id), 0, by decide +kernel⟩,
    ⟨W ((fun b => { b with sm := { b.sm with powered := true } }) ∘ id), 0, by decide +kernel⟩,
    ⟨W ((fun b => { b with sm := { b.sm with mgmt := false, powered := false } }) ∘ id), 0, 54000, by decide +kernel⟩,
    ⟨30000, by decide +kernel⟩,
    ⟨50000, by decide +kernel⟩,
    ⟨W ((fun b => { b with sm := { b.sm with mgmt := true, powered := false } }) ∘ id), 0, by decide +kernel⟩,
    ⟨W ((fun b => { b with sm := { b.sm with mgmt := true, powered := true } }) ∘ id), 0, by decide +kernel⟩⟩

theorem witness_ThermalProtection :
    (∃ s : State, ∃ dt : Nat, let b := s.hall.elapse dt; let m := b.sm; m.powered = true) ∧
    (∃ s : State, ∃ dt : Nat, let b := s.hall.elapse dt; let m := b.sm; m.powered = true ∧ m.therm = false ∧
      m.thermAt + 100000000 ≤ b.now) ∧
    (∃ s : State, ∃ dt : Nat, let b := s.hall.elapse dt; let m := b.sm; (m.therm = true ∨ b.now < m.thermAt + 100000000)) ∧
    (∃ s : State, ∃ dt : Nat, let b := s.hall.elapse dt; let m := b.sm; m.powered = false ∧ m.mgmt = true ∧ m.prst = false) ∧
    (∃ s : State, ∃ dt : Nat, let b := s.hall.elapse dt; let m := b.sm; m.powered = false ∧ m.mgmt = true) ∧
    (∃ s : State, ∃ dt : Nat, let b := s.hall.elapse dt; let m := b.sm; m.powered = false ∧ m.mgmt = true) :=
  ⟨⟨W ((fun b => { b with sm := { b.sm with powered := true } }) ∘ id), 0, by decide +kernel⟩,
    ⟨W (wNow (10 ^ 12) ∘ (fun b => { b with sm := { b.sm with powered := true, therm := false } }) ∘ id), 0, by decide +kernel⟩,
    ⟨W (wAct), 0, by decide +kernel⟩,
    ⟨W ((fun b => { b with sm := { b.sm with powered := false, mgmt := true, prst := false } }) ∘ id), 0, by decide +kernel⟩,
    ⟨W ((fun b => { b with sm := { b.sm with powered := false, mgmt := true } }) ∘ id), 0, by decide +kernel⟩,
    ⟨W ((fun b => { b with sm := { b.sm with powered := false, mgmt := true } }) ∘ id), 0, by decide +kernel⟩⟩

theorem witness_DieReset :
    (∃ s : State, ∃ dt : Nat, let b := s.hall.elapse dt; b.dxt.die.bring = .reset) ∧
    (∃ s : State, ∃ dt : Nat, let b := s.hall.elapse dt; b.dxt.die.bring ≠ .reset) ∧
    (∃ s : State, ∃ dt : Nat, let b := s.hall.elapse dt; b.dxt.die.bring = .colophon) :=
  ⟨⟨W (wDie fun d => { d with bring := .reset }), 0, by decide +kernel⟩,
    ⟨W (wAct), 0, by decide +kernel⟩,
    ⟨W (wDie fun d => { d with bring := .colophon }), 0, by decide +kernel⟩⟩

theorem witness_SwapOrders :
    (∃ k, (k = 1 ∨ k = 2 ∨ k = 3)) ∧
    (∃ b : Block, ∃ sd : Side, ∃ a : Nat, let d := b.spaceRead sd (ringSpace sd) a 32; let swap := bits (leAt d 20 4) 5 4;
      beyond sd (ringSpace sd) a 32 = false ∧ (swap = 1 ∧ leAt d 16 4 % 2 ≠ 0 ∨ 2 ≤ swap ∧ leAt d 16 4 % 4 ≠ 0)) :=
  ⟨⟨2, by decide +kernel⟩,
    ⟨(W ((fun b => b.sramWrite 4096 (leBytes 16 0 ++ leBytes 4 65 ++ leBytes 4 16 ++ leBytes 8 0)))).hall, .dxt, 4096, by decide +kernel⟩⟩

theorem witness_Management :
    (∃ s : State, ∃ dt : Nat, let b := s.hall.elapse dt; let m := b.sm; m.mgmt = true) ∧
    (∃ s : State, ∃ dt : Nat, let b := s.hall.elapse dt; let m := b.sm; m.mgmt = true) ∧
    (∃ s : State, ∃ dt : Nat, let b := s.hall.elapse dt; let m := b.sm; m.mgmt = true) ∧
    (∃ s : State, ∃ dt : Nat, let b := s.hall.elapse dt; let m := b.sm; m.mgmt = true) ∧
    (∃ s : State, ∃ dt : Nat, let b := s.hall.elapse dt; let m := b.sm; m.mgmt = true) ∧
    (∃ s : State, ∃ dt : Nat, let b := s.hall.elapse dt; let m := b.sm; m.mgmt = true) ∧
    (∃ s : State, ∃ dt : Nat, let b := s.hall.elapse dt; let m := b.sm; m.mgmt = true) ∧
    (∃ s : State, ∃ dt : Nat, let b := s.hall.elapse dt; let m := b.sm; m.mgmt = true) ∧
    (∃ s : State, ∃ dt : Nat, let b := s.hall.elapse dt; let m := b.sm; m.mgmt = true) ∧
    (∃ s : State, ∃ dt : Nat, let b := s.hall.elapse dt; let m := b.sm; m.mgmt = true) ∧
    (∃ s : State, ∃ dt : Nat, let b := s.hall.elapse dt; let m := b.sm; m.mgmt = true ∧ ∃ ms, 1 ≤ ms ∧ ms ≤ 65535) ∧
    (∃ s : State, ∃ dt : Nat, let b := s.hall.elapse dt; let m := b.sm; m.mgmt = true ∧ ∃ ms, (ms = 0 ∨ 65535 < ms)) ∧
    (∃ s : State, ∃ dt : Nat, let b := s.hall.elapse dt; let m := b.sm; m.mgmt = true) ∧
    (∃ s : State, ∃ dt : Nat, let b := s.hall.elapse dt; let m := b.sm; m.mgmt = true) ∧
    (∃ s : State, ∃ dt : Nat, let b := s.hall.elapse dt; let m := b.sm; m.mgmt = true ∧ ∃ addr, ∃ bs : List Byte, m.hold = true ∧
      1 ≤ bs.length ∧ bs.length ≤ 128 ∧ addr + bs.length ≤ 16777216) ∧
    (∃ s : State, ∃ dt : Nat, let b := s.hall.elapse dt; let m := b.sm; m.mgmt = true ∧ ∃ addr, ∃ len, m.hold = true ∧ 1 ≤ len ∧
      len ≤ 128 ∧ addr + len ≤ 16777216) ∧
    (∃ s : State, ∃ dt : Nat, let b := s.hall.elapse dt; let m := b.sm; m.mgmt = true ∧ ∃ bs : List Byte, (m.hold = false ∨ bs.length = 0 ∨
      128 < bs.length)) ∧
    (∃ s : State, ∃ dt : Nat, let b := s.hall.elapse dt; let m := b.sm; m.mgmt = true ∧ ∃ addr, ∃ bs : List Byte, m.hold = true ∧
      1 ≤ bs.length ∧ bs.length ≤ 128 ∧ 16777216 < addr + bs.length) :=
  ⟨⟨W ((fun b => { b with sm := { b.sm with mgmt := true, hold := true } }) ∘ id), 0, by decide +kernel⟩,
    ⟨W ((fun b => { b with sm := { b.sm with mgmt := true, hold := true } }) ∘ id), 0, by decide +kernel⟩,
    ⟨W ((fun b => { b with sm := { b.sm with mgmt := true, hold := true } }) ∘ id), 0, by decide +kernel⟩,
    ⟨W ((fun b => { b with sm := { b.sm with mgmt := true, hold := true } }) ∘ id), 0, by decide +kernel⟩,
    ⟨W ((fun b => { b with sm := { b.sm with mgmt := true, hold := true } }) ∘ id), 0, by decide +kernel⟩,
    ⟨W ((fun b => { b with sm := { b.sm with mgmt := true, hold := true } }) ∘ id), 0, by decide +kernel⟩,
    ⟨W ((fun b => { b with sm := { b.sm with mgmt := true, hold := true } }) ∘ id), 0, by decide +kernel⟩,
    ⟨W ((fun b => { b with sm := { b.sm with mgmt := true, hold := true } }) ∘ id), 0, by decide +kernel⟩,
    ⟨W ((fun b => { b with sm := { b.sm with mgmt := true, hold := true } }) ∘ id), 0, by decide +kernel⟩,
    ⟨W ((fun b => { b with sm := { b.sm with mgmt := true, hold := true } }) ∘ id), 0, by decide +kernel⟩,
    ⟨W ((fun b => { b with sm := { b.sm with mgmt := true, hold := true } }) ∘ id), 0, by decide +kernel, 50, by decide +kernel⟩,
    ⟨W ((fun b => { b with sm := { b.sm with mgmt := true, hold := true } }) ∘ id), 0, by decide +kernel, 0, by decide +kernel⟩,
    ⟨W ((fun b => { b with sm := { b.sm with mgmt := true, hold := true } }) ∘ id), 0, by decide +kernel⟩,
    ⟨W ((fun b => { b with sm := { b.sm with mgmt := true, hold := true } }) ∘ id), 0, by decide +kernel⟩,
    ⟨W ((fun b => { b with sm := { b.sm with mgmt := true, hold := true } }) ∘ id), 0, by decide +kernel, 100, [1, 2, 3],
      by decide +kernel⟩,
    ⟨W ((fun b => { b with sm := { b.sm with mgmt := true, hold := true } }) ∘ id), 0, by decide +kernel, 100, 3, by decide +kernel⟩,
    ⟨W ((fun b => { b with sm := { b.sm with mgmt := true, hold := false } }) ∘ id), 0, by decide +kernel, [1], by decide +kernel⟩,
    ⟨W ((fun b => { b with sm := { b.sm with mgmt := true, hold := true } }) ∘ id), 0, by decide +kernel, 16777216, [1],
      by decide +kernel⟩⟩

theorem witness_StepRunsTheFront :
    (∃ s : State, ∃ c, ∃ rest, s.pending = c :: rest) ∧
    (∃ s : State, s.pending = []) :=
  ⟨⟨({ State.reset with pending := [.nodeReset 5] } : State), (.nodeReset 5), [], by decide +kernel⟩,
    ⟨State.reset, by decide +kernel⟩⟩

end Sys2Proof.Tests
end

section
/-! SUPPORT. Marks on the lane: fields and stamps are found again, and a pair is decoded through its syndrome. The check is
linear over XOR, so the syndrome of a received pair is that of the error alone, and 168 errors stand for all pairs with one wrong
symbol. -/

namespace Sys2Proof.Machine

/-! ### Fields of a payload (R49, R51) -/

/-- The encoding table of R51. -/
theorem kind_mem_table (k : Kind) : (k, k.code, k.cls) ∈ [(Kind.idle, 0x00, 3), (.echoReq, 0x01, 3), (.echoRsp, 0x02, 3),
    (.go, 0x04, 0), (.fault, 0x05, 0), (.kill, 0x06, 0), (.done, 0x08, 1), (.arrive, 0x09, 1), (.count, 0x0A, 1),
    (.complete, 0x0B, 1), (.oppoint, 0x0C, 1), (.fence, 0x0D, 1), (.vote, 0x0E, 1), (.resync, 0x0F, 1), (.resyncAck, 0x10, 1),
    (.retry, 0x14, 2), (.remote, 0x18, 2), (.ql, 0x19, 2)] := by
  cases k <;> decide

/-- Kinds and codes agree: the code of a kind names that kind again. -/
@[simp] theorem kindOf_code (k : Kind) : kindOf k.code = some k := by cases k <;> rfl

theorem Kind.code_lt (k : Kind) : k.code < 2 ^ 6 := by cases k <;> decide

theorem Kind.cls_lt (k : Kind) : k.cls < 2 ^ 2 := by cases k <;> decide

/-- A payload as a number is the sum of its fields: none overflows into the next. -/
theorem Mark.payload_toNat (m : Mark) : m.payload.toNat = m.kind.code * 2 ^ 82 + m.kind.cls * 2 ^ 80 + m.obj.toNat * 2 ^ 64 +
    m.tag.toNat * 2 ^ 48 + m.stamp.toNat * 2 ^ 16 + m.arg.toNat := by
  have hcode := m.kind.code_lt
  have hcls := m.kind.cls_lt
  rw [payload, BitVec.toNat_ofNat, Nat.mod_eq_of_lt]
  have := m.obj.isLt
  have := m.tag.isLt
  have := m.stamp.isLt
  have := m.arg.isLt
  omega

/-- R49: where the fields of a mark stand in its payload. -/
theorem Mark.payload_fields (m : Mark) : let v := m.payload.toNat
    bits v 87 82 = m.kind.code ∧ bits v 81 80 = m.kind.cls ∧ bits v 79 64 = m.obj.toNat ∧ bits v 63 48 = m.tag.toNat ∧
      bits v 47 16 = m.stamp.toNat ∧ bits v 15 0 = m.arg.toNat := by
  have hcode := m.kind.code_lt
  have hcls := m.kind.cls_lt
  have hobj := m.obj.isLt
  have htag := m.tag.isLt
  have hstamp := m.stamp.isLt
  have harg := m.arg.isLt
  simp only [bits, payload_toNat, Nat.shiftRight_eq_div_pow]
  omega

/-- The mark of a payload whose code is that of a kind and whose class is that kind's (R50). -/
theorem markOf_of_fields (p : Payload) (k : Kind) (hcode : bits p.toNat 87 82 = k.code) (hcls : bits p.toNat 81 80 = k.cls) :
    markOf p = some ⟨k, BitVec.ofNat 16 (bits p.toNat 79 64), BitVec.ofNat 16 (bits p.toNat 63 48),
      BitVec.ofNat 32 (bits p.toNat 47 16), BitVec.ofNat 16 (bits p.toNat 15 0)⟩ := by
  simp only [markOf, hcode, kindOf_code, hcls, if_true]

theorem markOf_payload (m : Mark) : markOf m.payload = some m := by
  obtain ⟨hcode, hcls, hobj, htag, hstamp, harg⟩ := m.payload_fields
  rw [markOf_of_fields _ _ hcode hcls, hobj, htag, hstamp, harg]
  simp only [BitVec.ofNat_toNat, BitVec.setWidth_eq]

/-! ### Stamps (R14) -/

theorem stampOf_fields (t : Nat) :
    bits (stampOf t).toNat 31 12 = t / 65536 % 2 ^ 20 ∧ bits (stampOf t).toNat 11 0 = t % 65536 / 16 := by
  simp only [bits, stampOf, BitVec.toNat_ofNat, Nat.shiftRight_eq_div_pow]
  omega

/-- The low bits of a difference, read as a signed number, give the difference where it is in the signed range. -/
theorem sx_sub_ofNat (q o : Nat) (hlo : o ≤ q + 2 ^ 31) (hhi : q < o + 2 ^ 31) :
    sx 32 (BitVec.ofNat 32 q - BitVec.ofNat 32 o).toNat = (q : Int) - o := by
  simp only [sx, BitVec.toNat_sub, BitVec.toNat_ofNat]
  split <;> omega

/-- R14: a stamp gives back every hall time in units of a stamp within 2^31 of the receiver's own. -/
theorem expandStamp_stampOf (own t : Nat) (hunit : t % 16 = 0) (hhi : t + 16 ≤ own + 2 ^ 35) (hlo : own < t + 2 ^ 35) :
    expandStamp own (stampOf t) = t := by
  have hdiff := sx_sub_ofNat (t / 16) (own / 16) (by omega) (by omega)
  rw [expandStamp, stampOf, hdiff]
  omega

/-! ### The check is linear over XOR (R48) -/

theorem gfScale_gfPoly_xor : ∀ a < 4, ∀ b < 4, gfScale gfPoly (a ^^^ b) = gfScale gfPoly a ^^^ gfScale gfPoly b := by decide

theorem gfScale_gfPoly_lt : ∀ a < 4, gfScale gfPoly a < 2 ^ 24 := by decide

theorem gfStep_lt (st s : Nat) (hst : st < 2 ^ 24) (hs : s < 2 ^ 2) : gfStep st s < 2 ^ 24 := by
  have hfb : st >>> 22 ^^^ s < 2 ^ 2 := Nat.xor_lt_two_pow (by rw [Nat.shiftRight_eq_div_pow]; omega) hs
  exact Nat.xor_lt_two_pow (Nat.and_lt_two_pow _ (by decide)) (gfScale_gfPoly_lt _ hfb)

theorem gfStep_xor (a b s t : Nat) (ha : a < 2 ^ 24) (hb : b < 2 ^ 24) (hs : s < 2 ^ 2) (ht : t < 2 ^ 2) :
    gfStep (a ^^^ b) (s ^^^ t) = gfStep a s ^^^ gfStep b t := by
  have hfa : a >>> 22 ^^^ s < 2 ^ 2 := Nat.xor_lt_two_pow (by rw [Nat.shiftRight_eq_div_pow]; omega) hs
  have hfb : b >>> 22 ^^^ t < 2 ^ 2 := Nat.xor_lt_two_pow (by rw [Nat.shiftRight_eq_div_pow]; omega) ht
  have hfeed : (a ^^^ b) >>> 22 ^^^ (s ^^^ t) = (a >>> 22 ^^^ s) ^^^ (b >>> 22 ^^^ t) := by
    rw [Nat.shiftRight_xor_distrib]; ac_rfl
  simp only [gfStep, hfeed, gfScale_gfPoly_xor _ hfa _ hfb, Nat.shiftLeft_xor_distrib, Nat.and_xor_distrib_right]
  ac_rfl

/-- The division of any symbols keeps the remainder to twelve symbols. -/
theorem foldl_gfStep_lt (l : List Nat) (st : Nat) (hst : st < 2 ^ 24) (hl : ∀ s ∈ l, s < 2 ^ 2) :
    l.foldl gfStep st < 2 ^ 24 := by
  induction l generalizing st with
  | nil => exact hst
  | cons s l ih =>
    rw [List.forall_mem_cons] at hl
    exact ih _ (gfStep_lt st s hst hl.1) hl.2

/-- The remainder of a sum of polynomials is the sum of the remainders. -/
theorem foldl_gfStep_xor (l : List Nat) (f g : Nat → Nat) (hf : ∀ i, f i < 2 ^ 2) (hg : ∀ i, g i < 2 ^ 2) (a b : Nat)
    (ha : a < 2 ^ 24) (hb : b < 2 ^ 24) : (l.map fun i => f i ^^^ g i).foldl gfStep (a ^^^ b) =
      (l.map f).foldl gfStep a ^^^ (l.map g).foldl gfStep b := by
  induction l generalizing a b with
  | nil => rfl
  | cons i l ih =>
    simp only [List.map_cons, List.foldl_cons, gfStep_xor a b _ _ ha hb (hf i) (hg i)]
    exact ih _ _ (gfStep_lt a _ ha (hf i)) (gfStep_lt b _ hb (hg i))

theorem checkOf_lt (p : Payload) : checkOf p < 2 ^ 24 := by
  refine foldl_gfStep_lt _ 0 (by decide) fun s hs => ?_
  obtain ⟨i, -, rfl⟩ := List.mem_map.1 hs
  exact Nat.mod_lt _ (by decide)

theorem checkOf_xor (p q : Payload) : checkOf (p ^^^ q) = checkOf p ^^^ checkOf q := by
  have hsym (i : Nat) : ((p ^^^ q).toNat >>> i) % 2 ^ 2 = (p.toNat >>> i) % 2 ^ 2 ^^^ (q.toNat >>> i) % 2 ^ 2 := by
    rw [BitVec.toNat_xor, Nat.shiftRight_xor_distrib, Nat.xor_mod_two_pow]
  have hlt (x : Nat) : x % 2 ^ 2 < 2 ^ 2 := Nat.mod_lt _ (by decide)
  have hsum := foldl_gfStep_xor (List.range 44) (fun i => (p.toNat >>> (86 - 2 * i)) % 2 ^ 2)
    (fun i => (q.toNat >>> (86 - 2 * i)) % 2 ^ 2) (fun _ => hlt _) (fun _ => hlt _) 0 0 (by decide) (by decide)
  simp only [← hsym] at hsum
  exact hsum

/-! ### Syndromes and decoding (R48) -/

/-- The payload and the check of a received pair (R47). -/
def rxPayload (w : BitVec 112) : Payload := BitVec.ofNat 88 (w.toNat >>> 24)

/-- The syndrome of a received pair: the check of its payload against its own. -/
def syndrome (w : BitVec 112) : Nat := checkOf (rxPayload w) ^^^ w.toNat % 2 ^ 24

theorem decodePair_eq (w : BitVec 112) : decodePair w =
    (gfFind (syndrome w)).map fun e => (BitVec.ofNat 88 ((w.toNat ^^^ e) >>> 24), e != 0) := by
  unfold decodePair syndrome rxPayload
  dsimp only
  split
  case h_1 e he => rw [he, Option.map_some]
  case h_2 hnone => rw [hnone, Option.map_none]

theorem rxPayload_xor (w e : BitVec 112) : rxPayload (w ^^^ e) = rxPayload w ^^^ rxPayload e := by
  simp [rxPayload, Nat.shiftRight_xor_distrib, BitVec.ofNat_xor]

theorem syndrome_xor (w e : BitVec 112) : syndrome (w ^^^ e) = syndrome w ^^^ syndrome e := by
  simp only [syndrome, rxPayload_xor, checkOf_xor, BitVec.toNat_xor, Nat.xor_mod_two_pow]
  ac_rfl

theorem markBits_toNat (p : Payload) : (markBits p).toNat = p.toNat * 2 ^ 24 + checkOf p := by
  have hcheck := checkOf_lt p
  have hp := p.isLt
  rw [markBits, BitVec.toNat_ofNat, Nat.mod_eq_of_lt (by omega)]

theorem rxPayload_markBits (p : Payload) : rxPayload (markBits p) = p := by
  have hcheck := checkOf_lt p
  rw [rxPayload, markBits_toNat, Nat.shiftRight_eq_div_pow,
    show (p.toNat * 2 ^ 24 + checkOf p) / 2 ^ 24 = p.toNat by omega, BitVec.ofNat_toNat, BitVec.setWidth_eq]

theorem syndrome_markBits (p : Payload) : syndrome (markBits p) = 0 := by
  have hcheck := checkOf_lt p
  rw [syndrome, rxPayload_markBits, markBits_toNat,
    show (p.toNat * 2 ^ 24 + checkOf p) % 2 ^ 24 = checkOf p by omega, Nat.xor_self]

/-- An error whose syndrome leads back to it is taken off again, whatever the payload. -/
theorem decodePair_markBits_xor (p : Payload) (e : BitVec 112) (he : gfFind (syndrome e) = some e.toNat) :
    decodePair (markBits p ^^^ e) = some (p, e.toNat != 0) := by
  have hsyn : syndrome (markBits p ^^^ e) = syndrome e := by rw [syndrome_xor, syndrome_markBits, Nat.zero_xor]
  have hoff : (markBits p ^^^ e).toNat ^^^ e.toNat = (markBits p).toNat := by
    rw [BitVec.toNat_xor, Nat.xor_assoc, Nat.xor_self, Nat.xor_zero]
  rw [decodePair_eq, hsyn, he, Option.map_some, hoff]
  exact congrArg (fun q => some (q, _)) (rxPayload_markBits p)

/-- The syndromes of the 168 single wrong symbols are told apart: each leads back to its error. -/
theorem gfFind_syndrome_single : ∀ j < 56, ∀ v < 4, 1 ≤ v →
    gfFind (syndrome (BitVec.ofNat 112 (v * 4 ^ j))) = some (v * 4 ^ j) := by
  decide +kernel

theorem decodePair_markBits (p : Payload) : decodePair (markBits p) = some (p, false) := by
  simpa using decodePair_markBits_xor p 0 (by decide +kernel)

theorem decodePair_single (p : Payload) (j v : Nat) (hj : j < 56) (hlo : 1 ≤ v) (hhi : v ≤ 3) :
    decodePair (markBits p ^^^ BitVec.ofNat 112 (v * 4 ^ j)) = some (p, true) := by
  have hpow : 4 ^ j ≤ 4 ^ 55 := Nat.pow_le_pow_right (by decide) (by omega)
  have hpos : v * 4 ^ j ≠ 0 := by positivity
  have hval : (BitVec.ofNat 112 (v * 4 ^ j)).toNat = v * 4 ^ j := by
    have : v * 4 ^ j ≤ 3 * 4 ^ 55 := Nat.mul_le_mul hhi hpow
    rw [BitVec.toNat_ofNat, Nat.mod_eq_of_lt (by omega)]
  have hfind := gfFind_syndrome_single j hj v (by omega) hlo
  rw [decodePair_markBits_xor p _ (by rw [hval]; exact hfind), hval, bne_iff_ne.2 hpos]

/-- Settles O60: fields and stamps by arithmetic on the bits, decoding by the linearity of the check. -/
theorem markRoundTrip : Obligations.MarkRoundTrip :=
  ⟨kind_mem_table, markOf_payload, Mark.payload_fields, stampOf_fields, expandStamp_stampOf, decodePair_markBits,
    decodePair_single⟩

end Sys2Proof.Machine
end

section
/-! SUPPORT. Session pages (R243, R244, R246, R312): bytes written and read back in a page, what answering records writes and
leaves, and the polling pass over a single POSTED session page. -/

namespace Sys2Proof.Machine

/-! ### Bytes of a page -/

theorem leBytes_length (n v : Nat) : (leBytes n v).length = n := by
  induction n generalizing v with
  | zero => rfl
  | succ n ih => simp only [leBytes, List.length_cons, ih]

theorem ofLe_leBytes (n v : Nat) : ofLe (leBytes n v) = v % 256 ^ n := by
  induction n generalizing v with
  | zero => simp [leBytes, ofLe, Nat.mod_one]
  | succ n ih =>
    rw [leBytes, ofLe, ih, BitVec.toNat_ofNat, Nat.pow_succ' (m := 256), Nat.mod_mul]

theorem ofLe_lt (bs : List Byte) : ofLe bs < 256 ^ bs.length := by
  induction bs with
  | nil => simp [ofLe]
  | cons v bs ih =>
    have hv := v.isLt
    rw [ofLe, List.length_cons, Nat.pow_succ]
    omega

theorem leAt_lt (bs : List Byte) (i n : Nat) : leAt bs i n < 256 ^ n := by
  have hlen : (slice bs i n).length = n := by simp [slice]
  simpa only [leAt, hlen] using ofLe_lt (slice bs i n)

/-- Bytes just written are read back. -/
theorem memReadN_memWriteN_self (m : NMap Byte) (a : Nat) (bs : List Byte) : memReadN (memWriteN m a bs) a bs.length = bs := by
  refine List.ext_getElem (by simp [memReadN]) fun i _ hi => ?_
  simpa [memReadN] using memRead_memWriteN_inside m a i bs hi

theorem memReadN_memWriteN_apart (m : NMap Byte) (a c n : Nat) (bs : List Byte) (h : c + n ≤ a ∨ a + bs.length ≤ c) :
    memReadN (memWriteN m a bs) c n = memReadN m c n := by
  refine List.map_congr_left fun i hi => memRead_memWriteN_outside m a (c + i) bs ?_
  rw [List.mem_range] at hi
  omega

/-- A field just written is read back. -/
theorem Block.pageAt_setPage_self (b : Block) (mb i n v : Nat) : (b.setPage mb i (leBytes n v)).pageAt mb i n = v % 256 ^ n := by
  have hread := memReadN_memWriteN_self b.hub.mbox (mb * pageSize + i) (leBytes n v)
  rw [leBytes_length] at hread
  exact (congrArg ofLe hread).trans (ofLe_leBytes n v)

/-- A write within a mailbox leaves the bytes that lie apart from it, in its own page or another. -/
theorem Block.page_setPage_apart (b : Block) (mb m i j n : Nat) (bs : List Byte)
    (h : m * pageSize + j + n ≤ mb * pageSize + i ∨ mb * pageSize + i + bs.length ≤ m * pageSize + j) :
    (b.setPage mb i bs).page m j n = b.page m j n :=
  memReadN_memWriteN_apart b.hub.mbox _ _ n bs h

/-! ### What the parts of an answer leave -/

@[simp] theorem Block.hub_bump (b : Block) (sd : Side) (off idx k : Nat) : (b.bump sd off idx k).dxs.hub = b.dxs.hub := by
  simp only [bump, hw, setEff, updRegs, hub_updNode]

@[simp] theorem Block.page_bump (b : Block) (off idx k mb i n : Nat) : (b.bump .dxs off idx k).page mb i n = b.page mb i n := by
  simp only [page, hub, hub_bump]
@[simp] theorem Block.page_setCursor (b : Block) (mb c m i n : Nat) : (b.setCursor mb c).page m i n = b.page m i n := rfl
@[simp] theorem Block.cursor_bump (b : Block) (off idx k mb : Nat) : (b.bump .dxs off idx k).cursor mb = b.cursor mb := by
  simp only [cursor, hub, hub_bump]
@[simp] theorem Block.cursor_setPage (b : Block) (mb i m : Nat) (bs : List Byte) : (b.setPage mb i bs).cursor m = b.cursor m := rfl

@[simp] theorem Block.cursor_setCursor_self (b : Block) (mb c : Nat) : (b.setCursor mb c).cursor mb = c :=
  nget_nset_self cursorReset b.hub.bn.cursor mb c

@[simp] theorem Block.actingRoot_bump (b : Block) (off idx k : Nat) : (b.bump .dxs off idx k).actingRoot = b.actingRoot := by
  simp only [actingRoot, bump, hw, setEff, updRegs, role_updNode, root_updNode]
@[simp] theorem Block.actingRoot_setPage (b : Block) (mb i : Nat) (bs : List Byte) :
    (b.setPage mb i bs).actingRoot = b.actingRoot := rfl
@[simp] theorem Block.actingRoot_setCursor (b : Block) (mb c : Nat) : (b.setCursor mb c).actingRoot = b.actingRoot := rfl

theorem Block.cursor_each_setPage (b : Block) (mb at_ m : Nat) (l : List (Nat × List Byte)) :
    (b.each l fun b r => b.setPage mb (at_ + r.1) r.2).cursor m = b.cursor m := by
  induction l generalizing b with
  | nil => rfl
  | cons r l ih => exact ih (b.setPage mb (at_ + r.1) r.2)

/-! ### Answering a record, answering a page -/

/-- An answer without results. -/
theorem Block.answerRec_nil (b : Block) (mb e : Nat) : b.answerRec mb e [] =
    ((b.setPage mb (recAt (b.cursor mb) + 2) (leBytes 2 e)).setCursor mb (b.cursor mb + 1)).bump .dxs
      (if e == Ss.ok then Reg.DXS_SS_CMD_CNT else Reg.DXS_SS_REFUSED_CNT) := rfl

/-- A page answered without results. -/
theorem Block.answer_nil (b : Block) (mb status : Nat) :
    b.answer mb status = (b.setPage mb 10 (leBytes 2 status)).setOwn mb Own.done := rfl

theorem Block.cursor_answerRec (b : Block) (mb e : Nat) (out : List (Nat × List Byte)) :
    (b.answerRec mb e out).cursor mb = b.cursor mb + 1 := by
  simp only [answerRec, cursor_bump, cursor_setCursor_self, cursor_each_setPage]

/-- The status stands in the record, whatever the results. -/
theorem Block.pageAt_answerRec_status (b : Block) (mb e : Nat) (out : List (Nat × List Byte)) :
    (b.answerRec mb e out).pageAt mb (recAt (b.cursor mb) + 2) 2 = e % 2 ^ 16 := by
  simp only [answerRec, pageAt, page_bump, page_setCursor]
  exact pageAt_setPage_self _ mb _ 2 e

/-- An answer without results writes two bytes. -/
theorem Block.page_answerRec_apart (b : Block) (mb m e j n : Nat)
    (h : m * pageSize + j + n ≤ mb * pageSize + (recAt (b.cursor mb) + 2) ∨
      mb * pageSize + (recAt (b.cursor mb) + 4) ≤ m * pageSize + j) :
    (b.answerRec mb e []).page m j n = b.page m j n := by
  rw [answerRec_nil, page_bump, page_setCursor, page_setPage_apart]
  rw [leBytes_length]
  omega

/-- OWN is four bytes. -/
theorem Block.page_setOwn_apart (b : Block) (mb m o j n : Nat)
    (h : m * pageSize + j + n ≤ mb * pageSize ∨ mb * pageSize + 4 ≤ m * pageSize + j) :
    (b.setOwn mb o).page m j n = b.page m j n := by
  rw [setOwn, page_setPage_apart]
  rw [leBytes_length]
  omega

/-- Answering a page writes OWN and the two bytes of its status. -/
theorem Block.page_answer_apart (b : Block) (mb m status j n : Nat)
    (hown : m * pageSize + j + n ≤ mb * pageSize ∨ mb * pageSize + 4 ≤ m * pageSize + j)
    (hstatus : m * pageSize + j + n ≤ mb * pageSize + 10 ∨ mb * pageSize + 12 ≤ m * pageSize + j) :
    (b.answer mb status).page m j n = b.page m j n := by
  rw [answer_nil, page_setOwn_apart _ _ _ _ _ _ hown, page_setPage_apart]
  rw [leBytes_length]
  omega

/-- The answer of a page leaves what stands from byte 64 on. -/
theorem Block.page_answer_record (b : Block) (mb status j n : Nat) (hj : 64 ≤ j) :
    (b.answer mb status).page mb j n = b.page mb j n :=
  b.page_answer_apart mb mb status j n (by omega) (by omega)

/-- An answer to a record leaves the number of records. -/
theorem Block.nrec_answerRec (b : Block) (mb e : Nat) : (b.answerRec mb e []).nrec mb = b.nrec mb :=
  congrArg ofLe (b.page_answerRec_apart mb mb e 9 1 (by simp only [recAt]; omega))

theorem Block.nrec_answer (b : Block) (mb status : Nat) : (b.answer mb status).nrec mb = b.nrec mb :=
  congrArg ofLe (b.page_answer_apart mb mb status 9 1 (by omega) (by omega))

/-! ### The records that follow -/

theorem Block.cursor_lt_of_nextRec {b : Block} {mb : Nat} {r : List Byte} (h : b.nextRec mb = some r) :
    b.cursor mb < b.nrec mb := by
  unfold nextRec at h
  split at h
  case isTrue hc =>
    simp only [Bool.and_eq_true, decide_eq_true_eq] at hc
    exact hc.2
  case isFalse => cases h

/-- What `passBad` keeps: a property that the refusal of a record that is there and the answer of the page keep. -/
theorem Block.passBad_keeps {P : Block → Prop} (mb : Nat)
    (hrec : ∀ b e, b.cursor mb < b.nrec mb → e = Ss.notActing ∨ e = Ss.badCmd → P b → P (b.answerRec mb e []))
    (hans : ∀ b, P b → P (b.answer mb Cs.ok)) (n : Nat) (b : Block) (hb : P b) : P (b.passBad mb n) := by
  induction n generalizing b with
  | zero => exact hb
  | succ n ih =>
    rw [passBad]
    split
    case h_1 r hr =>
      have hcur := cursor_lt_of_nextRec hr
      split
      · exact ih _ (hrec b _ hcur (.inl rfl) hb)
      · split
        · exact ih _ (hrec b _ hcur (.inr rfl) hb)
        · exact hb
    case h_2 => exact hans b hb

/-- The status of a record that the cursor has passed stays. -/
theorem Block.pageAt_passBad_status (b : Block) (mb n i : Nat) (hi : i < b.cursor mb) :
    (b.passBad mb n).pageAt mb (recAt i + 2) 2 = b.pageAt mb (recAt i + 2) 2 := by
  refine (passBad_keeps (P := fun x => i < x.cursor mb ∧ x.pageAt mb (recAt i + 2) 2 = b.pageAt mb (recAt i + 2) 2) mb
    ?_ ?_ n b ⟨hi, rfl⟩).2
  · rintro x e - - ⟨hx, heq⟩
    refine ⟨by rw [cursor_answerRec]; omega, ?_⟩
    rw [pageAt, page_answerRec_apart, ← heq, pageAt]
    simp only [recAt, recSize]
    omega
  · rintro x ⟨hx, heq⟩
    refine ⟨hx, ?_⟩
    rw [← heq, pageAt, page_answer_record _ _ _ _ _ (by simp only [recAt]; omega), pageAt]

/-- Records of a page that holds at most 64 lie within it, so answering them leaves the other pages. -/
theorem Block.page_passBad_other (b : Block) (mb m n j k : Nat) (hm : m ≠ mb) (hj : j + k ≤ pageSize) (hn : b.nrec mb ≤ 64) :
    (b.passBad mb n).page m j k = b.page m j k := by
  have hapart : m * pageSize + pageSize ≤ mb * pageSize ∨ mb * pageSize + pageSize ≤ m * pageSize := by
    simp only [pageSize]
    omega
  refine (passBad_keeps (P := fun x => x.nrec mb ≤ 64 ∧ x.page m j k = b.page m j k) mb ?_ ?_ n b ⟨hn, rfl⟩).2
  · rintro x e hcur - ⟨hx, heq⟩
    have hat : recAt (x.cursor mb) + 4 ≤ pageSize := by
      simp only [recAt, recSize, pageSize]
      omega
    refine ⟨(x.nrec_answerRec mb e).trans_le hx, ?_⟩
    rw [page_answerRec_apart, heq]
    omega
  · rintro x ⟨hx, heq⟩
    have hhead : 12 ≤ pageSize := by decide
    refine ⟨(x.nrec_answer mb Cs.ok).trans_le hx, ?_⟩
    rw [page_answer_apart, heq] <;> omega

/-! ### The polling pass -/

/-- A page with records, taken by the acting root: its records one by one. -/
theorem Block.openPage_acting (b : Block) (mb : Nat) (hlo : 1 ≤ b.nrec mb) (hhi : b.nrec mb ≤ 64) (hres : b.pageAt mb 16 4 = 0)
    (hact : b.actingRoot = true) : b.openPage mb = (b.setCursor mb 0).passBad mb 65 := by
  have h0 : b.nrec mb ≠ 0 := by omega
  simp [openPage, h0, Nat.not_lt.2 hhi, hres, hact]

/-- A page as the pass takes it: TAKEN, counted, at its first record. -/
def Block.taken (b : Block) (mb : Nat) : Block := ((b.setOwn mb Own.taken).bump .dxs Reg.BN_MB_CMD_CNT).setCursor mb 0

theorem Block.page_taken_apart (b : Block) (mb m j n : Nat)
    (h : m * pageSize + j + n ≤ mb * pageSize ∨ mb * pageSize + 4 ≤ m * pageSize + j) :
    (b.taken mb).page m j n = b.page m j n := by
  rw [taken, page_setCursor, page_bump, page_setOwn_apart _ _ _ _ _ _ h]

/-- Taking a page leaves the fields after OWN. -/
theorem Block.pageAt_taken (b : Block) (mb j n : Nat) (hj : 4 ≤ j) : (b.taken mb).pageAt mb j n = b.pageAt mb j n :=
  congrArg ofLe (b.page_taken_apart mb mb j n (by omega))

theorem Block.own_taken (b : Block) (mb : Nat) : (b.taken mb).own mb = Own.taken := by
  have h := b.pageAt_setPage_self mb 0 4 Own.taken
  simp only [own, pageAt, taken, page_setCursor, page_bump, setOwn] at h ⊢
  rw [h]
  rfl

/-- R312: a session page of 1 to 64 records whose reserved bytes are 0, POSTED at the acting root. -/
structure Block.SessionPosted (b : Block) (mb : Nat) : Prop where
  mbox : mb < nMbox
  acting : b.actingRoot = true
  posted : b.own mb = Own.posted
  cls : b.pageAt mb 8 1 = 1
  reserved : b.pageAt mb 16 4 = 0
  holds : 1 ≤ b.nrec mb
  fits : b.nrec mb ≤ 64

theorem Block.SessionPosted.takePage {b : Block} {mb : Nat} (h : b.SessionPosted mb) :
    b.takePage mb = (b.taken mb).passBad mb 65 := by
  have hfield (j n : Nat) (hj : 4 ≤ j) :
      ((b.setOwn mb Own.taken).bump .dxs Reg.BN_MB_CMD_CNT).pageAt mb j n = b.pageAt mb j n := b.pageAt_taken mb j n hj
  have hcls := (hfield 8 1 (by decide)).trans h.cls
  have hnrec := hfield 9 1 (by decide)
  simp only [Block.takePage, hcls, beq_self_eq_true, if_true]
  exact openPage_acting _ mb (h.holds.trans_eq hnrec.symm) (hnrec.trans_le h.fits)
    ((hfield 16 4 (by decide)).trans h.reserved) h.acting

theorem Block.SessionPosted.own_takePage_other {b : Block} {mb m : Nat} (h : b.SessionPosted mb) (hm : m ≠ mb) :
    (b.takePage mb).own m = b.own m := by
  have hn : (b.taken mb).nrec mb ≤ 64 := (b.pageAt_taken mb 9 1 (by decide)).trans_le h.fits
  rw [h.takePage, own, pageAt, page_passBad_other _ _ _ _ _ _ hm (by decide) hn, page_taken_apart, own, pageAt]
  simp only [pageSize]
  omega

/-- The pass takes no page that is not POSTED. -/
theorem Block.each_takePage_of_not_posted (b : Block) (l : List Nat) (hl : ∀ m ∈ l, b.own m ≠ Own.posted) :
    b.each l (fun b m => if b.own m == Own.posted then b.takePage m else b) = b := by
  induction l with
  | nil => rfl
  | cons m l ih =>
    obtain ⟨hm, hl⟩ := List.forall_mem_cons.1 hl
    simp only [each, List.foldl_cons, beq_iff_eq, if_neg hm] at ih ⊢
    exact ih hl

/-- Where only one page is POSTED, the pass takes that page alone. -/
theorem Block.SessionPosted.mailboxPoll {b : Block} {mb : Nat} (h : b.SessionPosted mb) (hboot : b.hub.bn.boot = 1)
    (hother : ∀ m, m < nMbox → m ≠ mb → b.own m ≠ Own.posted) : mailboxPoll b = b.takePage mb := by
  obtain ⟨l, k, hlk⟩ := List.append_of_mem (List.mem_range.2 h.mbox)
  have hnodup : (l ++ mb :: k).Nodup := hlk ▸ List.nodup_range
  have hmem (m : Nat) (hm : m ∈ l ++ mb :: k) : m < nMbox := List.mem_range.1 (hlk ▸ hm)
  have hbefore : ∀ m ∈ l, b.own m ≠ Own.posted := fun m hm =>
    hother m (hmem m (List.mem_append_left _ hm)) fun heq => by grind
  have hafter : ∀ m ∈ k, (b.takePage mb).own m ≠ Own.posted := fun m hm => by
    have hne : m ≠ mb := fun heq => by grind
    rw [h.own_takePage_other hne]
    exact hother m (hmem m (List.mem_append_right _ (List.mem_cons_of_mem _ hm))) hne
  have hfirst := b.each_takePage_of_not_posted l hbefore
  have hrest := (b.takePage mb).each_takePage_of_not_posted k hafter
  simp only [Machine.mailboxPoll, hboot, hlk, each, List.foldl_append, List.foldl_cons] at hrest hfirst ⊢
  rw [hfirst, h.posted]
  exact hrest

/-- The first record of the page, where it is BAD_CMD, is answered so. -/
theorem Block.SessionPosted.pageAt_takePage_bad {b : Block} {mb : Nat} (h : b.SessionPosted mb)
    (hbad : recBad (b.page mb 64 48) = true) : (b.takePage mb).pageAt mb 66 2 = Ss.badCmd := by
  have hcur : (b.taken mb).cursor mb = 0 := cursor_setCursor_self _ mb 0
  have hcls : (b.taken mb).pageAt mb 8 1 = 1 := (b.pageAt_taken mb 8 1 (by decide)).trans h.cls
  have hnrec : (b.taken mb).nrec mb = b.nrec mb := b.pageAt_taken mb 9 1 (by decide)
  have hnext : (b.taken mb).nextRec mb = some (b.page mb 64 48) := by
    have hrec : (b.taken mb).page mb (recAt 0) recSize = b.page mb 64 48 := b.page_taken_apart mb mb 64 48 (by omega)
    simp only [nextRec, own_taken, hcls, hcur, hnrec, hrec]
    simp [h.mbox, Nat.pos_iff_ne_zero.1 h.holds]
  have hact : (b.taken mb).actingRoot = true := h.acting
  have hstatus := (b.taken mb).pageAt_answerRec_status mb Ss.badCmd []
  rw [hcur] at hstatus
  rw [h.takePage, passBad, hnext]
  simp only [hact, hbad, Bool.not_true, Bool.false_eq_true, if_false, if_true]
  exact (pageAt_passBad_status _ mb 64 0 (by rw [cursor_answerRec]; omega)).trans hstatus

/-- R244: no bit of FLAGS is defined for the commands 1 to 5, OPEN to RESUME, so a record that sets one is BAD_CMD. -/
theorem recBad_of_flags (r : List Byte) (hlo : 1 ≤ leAt r 0 1) (hhi : leAt r 0 1 ≤ 5) (hflags : leAt r 1 1 ≠ 0) :
    recBad r = true := by
  have hnone : flagsOf (leAt r 0 1) = 0 := by
    rw [flagsOf, if_neg (by simp; omega), if_neg (by simp; omega)]
  have hlt : leAt r 1 1 < 2 ^ 8 := leAt_lt r 1 1
  have hall : leAt r 1 1 &&& 255 = leAt r 1 1 := by
    rw [show 255 = 2 ^ 8 - 1 from rfl, Nat.and_two_pow_sub_one_eq_mod, Nat.mod_eq_of_lt hlt]
  simp [recBad, hnone, hall, hflags]

end Sys2Proof.Machine
end

section
/-! SUPPORT. Session commands (R245, R246, R263, R393): which check refuses, the status a record ends with, what a refusal leaves,
and the rows of the commands. -/

namespace Sys2Proof.Machine

/-! ### Checks -/

theorem firstBad_mem {cs : List (Option Nat)} {e : Nat} (h : firstBad cs = some e) : some e ∈ cs := by
  induction cs with
  | nil => cases h
  | cons c cs ih =>
    cases c with
    | none => exact List.mem_cons_of_mem _ (ih h)
    | some a => cases h; exact List.mem_cons_self

@[simp] theorem failIf_true (e : Nat) : failIf true e = some e := rfl
@[simp] theorem failIf_false (e : Nat) : failIf false e = none := rfl

/-- The first check that fails decides. -/
@[simp] theorem checked_cons_some (e : Nat) (cs : List (Option Nat)) (g : Unit → Nat × List (Nat × List Byte) × Block) :
    checked (some e :: cs) g = .error e := rfl
@[simp] theorem checked_cons_none (cs : List (Option Nat)) (g : Unit → Nat × List (Nat × List Byte) × Block) :
    checked (none :: cs) g = checked cs g := rfl

theorem failIf_eq_some {c : Bool} {e a : Nat} : failIf c a = some e ↔ c = true ∧ a = e := by
  cases c <;> simp [failIf]

/-- R246: a job that takes no command says so with one of three codes. -/
theorem Block.jobTakes_eq_some {b : Block} {j e : Nat} (h : b.jobTakes j = some e) :
    e = Ss.jobState ∨ e = Ss.notActing ∨ e = Ss.replay := by
  simp only [jobTakes] at h
  grind

theorem Block.jobTakes_halted {b : Block} {j : Nat} (h : (b.job j).st = .halted) : b.jobTakes j = some Ss.jobState := by
  simp [jobTakes, h]

theorem Block.jobTakes_replay {b : Block} {j : Nat} (hload : (b.job j).loaded = true) (hsess : (b.job j).sess = true)
    (hhalt : (b.job j).st ≠ .halted) (hstop : (b.job j).stopped = false) (hhold : (b.job j).hold = false)
    (hrep : (b.job j).replays = true) : b.jobTakes j = some Ss.replay := by
  simp [jobTakes, hload, hsess, hhalt, hstop, hhold, hrep]

/-! ### The answer of a command -/

/-- The status that a session command ends with. -/
def sessStatus : SessResult → Nat
  | .error e => e
  | .ok _ => Ss.ok

/-- A session command's effect leaves the binder, and so the page's cursor, as it was. -/
def KeepsBinder (b : Block) : SessResult → Prop
  | .error _ => True
  | .ok x => x.2.2.dxs.hub.bn = b.dxs.hub.bn

theorem keepsBinder_checked (b : Block) (cs : List (Option Nat)) (g : Unit → Nat × List (Nat × List Byte) × Block)
    (h : (g ()).2.2.dxs.hub.bn = b.dxs.hub.bn) : KeepsBinder b (checked cs g) := by
  unfold checked
  split
  · trivial
  · exact h

/-- A check that does not answer BAD_HANDLE. -/
def NotBadHandle (c : Option Nat) : Prop := ∀ e, c = some e → e % 2 ^ 16 ≠ Ss.badHandle

theorem notBadHandle_failIf (c : Bool) {a : Nat} (ha : a % 2 ^ 16 ≠ Ss.badHandle) : NotBadHandle (failIf c a) := by
  intro e he
  obtain ⟨-, rfl⟩ := failIf_eq_some.1 he
  exact ha

theorem Block.notBadHandle_jobTakes (b : Block) (j : Nat) : NotBadHandle (b.jobTakes j) := by
  intro e he
  obtain rfl | rfl | rfl := jobTakes_eq_some he <;> decide

/-- A command does not end with BAD_HANDLE where none of its checks gives it. -/
theorem sessStatus_checked_ne {cs : List (Option Nat)} {g : Unit → Nat × List (Nat × List Byte) × Block}
    (h : ∀ c ∈ cs, NotBadHandle c) : sessStatus (checked cs g) % 2 ^ 16 ≠ Ss.badHandle := by
  unfold checked
  split
  case h_1 e he => exact h _ (firstBad_mem he) e rfl
  case h_2 => exact (by decide : Ss.ok % 2 ^ 16 ≠ Ss.badHandle)

/-- The record's answer with its results; the records after it are still to be passed. -/
def Block.answerCommand (b : Block) (mb : Nat) : SessResult → Block
  | .error e => b.answerRec mb e []
  | .ok (j, out, n) => n.answerRec mb Ss.ok (out ++ [(36, leBytes 4 (n.job j).sn), (40, leBytes 8 (stamp64 n.accepted))])

theorem Block.sessCommand_of_ready {b : Block} {mb k : Nat} {r : List Byte} {sel : Nat → Bool}
    {f : List Byte → Block → SessResult} (hr : RecordReady b mb k r) (hsel : sel (leAt r 1 1) = true) :
    b.sessCommand mb k sel f = (b.answerCommand mb (f r b)).passBad mb 65 := by
  obtain ⟨hact, hnext, hgood, hcmd, hctrl⟩ := hr
  simp only [sessCommand, hnext, hact, hgood, hcmd, hsel, hctrl, if_true, bne_self_eq_false, Bool.not_true, Bool.or_self,
    Bool.false_eq_true, if_false]
  cases f r b <;> rfl

/-- The status of the record at which the page stood. -/
theorem Block.sessCommand_status {b : Block} {mb k : Nat} {r : List Byte} {sel : Nat → Bool} {f : List Byte → Block → SessResult}
    (hr : RecordReady b mb k r) (hsel : sel (leAt r 1 1) = true) (hkeep : KeepsBinder b (f r b)) :
    recordField b (b.sessCommand mb k sel f) mb 2 2 = sessStatus (f r b) % 2 ^ 16 := by
  have hcursor (e : Nat) (n : Block) (out : List (Nat × List Byte)) (hn : n.cursor mb = b.cursor mb) :
      ((n.answerRec mb e out).passBad mb 65).pageAt mb (recAt (b.cursor mb) + 2) 2 = e % 2 ^ 16 := by
    rw [pageAt_passBad_status _ mb 65 _ (by rw [cursor_answerRec]; omega), ← hn, pageAt_answerRec_status]
  rw [sessCommand_of_ready hr hsel, recordField]
  cases hf : f r b with
  | error e => exact hcursor e b [] rfl
  | ok x =>
    rw [hf] at hkeep
    exact hcursor Ss.ok x.2.2 _ (congrArg (fun y : Binder => nget cursorReset y.cursor mb) hkeep)

/-! ### What a refusal leaves -/

/-- What the refusal of a command leaves: the session tables, the jobs, the ports, the DMA channels and the count of accepted
commands. -/
def RefusalKeeps (o n : Block) : Prop :=
  n.dxs.hub.ss = o.dxs.hub.ss ∧ n.dxs.hub.jobs = o.dxs.hub.jobs ∧ n.dxs.node.ports = o.dxs.node.ports ∧
    n.dxs.node.dma = o.dxs.node.dma ∧ n.reg .dxs Reg.DXS_SS_CMD_CNT = o.reg .dxs Reg.DXS_SS_CMD_CNT

theorem RefusalKeeps.refl (b : Block) : RefusalKeeps b b := ⟨rfl, rfl, rfl, rfl, rfl⟩

theorem RefusalKeeps.answerRec {o b : Block} (h : RefusalKeeps o b) (mb e : Nat) (he : e ≠ Ss.ok) :
    RefusalKeeps o (b.answerRec mb e []) := by
  rw [Block.answerRec_nil, if_neg (by simpa using he)]
  obtain ⟨hss, hjobs, hports, hdma, hcount⟩ := h
  exact ⟨hss, hjobs, hports, hdma, (Block.reg_bump_ne _ _ _ _ _ _ _ (by decide)).trans hcount⟩

theorem RefusalKeeps.answer {o b : Block} (h : RefusalKeeps o b) (mb status : Nat) : RefusalKeeps o (b.answer mb status) := h

theorem RefusalKeeps.passBad {o b : Block} (h : RefusalKeeps o b) (mb n : Nat) : RefusalKeeps o (b.passBad mb n) := by
  refine Block.passBad_keeps mb ?_ (fun b hb => hb.answer mb Cs.ok) n b h
  rintro x e - (rfl | rfl) hx <;> exact hx.answerRec mb _ (by decide)

/-- A footprint adds no change: what the effect leaves stays, in the footprint or not. -/
theorem RefusalKeeps.keep {o n : Block} (h : RefusalKeeps o n) (fp : Foot) : RefusalKeeps o (fp.keep o n) := by
  obtain ⟨hss, hjobs, hports, hdma, hcount⟩ := h
  refine ⟨?_, ?_, ?_, ?_, ?_⟩
  · simp only [Foot.keep, Foot.dxs, Foot.hub, hss, Foot.pick_self]
  · simp only [Foot.keep, Foot.dxs, Foot.hub, hjobs, Foot.pick_self]
  · simp only [Foot.keep, Foot.dxs, Foot.node, hports, Foot.pick_self]
  · simp only [Foot.keep, Foot.dxs, Foot.node, hdma, Foot.pick_self]
  · by_cases hc : Comp.regs .dxs ∈ fp
    · rw [← hcount, Block.reg, Block.reg, Foot.keep_node, Foot.node, Foot.pick_in _ _ _ _ hc]
    · rw [Block.reg, Block.reg, Foot.keep_node, Foot.node, Foot.pick_out _ _ _ _ hc]

theorem Block.sessCommand_refusalKeeps {b : Block} {mb k e : Nat} {r : List Byte} {sel : Nat → Bool}
    {f : List Byte → Block → SessResult} (hr : RecordReady b mb k r) (hsel : sel (leAt r 1 1) = true) (hf : f r b = .error e)
    (he : e ≠ Ss.ok) : RefusalKeeps b (b.sessCommand mb k sel f) := by
  rw [sessCommand_of_ready hr hsel, hf]
  exact ((RefusalKeeps.refl b).answerRec mb e he).passBad mb 65

/-! ### The rows -/

theorem Foot.keep_page {fp : Foot} (h : Comp.mbox ∈ fp) (o n : Block) (mb i k : Nat) :
    (fp.keep o n).page mb i k = n.page mb i k := by
  simp only [Block.page, Block.hub, Foot.keep, Foot.dxs, Foot.hub, Foot.pick_in _ _ _ _ h]

/-- A command may be said to write more than it does. -/
theorem completes_mono {c : Instr} {dt : Nat} {fp fp' : Foot} {s : State} {Q : Block → Prop} (h : Completes c dt fp s Q)
    (hsub : fp ⊆ fp') : Completes c dt fp' s Q := by
  obtain ⟨t, hexec, hpend, hnow, huntouched, hq⟩ := h
  exact ⟨t, hexec, hpend, hnow, fun c hc => huntouched c fun hin => hc (hsub hin), hq⟩

/-- What the session commands of R245 may write between them. -/
def sessFoot : Foot := [.regs .dxs, .ports .dxs, .dma .dxs, .jobs, .sess, .binder, .mbox, .host]

/-- The row of a session command: it runs `f` on a record of code `k` whose FLAGS `sel` picks. -/
def SessRow (c : Instr) (dt mb k : Nat) (sel : Nat → Bool) (f : List Byte → Block → SessResult) : Prop :=
  ∃ fp : Foot, (∀ s, exec c s = s.act dt fp fun b => b.sessCommand mb k sel f) ∧ fp ⊆ sessFoot ∧ .mbox ∈ fp

theorem openSess_row (dt mb : Nat) : SessRow (.openSess dt mb) dt mb 1 anyFlags openCmd :=
  ⟨_, fun _ => rfl, by decide, by decide⟩
theorem admitCmd_row (dt mb : Nat) : SessRow (.admitCmd dt mb) dt mb 2 anyFlags admitCommand :=
  ⟨_, fun _ => rfl, by decide, by decide⟩
theorem cancel_row (dt mb : Nat) : SessRow (.cancel dt mb) dt mb 3 anyFlags cancelCmd :=
  ⟨_, fun _ => rfl, by decide, by decide⟩
theorem park_row (dt mb : Nat) : SessRow (.park dt mb) dt mb 4 anyFlags parkCmd :=
  ⟨_, fun _ => rfl, by decide, by decide⟩
theorem resume_row (dt mb : Nat) : SessRow (.resume dt mb) dt mb 5 anyFlags resumeCmd :=
  ⟨_, fun _ => rfl, by decide, by decide⟩
theorem close_row (dt mb : Nat) : SessRow (.close dt mb) dt mb 6 (fun f => !bit f 1) closeCmd :=
  ⟨_, fun _ => rfl, by decide, by decide⟩
theorem closeTicket_row (dt mb : Nat) : SessRow (.closeTicket dt mb) dt mb 6 (fun f => bit f 1) closeTicketCmd :=
  ⟨_, fun _ => rfl, by decide, by decide⟩
theorem query_row (dt mb : Nat) : SessRow (.query dt mb) dt mb 7 (fun f => !bit f 0) queryCmd :=
  ⟨_, fun _ => rfl, by decide, by decide⟩
theorem queryTenant_row (dt mb : Nat) : SessRow (.queryTenant dt mb) dt mb 7 (fun f => bit f 0) queryTenantCmd :=
  ⟨_, fun _ => rfl, by decide, by decide⟩

section

variable {c : Instr} {s : State} {dt mb k : Nat} {r : List Byte} {sel : Nat → Bool} {f : List Byte → Block → SessResult}

/-- A row's record does not end with a status that is not its command's. -/
theorem SessRow.status_ne (hrow : SessRow c dt mb k sel f) (hr : RecordReady (s.hall.elapse dt) mb k r)
    (hsel : sel (leAt r 1 1) = true) (hkeep : KeepsBinder (s.hall.elapse dt) (f r (s.hall.elapse dt))) {e : Nat}
    (hne : sessStatus (f r (s.hall.elapse dt)) % 2 ^ 16 ≠ e) :
    Completes c dt sessFoot s fun n => recordField (s.hall.elapse dt) n mb 2 2 ≠ e := by
  obtain ⟨fp, hexec, hsub, hmbox⟩ := hrow
  refine completes_mono (completes_of_act (hexec s) ?_) hsub
  rw [recordField, Block.pageAt, Foot.keep_page hmbox]
  exact fun heq => hne ((Block.sessCommand_status hr hsel hkeep).symm.trans heq)

/-- A row whose command is refused has no effect but the answer. -/
theorem SessRow.refused (hrow : SessRow c dt mb k sel f) (hr : RecordReady (s.hall.elapse dt) mb k r)
    (hsel : sel (leAt r 1 1) = true) {e : Nat} (hf : f r (s.hall.elapse dt) = .error e) (hlo : 1 ≤ e := by decide)
    (hhi : e < 2 ^ 16 := by decide) :
    Completes c dt sessFoot s fun n =>
      recordField (s.hall.elapse dt) n mb 2 2 = e ∧ RefusalKeeps (s.hall.elapse dt) n := by
  obtain ⟨fp, hexec, hsub, hmbox⟩ := hrow
  refine completes_mono (completes_of_act (hexec s) ?_) hsub
  refine ⟨?_, (Block.sessCommand_refusalKeeps hr hsel hf (Nat.ne_of_gt hlo)).keep fp⟩
  rw [recordField, Block.pageAt, Foot.keep_page hmbox]
  have hstatus := Block.sessCommand_status hr hsel (f := f) (by rw [hf]; trivial)
  rw [hf, sessStatus, Nat.mod_eq_of_lt hhi] at hstatus
  exact hstatus

end

/-! ### Commands on a handle -/

/-- A command that asks first for a current handle, then for a job that takes commands. -/
def HandleFirst (f : List Byte → Block → SessResult) : Prop := ∀ (r : List Byte) (b : Block), ∃ cs g,
  f r b = checked (failIf (!b.handleOk (cmdHandle r)) Ss.badHandle :: b.jobTakes (b.sess (slotOf (cmdHandle r))).job :: cs) g

theorem admitCommand_handleFirst : HandleFirst admitCommand := fun _ _ => by rw [admitCommand]; exact ⟨_, _, rfl⟩
theorem cancelCmd_handleFirst : HandleFirst cancelCmd := fun _ _ => by rw [cancelCmd]; exact ⟨_, _, rfl⟩
theorem parkCmd_handleFirst : HandleFirst parkCmd := fun _ _ => by rw [parkCmd]; exact ⟨_, _, rfl⟩
theorem closeCmd_handleFirst : HandleFirst closeCmd := fun _ _ => by rw [closeCmd]; exact ⟨_, _, rfl⟩

theorem HandleFirst.badHandle {f : List Byte → Block → SessResult} (hf : HandleFirst f) {r : List Byte} {b : Block}
    (h : b.handleOk (cmdHandle r) = false) : f r b = .error Ss.badHandle := by
  obtain ⟨cs, g, heq⟩ := hf r b
  rw [heq, h, Bool.not_false, failIf_true, checked_cons_some]

theorem HandleFirst.jobTakes {f : List Byte → Block → SessResult} (hf : HandleFirst f) {r : List Byte} {b : Block} {e : Nat}
    (h : b.handleOk (cmdHandle r) = true) (hjob : b.jobTakes (b.sess (slotOf (cmdHandle r))).job = some e) :
    f r b = .error e := by
  obtain ⟨cs, g, heq⟩ := hf r b
  rw [heq, h, Bool.not_true, failIf_false, checked_cons_none, hjob, checked_cons_some]

/-- The rows of the four commands on a handle. -/
theorem handleRow {c : Instr} {dt mb k : Nat}
    (h : (c, k) ∈ [(Instr.admitCmd dt mb, 2), (.cancel dt mb, 3), (.park dt mb, 4), (.close dt mb, 6)]) :
    ∃ sel f, SessRow c dt mb k sel f ∧ HandleFirst f ∧ ∀ fl, bit fl 1 = false → sel fl = true := by
  simp only [List.mem_cons, Prod.mk.injEq, List.not_mem_nil, or_false] at h
  obtain ⟨rfl, rfl⟩ | ⟨rfl, rfl⟩ | ⟨rfl, rfl⟩ | ⟨rfl, rfl⟩ := h
  · exact ⟨_, _, admitCmd_row dt mb, admitCommand_handleFirst, fun _ _ => rfl⟩
  · exact ⟨_, _, cancel_row dt mb, cancelCmd_handleFirst, fun _ _ => rfl⟩
  · exact ⟨_, _, park_row dt mb, parkCmd_handleFirst, fun _ _ => rfl⟩
  · exact ⟨_, _, close_row dt mb, closeCmd_handleFirst, fun fl h => by simp [h]⟩

/-! ### The refusals of single commands -/

theorem openCmd_noTenant {r : List Byte} {b : Block} (h : b.tenantOk (cmdTenant r) (cmdJob r) = false) :
    openCmd r b = .error Ss.noTenant := by
  simp [openCmd, h]

theorem cancelCmd_alreadyDone {r : List Byte} {b : Block} (h : b.handleOk (cmdHandle r) = true)
    (hjob : b.jobTakes (b.sess (slotOf (cmdHandle r))).job = none) (hst : (b.sess (slotOf (cmdHandle r))).st = Sess.open_) :
    cancelCmd r b = .error Ss.alreadyDone := by
  simp [cancelCmd, h, hjob, hst]

theorem cancelCmd_cancelDup {r : List Byte} {b : Block} (h : b.handleOk (cmdHandle r) = true)
    (hjob : b.jobTakes (b.sess (slotOf (cmdHandle r))).job = none) (hst : (b.sess (slotOf (cmdHandle r))).st ≠ Sess.open_)
    (hdup : (b.sess (slotOf (cmdHandle r))).cancel = true) : cancelCmd r b = .error Ss.cancelDup := by
  simp [cancelCmd, h, hjob, beq_false_of_ne hst, hdup]

theorem resumeCmd_expired {r : List Byte} {b : Block} (h : b.ticketOk (cmdHandle r) = true)
    (hpast : (b.ticket (cmdHandle r % 2 ^ 22)).expiry ≤ b.ht .dxs) : resumeCmd r b = .error Ss.expired := by
  have hpast' : b.ticketPast (cmdHandle r) = true := decide_eq_true hpast
  simp [resumeCmd, h, hpast']

/-! ### Which identifiers are current (R263, R393) -/

/-- A ticket is current where it names a parked record before its expiry. -/
def Block.ticketCurrent (b : Block) (t : Nat) : Bool := b.ticketOk t && decide (b.ht .dxs < (b.ticket (t % 2 ^ 22)).expiry)

theorem Block.not_ticketCurrent (b : Block) (t : Nat) : (!b.ticketOk t || b.ticketPast t) = !b.ticketCurrent t := by
  simp only [ticketCurrent, ticketPast, accepted, ge_iff_le, Bool.not_and, ← decide_not, Nat.not_lt]

theorem closeTicketCmd_badHandle {r : List Byte} {b : Block} (h : b.ticketCurrent (cmdHandle r) = false) :
    closeTicketCmd r b = .error Ss.badHandle := by
  simp only [closeTicketCmd, Block.not_ticketCurrent, h, Bool.not_false, failIf_true, checked_cons_some]

/-- The kind that FLAGS names: bit 1 a ticket, else a handle. -/
def Block.queryKnown (b : Block) (r : List Byte) : Bool :=
  if bit (leAt r 1 1) 1 then b.ticketCurrent (cmdHandle r) else b.handleOk (cmdHandle r)

theorem queryCmd_badHandle {r : List Byte} {b : Block} (h : b.queryKnown r = false) : queryCmd r b = .error Ss.badHandle := by
  unfold Block.queryKnown at h
  unfold queryCmd
  split at h
  case isTrue hfl => simp [hfl, Block.not_ticketCurrent, h]
  case isFalse hfl => simp [hfl, h]

/-! ### A current identifier is not BAD_HANDLE -/

theorem closeCmd_status {r : List Byte} {b : Block} (h : b.handleOk (cmdHandle r) = true) :
    sessStatus (closeCmd r b) % 2 ^ 16 ≠ Ss.badHandle := by
  simp only [closeCmd, h, Bool.not_true, failIf_false, checked_cons_none]
  refine sessStatus_checked_ne (List.forall_mem_cons.2 ⟨b.notBadHandle_jobTakes _, List.forall_mem_singleton.2 ?_⟩)
  exact notBadHandle_failIf _ (by decide)

theorem closeTicketCmd_status {r : List Byte} {b : Block} (h : b.ticketCurrent (cmdHandle r) = true) :
    sessStatus (closeTicketCmd r b) % 2 ^ 16 ≠ Ss.badHandle := by
  simp only [closeTicketCmd, Block.not_ticketCurrent, h, Bool.not_true, failIf_false, checked_cons_none]
  refine sessStatus_checked_ne (List.forall_mem_cons.2 ⟨notBadHandle_failIf _ (by decide), List.forall_mem_cons.2
    ⟨notBadHandle_failIf _ (by decide), List.forall_mem_singleton.2 ?_⟩⟩)
  exact notBadHandle_failIf _ (by decide)

theorem queryCmd_status {r : List Byte} {b : Block} (h : b.queryKnown r = true) :
    sessStatus (queryCmd r b) % 2 ^ 16 ≠ Ss.badHandle := by
  have hstopped (j : Nat) : ∀ c ∈ [failIf (b.job j).stopped Ss.jobState], NotBadHandle c :=
    List.forall_mem_singleton.2 (notBadHandle_failIf _ (by decide))
  unfold Block.queryKnown at h
  unfold queryCmd
  split at h
  case isTrue hfl =>
    simp only [hfl, if_true, Block.not_ticketCurrent, h, Bool.not_true, failIf_false, checked_cons_none]
    exact sessStatus_checked_ne (hstopped _)
  case isFalse hfl =>
    simp only [hfl, Bool.false_eq_true, if_false, h, Bool.not_true, failIf_false, checked_cons_none]
    exact sessStatus_checked_ne (hstopped _)

theorem queryTenantCmd_status (r : List Byte) (b : Block) : sessStatus (queryTenantCmd r b) % 2 ^ 16 ≠ Ss.badHandle := by
  simp only [queryTenantCmd]
  refine sessStatus_checked_ne (List.forall_mem_cons.2 ⟨notBadHandle_failIf _ (by decide), List.forall_mem_singleton.2 ?_⟩)
  exact notBadHandle_failIf _ (by decide)

theorem Block.bn_dropParked (b : Block) (i : Nat) : (b.dropParked i).dxs.hub.bn = b.dxs.hub.bn := by
  unfold dropParked wheelDrop
  split <;> rfl

theorem closeCmd_keepsBinder (r : List Byte) (b : Block) : KeepsBinder b (closeCmd r b) := by
  simp only [closeCmd]
  exact keepsBinder_checked b _ _ rfl

theorem closeTicketCmd_keepsBinder (r : List Byte) (b : Block) : KeepsBinder b (closeTicketCmd r b) := by
  simp only [closeTicketCmd]
  exact keepsBinder_checked b _ _ (b.bn_dropParked _)

theorem queryCmd_keepsBinder (r : List Byte) (b : Block) : KeepsBinder b (queryCmd r b) := by
  unfold queryCmd
  split <;> exact keepsBinder_checked b _ _ rfl

theorem queryTenantCmd_keepsBinder (r : List Byte) (b : Block) : KeepsBinder b (queryTenantCmd r b) := by
  simp only [queryTenantCmd]
  exact keepsBinder_checked b _ _ rfl

/-! ### The obligation -/

/-- Settles O40: a refusal is answered by the first check that fails and writes the page, its cursor and the count of refusals
alone; each clause names the check. -/
theorem sessionRefusals : Obligations.SessionRefusals := by
  intro s dt mb r
  refine ⟨fun hr h => (openSess_row dt mb).refused hr rfl (openCmd_noTenant h), ?_, ?_, ?_, ?_, ?_, ?_, ?_, ?_, ?_⟩
  · intro c k hc hr hfl
    obtain ⟨sel, f, hrow, hfirst, hsel⟩ := handleRow hc
    exact ⟨fun h => hrow.refused hr (hsel _ hfl) (hfirst.badHandle h),
      fun h hst => hrow.refused hr (hsel _ hfl) (hfirst.jobTakes h (Block.jobTakes_halted hst)),
      fun h hload hsess hhalt hstop hhold hrep => hrow.refused hr (hsel _ hfl)
        (hfirst.jobTakes h (Block.jobTakes_replay hload hsess hhalt hstop hhold hrep))⟩
  · exact fun hr h hjob hst => (cancel_row dt mb).refused hr rfl (cancelCmd_alreadyDone h hjob hst)
  · exact fun hr h hjob hst hdup => (cancel_row dt mb).refused hr rfl (cancelCmd_cancelDup h hjob hst hdup)
  · exact fun hr h hpast => (resume_row dt mb).refused hr rfl (resumeCmd_expired h hpast)
  · rintro hmb hboot hpost hother hcls hres hlo hhi hact rfl hcmd hcmd' hfl
    have hposted : (s.hall.elapse dt).SessionPosted mb := ⟨hmb, hact, hpost, hcls, hres, hlo, hhi⟩
    refine completes_of_act rfl ?_
    rw [Block.pageAt, Foot.keep_page (by decide), hposted.mailboxPoll hboot hother]
    exact hposted.pageAt_takePage_bad (recBad_of_flags _ hcmd hcmd' hfl)
  · exact fun hr hfl => ⟨fun h => (closeTicket_row dt mb).refused hr hfl (closeTicketCmd_badHandle h),
      fun h => (closeTicket_row dt mb).status_ne hr hfl (closeTicketCmd_keepsBinder _ _) (closeTicketCmd_status h)⟩
  · exact fun hr hfl h => (close_row dt mb).status_ne hr (by simp [hfl]) (closeCmd_keepsBinder _ _) (closeCmd_status h)
  · exact fun hr hfl => ⟨fun h => (query_row dt mb).refused hr (by simp [hfl]) (queryCmd_badHandle h),
      fun h => (query_row dt mb).status_ne hr (by simp [hfl]) (queryCmd_keepsBinder _ _) (queryCmd_status h)⟩
  · exact fun hr hfl => (queryTenant_row dt mb).status_ne hr hfl (queryTenantCmd_keepsBinder _ _) (queryTenantCmd_status _ _)

end Sys2Proof.Machine
end

section
/-! SUPPORT. The SWAP of a transfer (R362, R363): a stream swaps its first unit and then its rest, and a descriptor whose LEN is
no multiple of the unit fails the check. -/

namespace Sys2Proof.Machine

/-! ### Units of a stream (R362) -/

/-- A unit costs one fuel and holds at least two bytes, so any fuel above the length gives the same bytes. -/
theorem swapFuel_congr (k : Nat) {n m : Nat} {bs : List Byte} (hn : bs.length < n) (hm : bs.length < m) :
    swapFuel k n bs = swapFuel k m bs := by
  induction n generalizing m bs with
  | zero => exact absurd hn (Nat.not_lt_zero _)
  | succ n ih =>
    obtain ⟨m, rfl⟩ := Nat.exists_eq_add_one_of_ne_zero (Nat.ne_zero_of_lt hm)
    have hrest (r : List Byte) (hr : r.length + 2 ≤ bs.length) : swapFuel k n r = swapFuel k m r := ih (by omega) (by omega)
    unfold swapFuel
    split
    case h_1 => rfl
    case h_2 => rw [hrest _ (by simp)]
    case h_3 => rw [hrest _ (by simp)]
    case h_4 => rw [hrest _ (by simp)]
    case h_5 => rfl

theorem swapBytes_eq_swapFuel (k : Nat) {n : Nat} {bs : List Byte} (h : bs.length < n) : swapBytes k bs = swapFuel k n bs :=
  swapFuel_congr k bs.length.lt_succ_self h

theorem swapBytes_none (bs : List Byte) : swapBytes 0 bs = (bs, []) := rfl

theorem swapBytes_nil {k : Nat} (hk : k = 1 ∨ k = 2 ∨ k = 3) : swapBytes k [] = ([], []) := by
  rcases hk with rfl | rfl | rfl <;> rfl

theorem swapBytes_bytePair (x y : Byte) (r : List Byte) :
    swapBytes 1 (x :: y :: r) = (y :: x :: (swapBytes 1 r).1, (swapBytes 1 r).2) := by
  rw [swapBytes_eq_swapFuel 1 (bs := r) (n := r.length + 2) (by omega)]
  rfl

theorem swapBytes_word (x y z u : Byte) (r : List Byte) :
    swapBytes 2 (x :: y :: z :: u :: r) = (u :: z :: y :: x :: (swapBytes 2 r).1, (swapBytes 2 r).2) := by
  rw [swapBytes_eq_swapFuel 2 (bs := r) (n := r.length + 4) (by omega)]
  rfl

theorem swapBytes_halfWords (x y z u : Byte) (r : List Byte) :
    swapBytes 3 (x :: y :: z :: u :: r) = (z :: u :: x :: y :: (swapBytes 3 r).1, (swapBytes 3 r).2) := by
  rw [swapBytes_eq_swapFuel 3 (bs := r) (n := r.length + 4) (by omega)]
  rfl

/-! ### LEN and the unit (R363) -/

theorem swapUnit_of_two_le {k : Nat} (hk : 2 ≤ k) : swapUnit k = 4 := by
  obtain ⟨j, rfl⟩ := Nat.exists_eq_add_of_le' hk
  rfl

theorem Block.readDesc_of_len_mod_unit {b : Block} {sd : Side} {a : Nat} (hin : beyond sd (ringSpace sd) a 32 = false)
    (hlen : leAt (b.spaceRead sd (ringSpace sd) a 32) 16 4 %
      swapUnit (bits (leAt (b.spaceRead sd (ringSpace sd) a 32) 20 4) 5 4) ≠ 0) :
    b.readDesc sd a = .bad Halt.descBad a := by
  simp only [Block.readDesc, hin, bne_iff_ne.2 hlen, Bool.or_true, Bool.true_or, Bool.false_eq_true, if_false, if_true]

/-! ### The obligation -/

/-- Settles O53: the orders are one unit unrolled, and a LEN that breaks the unit is caught by the descriptor's check. -/
theorem swapOrders : Obligations.SwapOrders := by
  refine ⟨swapBytes_none, fun _ => swapBytes_nil, swapBytes_bytePair, swapBytes_word, swapBytes_halfWords, ?_⟩
  intro b sd a d swap hin hlen
  refine Block.readDesc_of_len_mod_unit hin ?_
  change leAt d 16 4 % swapUnit swap ≠ 0
  rcases hlen with ⟨hswap, hodd⟩ | ⟨hswap, hrest⟩
  · rw [hswap]
    exact hodd
  · rw [swapUnit_of_two_le hswap]
    exact hrest

end Sys2Proof.Machine
end
